-- ==== Sys2Proof/Word.lean ====
section
/-! DEFINITION. Bytes of the serial links, and the two readings of a list of bytes as a number (spec R187:
most significant byte first, signed values in two's complement). -/

namespace Sys2Proof

/-- One byte of a serial link. -/
abbrev Byte := BitVec 8

/-- The number a list of bytes spells, most significant byte first (R187). -/
def bytesNat (bs : List Byte) : Nat :=
  bs.foldl (fun acc b => acc * 256 + b.toNat) 0

/-- `n` modulo 256^w in `w` bytes, most significant byte first (R187). -/
def natBytes : Nat → Nat → List Byte
  | 0, _ => []
  | w + 1, n => BitVec.ofNat 8 (n / 256 ^ w) :: natBytes w n

/-- `n` in `w` bytes in two's complement (R187). -/
def intBytes (w : Nat) (n : Int) : List Byte :=
  natBytes w (n % (256 ^ w : Nat)).toNat

/-- The signed number that one byte spells in two's complement (R187). -/
def byteInt (b : Byte) : Int := b.toInt

end Sys2Proof
end

