-- ==== Sys2Proof/Config.lean ====
section
/-! DEFINITION. The constants the part is built with: the capacities of 00 section 5, the intervals the rules
name, and the texts of IDENTIFY (R184). -/

namespace Sys2Proof.Config

/-- Cues in the cue list (R70). -/
def maxCues : Nat := 1024
/-- Entries in the entry pool (R70). -/
def maxPool : Nat := 8192
/-- Patch map entries (R117). -/
def maxMap : Nat := 512
/-- Frames in the request queue (R179). -/
def maxQueue : Nat := 4
/-- Payload of a request or a reply, in bytes (R175). -/
def maxPayload : Nat := 240
/-- Host pins of one station (R131). -/
def maxPins : Nat := 2
/-- Bursts in the list of one channel (R51). -/
def maxBursts : Nat := 8
/-- The lowest and the highest period, in µs (R10). -/
def minPeriod : Nat := 200000
def maxPeriod : Nat := 2000000
/-- The least spacing of two committed beats, in µs (R4, R17, R47). -/
def minSpacing : Nat := 100000
/-- The largest commit lead, in µs (R7), and its value under an invalid image (R2). -/
def maxLead : Nat := 100000
def defaultLead : Nat := 40000
/-- The highest bar number (R6). -/
def maxBar : Nat := 9999
/-- Saturation of the 16-bit and of the 8-bit counts (R29, R51, R109, R151, R180; R21, R136, R189). -/
def maxCount16 : Nat := 65535
def maxCount8 : Nat := 255
/-- A store that succeeds ends within this time, in µs (R86). -/
def storeLimit : Nat := 6000000
/-- A desk line's new level is taken once the line has held it so long, in µs (R83, R95, R157). -/
def deskDebounce : Nat := 10000
/-- A PRESENT line's new level is taken once the line has held it so long, in µs (R110). -/
def presentDebounce : Nat := 8000
/-- A BEAT edge is a pulse after so long a deassertion, in µs (R27). -/
def beatDebounce : Nat := 2000
/-- Timeout of a SELECT, in µs (R116). -/
def selectTimeout : Nat := 200000
/-- What the load timeout adds to the expected load, in ms (R115). -/
def loadMargin : Nat := 2000
/-- The QUERY repeat in GREETING, in µs (R111). -/
def queryRepeat : Nat := 500000
/-- The rate of a Station Link, in baud (R188). -/
def stationBaud : Nat := 230400
/-- Without a line sync for so long the genlock goes to NO_SIGNAL, in µs (R140). -/
def syncLoss : Nat := 100000
/-- An input field is missed so long after its predicted start, in µs (R145). -/
def missedField : Nat := 1000
/-- Periods of the 24.000 MHz reference in one µs (00 section 3.1). -/
def refPerMicro : Nat := 24
/-- A good line follows the one before it by 62.0 to 66.0 µs, in reference periods (R138). -/
def goodLineMin : Nat := 62 * refPerMicro
def goodLineMax : Nat := 66 * refPerMicro
/-- Full scale of the click audio (R52) and samples of a burst (R52). -/
def fullScale : Nat := 8388607
def burstSamples : Nat := 720

/-- The characters of "Lepvarn" (R184). -/
def vendor : List Byte := [0x4C, 0x65, 0x70, 0x76, 0x61, 0x72, 0x6E]
/-- The characters of "Helmara 416" (R184). -/
def partName : List Byte := [0x48, 0x65, 0x6C, 0x6D, 0x61, 0x72, 0x61, 0x20, 0x34, 0x31, 0x36]

end Sys2Proof.Config
end

