-- ==== Sys2Proof/Syntax.lean ====
section
/-! DEFINITION. The show data that cross the part's connections, the operands of the commands, and the commands:
one constructor of Instr for each row of spec/opcode_table.json. -/

namespace Sys2Proof

/-! ## Show data -/

/-- A cue number: whole part 1–9999 and point part 0–9 (R67). -/
structure CueNo where
  whole : Nat
  point : Nat
deriving DecidableEq, Repr

/-- The mode of a tempo record, in the order R8 and R187 list it. -/
inductive TempoMode | fixed | follow | conducted | tacet
deriving DecidableEq, Repr

/-- A ramp: target in bpm10 and length in bars (R8). -/
structure Ramp where
  target : Nat
  bars : Nat
deriving DecidableEq, Repr

/-- A tempo record (R8). -/
structure TempoRecord where
  mode : TempoMode
  bpm10 : Nat
  meter : Nat
  band : Nat
  countIn : Nat
  ramp : Option Ramp
deriving DecidableEq, Repr

/-- A cue's trigger (R68); the delay is in ms. -/
inductive Trigger
  | manual
  | atBar (bar beat : Nat)
  | follow (delay : Nat)
deriving DecidableEq, Repr

/-- The bars of a vamp (R68). -/
structure VampBars where
  first : Nat
  last : Nat
deriving DecidableEq, Repr

/-- A patch action (R68): station 1–6 and patch id 1–4095. -/
structure PatchAction where
  station : Nat
  patch : Nat
deriving DecidableEq, Repr

/-- A click action (R68): channel 1–16, on or off, and a subdivision that may be absent. -/
structure ClickAction where
  channel : Nat
  on : Bool
  sub : Option Nat
deriving DecidableEq, Repr

/-- A cue record (R68). -/
structure Cue where
  number : CueNo
  trigger : Trigger
  tempo : Option TempoRecord
  barSet : Option Nat
  vamp : Option VampBars
  caption : Option (List Byte)
  patches : List PatchAction
  clicks : List ClickAction
deriving DecidableEq, Repr

/-- An entry of the patch map (R117); the expected load is in ms. -/
structure MapEntry where
  station : Nat
  patch : Nat
  bank : Nat
  program : Nat
  load : Nat
deriving DecidableEq, Repr

/-! ## Settings, as the show image stores them (R85) -/

/-- The protect mode (R82). -/
inductive ProtectMode | none | range | all
deriving DecidableEq, Repr

/-- The protect configuration (R82); the range is present in RANGE mode. -/
structure Protect where
  mode : ProtectMode
  range : Option (CueNo × CueNo)
  keyLock : Bool
deriving DecidableEq, Repr

/-- The locked window (R49). -/
inductive LockedWindow | normal | narrow
deriving DecidableEq, Repr

/-- The time constant setting (R49). -/
inductive TimeConstant | slow | normal | fast | adaptive
deriving DecidableEq, Repr

/-- The follower settings (R49). -/
structure FollowSettings where
  window : LockedWindow
  constant : TimeConstant
  m : Nat
deriving DecidableEq, Repr

/-- The accent mode of a channel, in the order R51 lists it. -/
inductive AccentMode | downbeat | none | all
deriving DecidableEq, Repr

/-- The five stored settings of a click channel (R51). The level is kept as the attenuation below 0 dB, 0–60. -/
structure ChannelSettings where
  accent : AccentMode
  down : Nat
  lead : Nat
  countIn : Bool
  toneSet : Nat
deriving DecidableEq, Repr

/-- The rate setting (R139). -/
inductive RateSetting | auto | forced50 | forced59
deriving DecidableEq, Repr

/-- The line time constant (R141). -/
inductive LineConstant | slow | normal | fast
deriving DecidableEq, Repr

/-- The flash style (R147). -/
inductive FlashStyle | border | corner
deriving DecidableEq, Repr

/-- The elements of an overlay profile (R147). -/
structure Elements where
  barBeat : Bool
  cueNumber : Bool
  tempo : Bool
  caption : Bool
  flash : Bool
  banner : Bool
deriving DecidableEq, Repr

/-- An overlay profile (R147). -/
structure Profile where
  elements : Elements
  style : FlashStyle
  length : Nat
deriving DecidableEq, Repr

/-- The nine video settings (R153). -/
structure VideoSettings where
  rate : RateSetting
  constant : LineConstant
  delay : Nat
  pit : Profile
  stage : Profile
deriving DecidableEq, Repr

/-- The five show settings (R107); the late threshold is in ms. -/
structure ShowSettings where
  standbyRequired : Bool
  lookAhead : Nat
  lateThreshold : Nat
  resumeCountIn : Nat
  holdCountIn : Nat
deriving DecidableEq, Repr

/-- What the show image holds (R85). -/
structure ShowImage where
  cues : List Cue
  map : List MapEntry
  protect : Protect
  lead : Nat
  follow : FollowSettings
  channels : List ChannelSettings
  video : VideoSettings
  settings : ShowSettings
deriving DecidableEq, Repr

/-- The image area of the external serial flash (R85, R86): whether the validity marker stands, the body if one is
written, and whether the stored CRC matches the body (log 7). -/
structure FlashArea where
  marker : Bool
  body : Option ShowImage
  crcMatches : Bool
deriving DecidableEq, Repr

/-- What the flash answers to the read of the power-on load (R88): nothing or an error; the area as the part left it;
or an area written outside the part while the power was off (log 7). -/
inductive FlashAnswer
  | noAnswer
  | asLeft
  | written (area : FlashArea)
deriving DecidableEq, Repr

/-! ## Operands as a request's payload carries them (R187): codes and numbers not yet tested -/

/-- A tempo record as CUE PUT carries it. -/
structure RawTempo where
  mode : Nat
  bpm10 : Nat
  meter : Nat
  band : Nat
  countIn : Nat
deriving DecidableEq, Repr

/-- A click action as CUE PUT carries it. -/
structure RawClick where
  channel : Nat
  on : Nat
  sub : Nat
deriving DecidableEq, Repr

/-- A cue record as CUE PUT carries it (R187): `kind`, `word` and `beat` are the trigger's bytes. -/
structure RawCue where
  number : CueNo
  kind : Nat
  word : Nat
  beat : Nat
  presence : Nat
  tempo : Option RawTempo
  ramp : Option Ramp
  barSet : Option Nat
  vamp : Option VampBars
  caption : Option (List Byte)
  patches : List PatchAction
  clicks : List RawClick
deriving DecidableEq, Repr

/-- SHOW SET (R107): a field is present where its mask entry is set. -/
structure RawShowSet where
  standbyRequired : Option Nat
  lookAhead : Option Nat
  lateThreshold : Option Nat
  resumeCountIn : Option Nat
  holdCountIn : Option Nat
deriving DecidableEq, Repr

/-- FOLLOW SET (R49). -/
structure RawFollowSet where
  window : Option Nat
  constant : Option Nat
  m : Option Nat
deriving DecidableEq, Repr

/-- CHANNEL SET (R65); the level in dB. -/
structure RawChannelSet where
  accent : Option Nat
  level : Option Int
  lead : Option Nat
  countIn : Option Nat
  toneSet : Option Nat
  override : Option Nat
deriving DecidableEq, Repr

/-- VIDEO SET (R153). -/
structure RawVideoSet where
  rate : Option Nat
  constant : Option Nat
  delay : Option Nat
  pitElements : Option Nat
  stageElements : Option Nat
  pitStyle : Option Nat
  stageStyle : Option Nat
  pitLength : Option Nat
  stageLength : Option Nat
deriving DecidableEq, Repr

/-- STATION SET (R134); a late override of none is the inner `none`. -/
structure RawStationSet where
  excluded : Option Nat
  lateOverride : Option (Option Nat)
deriving DecidableEq, Repr

/-- A desk line that DESK_LINE_RELEASE can release (R157). -/
inductive DeskLine | stby | go | hold | stop
deriving DecidableEq, Repr

/-- Bytes that the rig of a station sends on its link, in their order (R188, log 32). -/
structure RigBytes where
  station : Fin 6
  bytes : List Byte
deriving DecidableEq, Repr

/-! ## The commands

`t` is the show time at which the command's event comes (log 2); `held` is for how long a debounced line has held the
new level then, and `quiet` for how long the BEAT line had been deasserted (log 12). Stations are numbered 1–6 in the
requests' operands, as the payload has them, and by `Fin 6` (station 1 is 0) where the event itself names the link;
channels likewise. -/
inductive Instr
  | powerOn (lrate1 lrate0 : Bool)
  | imageLoadEnd (t : Nat) (answer : FlashAnswer)
  | requestFrameReceived (t : Nat) (tag kind : Byte) (payload : List Byte)
  | gapTimeout
  | breakDeclared (t : Nat)
  | requestTaken (t : Nat)
  | replySent
  | identify (t : Nat)
  | restartShow (t : Nat)
  | cuePut (t : Nat) (cue : RawCue)
  | cueDelete (t : Nat) (n : CueNo)
  | cueGet (t : Nat) (view : Nat) (n : CueNo)
  | cueList (t : Nat) (n : CueNo) (start count : Nat)
  | mapPut (t : Nat) (station patch bank program load : Nat)
  | mapDelete (t : Nat) (station patch : Nat)
  | mapGet (t : Nat) (station patch : Nat)
  | protectSet (t : Nat) (mode : Nat) (lo hi : CueNo) (keyLock : Nat)
  | protectGet (t : Nat)
  | store (t : Nat)
  | flashEraseDone (t : Nat)
  | flashProgramDone (t : Nat)
  | flashVerifyDone (t : Nat) (crcMatches : Bool)
  | flashMarkDone (t : Nat) (readsBack : Bool)
  | flashError (t : Nat)
  | storeTimeout
  | standby (t : Nat)
  | cancelStandby (t : Nat)
  | go (t : Nat)
  | jump (t : Nat) (n : CueNo)
  | hold (t : Nat)
  | stop (t : Nat)
  | resumePoint (t : Nat) (n : CueNo) (bar : Option Nat)
  | vampRelease (t : Nat)
  | showSet (t : Nat) (fields : RawShowSet)
  | showGet (t : Nat)
  | followSet (t : Nat) (fields : RawFollowSet)
  | followGet (t : Nat)
  | clockSet (t : Nat) (lead : Option Nat)
  | positionGet (t : Nat)
  | channelSet (t : Nat) (channel : Nat) (fields : RawChannelSet)
  | channelGet (t : Nat) (channel : Nat)
  | videoSet (t : Nat) (fields : RawVideoSet)
  | videoGet (t : Nat)
  | stationSet (t : Nat) (station : Nat) (fields : RawStationSet)
  | stationGet (t : Nat) (station : Nat)
  | stationPin (t : Nat) (station patch : Nat)
  | stationUnpin (t : Nat) (station patch : Nat)
  | stationFlush (t : Nat) (station : Nat)
  | stationReset (t : Nat) (station : Nat)
  | faultGet (t : Nat) (station : Nat)
  | faultClear (t : Nat) (station : Nat)
  | attentionQuery (t : Nat) (condition : Option Nat)
  | attentionPeek (t : Nat)
  | attentionEnable (t : Nat) (mask : Nat)
  | deskStbyEdge (t held : Nat)
  | deskGoEdge (t held : Nat)
  | deskHoldEdge (t held : Nat)
  | deskStopEdge (t held : Nat)
  | deskLineRelease (t : Nat) (line : DeskLine) (held : Nat)
  | keyLevelChange (t : Nat) (asserted : Bool) (held : Nat)
  | beatPulse (t quiet : Nat)
  | beatCommit
  | windowClose
  | followTimerExpiry
  | burstStart (channel : Fin 16)
  | burstEnd (channel : Fin 16)
  | lineSync (t sub : Nat) (fieldStart : Bool)
  | syncLossTimeout
  | generatorFieldStart
  | missedInputField
  | presentAsserted (t : Nat) (station : Fin 6) (held : Nat)
  | presentDeasserted (t : Nat) (station : Fin 6) (held : Nat)
  | queryRepeat (station : Fin 6)
  | hello (t : Nat) (station : Fin 6) (slots : Nat)
  | loaded (t : Nat) (station : Fin 6) (slot : Nat)
  | loadFailed (t : Nat) (station : Fin 6) (slot : Nat)
  | selected (t : Nat) (station : Fin 6) (slot : Nat)
  | stationFrameBad (t : Nat) (input : RigBytes)
  | stationFrameGap (t : Nat) (input : RigBytes)
  | loadTimeout (station : Fin 6)
  | selectTimeout (station : Fin 6)
  | stationSend (t : Nat) (station : Fin 6)
  | stationFrameSent (station : Fin 6)
  | receivedByte (t : Nat) (b : Byte)
  | lineReturnedToMark (t : Nat)
  | powerLost (markerWritten : Bool)
deriving DecidableEq, Repr

end Sys2Proof
end

