-- ==== Sys2Proof/Machine/State.lean ====
section
/-! DEFINITION. The state of the Helmara 416, block by block (00 section 2.1), and State.reset. Plain data. -/

namespace Sys2Proof.Machine

open Sys2Proof

/-! ## Beat Clock (R1, R2) -/

/-- The clock state (R2). -/
inductive ClockSt | idle | countingIn | running | frozen
deriving DecidableEq, Repr

/-- The phase of a beat: SHOW, or COUNT_IN with the count-in beat number (R1). -/
inductive Phase
  | inShow
  | countIn (n : Nat)
deriving DecidableEq, Repr

/-- The show position record (R1). -/
structure Position where
  cue : Option CueNo
  bar : Option Nat
  beat : Option Nat
  pass : Nat
  phase : Phase
  time : Option Nat
  period : Option Nat
  clamped : Bool
  coasting : Bool
deriving DecidableEq, Repr

/-- The governing record, with its marked period: that of its tempo, or of its ramp's target once the ramp is over
(R13, R15, R16). -/
structure Governing where
  record : TempoRecord
  marked : Nat
deriving DecidableEq, Repr

/-- The armed vamp (R2, R20). -/
structure Vamp where
  first : Nat
  last : Nat
  loops : Nat
  release : Bool
deriving DecidableEq, Repr

/-- The ramp in progress (R15). -/
structure RampRun where
  start : Nat
  target : Nat
  beats : Nat
  done : Nat
deriving DecidableEq, Repr

/-- What beat u is (R6): a count-in beat, a beat after the downbeat, or a SHOW downbeat whose bar is decided at its
commit. -/
inductive BeatKind
  | countIn (n : Nat)
  | beat (bar beat : Nat)
  | down
deriving DecidableEq, Repr

/-- The next beat u (R2); without a time where it waits for a pulse (R13). -/
structure NextBeat where
  time : Option Nat
  kind : BeatKind
deriving DecidableEq, Repr

/-- A start whose first SHOW downbeat is still to come (R17, R19): the bar of that downbeat, the count-in's length in
beats, and whether a ramp starts there. -/
structure StartRun where
  bar : Nat
  beats : Nat
  ramp : Bool
deriving DecidableEq, Repr

/-- The Beat Clock (R1, R2). -/
structure BeatClock where
  position : Position
  st : ClockSt
  gov : Option Governing
  pendingRec : Option TempoRecord
  rebuildRec : Option TempoRecord
  barSet : Option Nat
  vamp : Option Vamp
  ramp : Option RampRun
  next : Option NextBeat
  period : Option Nat
  holdArmed : Bool
  lastShowBar : Option Nat
  spacing : Option Nat
  lead : Nat
  start : Option StartRun
deriving DecidableEq, Repr

/-- The beat record handed to the blocks at a commit (R5). -/
structure BeatRec where
  time : Nat
  commitTime : Nat
  bar : Nat
  beat : Nat
  pass : Nat
  phase : Phase
  meter : Nat
  period : Option Nat
  mode : TempoMode
  down : Bool
deriving DecidableEq, Repr

/-! ## Conductor Follower (R29) -/

/-- The follower state. -/
inductive FollowerSt | free | seeking | locked | coasting
deriving DecidableEq, Repr

/-- The last committed beat: its time, whether its window is open, and its matched mark. -/
structure LastBeat where
  time : Nat
  isOpen : Bool
  matched : Bool
deriving DecidableEq, Repr

/-- Why a pulse was rejected (R35, R47). -/
inductive Rejection | double | outside | close
deriving DecidableEq, Repr

/-- The sign of a phase error, in the push memory. -/
inductive Sign | plus | minus
deriving DecidableEq, Repr

/-- The active time constant (R40): SLOW, NORMAL or FAST. -/
inductive ActiveConstant | slow | normal | fast
deriving DecidableEq, Repr

/-- The Conductor Follower (R29). Its period is the clock's P (R30) and is kept there. -/
structure Follower where
  st : FollowerSt
  band : Option (Nat × Nat)
  last : Option LastBeat
  nextMatched : Bool
  active : ActiveConstant
  fastLeft : Nat
  push : Option Sign
  jitter : Nat
  good : Nat
  rejectedRun : Nat
  missedRun : Nat
  lastError : Int
  clamped : Bool
  coasting : Bool
  accepted : Nat
  rejected : Nat
  missed : Nat
  lastRejection : Option Rejection
  settings : FollowSettings
deriving DecidableEq, Repr

/-! ## Click Generator (R51) -/

/-- The override of a channel (R51). -/
inductive Override | none | forcedOn | forcedOff
deriving DecidableEq, Repr

/-- The kind of a burst (R52). -/
inductive BurstKind | accent | beat | sub
deriving DecidableEq, Repr

/-- A burst: frequency, kind and peak are fixed when it is scheduled (R52). `onset` is its onset frame, which can lie
before frame 0 where a lead reaches back past show time 0, and `frame` the frame it starts in (R58). -/
structure Burst where
  kind : BurstKind
  frequency : Nat
  peak : Nat
  onset : Int
  frame : Nat
deriving DecidableEq, Repr

/-- A click channel (R51). `bursts` are those not yet started, in onset order; `sounding` is the one on the air. -/
structure Channel where
  trackedOn : Bool
  trackedSub : Nat
  override : Override
  settings : ChannelSettings
  lateCount : Nat
  bursts : List Burst
  sounding : Option Burst
deriving DecidableEq, Repr

/-! ## Cue Store (R70, R82, R85) -/

/-- The stages of a store (R85). -/
inductive StoreStage | erase | program | verify | mark
deriving DecidableEq, Repr

/-- The store in progress: the image fixed at STORE, the time STORE was taken, the stage (R85, R86). -/
structure StoreJob where
  image : ShowImage
  taken : Nat
  stage : StoreStage
deriving DecidableEq, Repr

/-- The last image result (R84, R86, R88). -/
inductive ImageResult | none | ok | failed | invalid
deriving DecidableEq, Repr

/-- The Cue Store. -/
structure CueStore where
  cues : List Cue
  cueCount : Nat
  poolUsed : Nat
  protect : Protect
  job : Option StoreJob
  lastImage : ImageResult
deriving DecidableEq, Repr

/-! ## Cue Sequencer (R90) -/

/-- The follow timer (R90). -/
inductive FollowTimer
  | idle
  | running (cue : CueNo) (expiry : Nat)
  | deferred (cue : CueNo)
deriving DecidableEq, Repr

/-- The source of a fire (R101, R103), in the order R103 lists it. -/
inductive FireSource | deskGo | hostGo | atBar | follow
deriving DecidableEq, Repr

/-- The last fire (R90). -/
structure LastFire where
  cue : CueNo
  source : FireSource
  time : Nat
  tracked : Bool
deriving DecidableEq, Repr

/-- The Cue Sequencer (R90). `pointer` is the cue of an EXPLICIT pointer, or none for IMPLICIT. -/
structure Sequencer where
  current : Option CueNo
  pointer : Option CueNo
  latch : Option CueNo
  timer : FollowTimer
  ahead : List CueNo
  lastFire : Option LastFire
  settings : ShowSettings
deriving DecidableEq, Repr

/-- The debounced levels of the desk lines (R83, R95, R157): true where asserted. -/
structure Desk where
  stby : Bool
  go : Bool
  hold : Bool
  stop : Bool
  key : Bool
deriving DecidableEq, Repr

/-! ## Station Controller (R109) -/

/-- The link state of a station (R109). -/
inductive LinkSt | offline | greeting | online
deriving DecidableEq, Repr

/-- The state of a slot (R120). -/
inductive SlotSt | empty | loading | resident
deriving DecidableEq, Repr

/-- A slot record (R120). -/
structure Slot where
  st : SlotSt
  patch : Option Nat
  stale : Bool
  flush : Bool
deriving DecidableEq, Repr

/-- The selected slot (R109, R116); slots are numbered from 1. -/
inductive Selected
  | none
  | slot (k : Nat)
  | unknown (candidates : List Nat)
deriving DecidableEq, Repr

/-- A frame the part sends to a station adapter (R113). -/
inductive TxFrame
  | load (slot bank program : Nat)
  | select (slot : Nat)
  | silence
  | query
deriving DecidableEq, Repr

/-- The outstanding LOAD (R109, R115): `limit` is the load timeout, which runs from the end of the frame to `due`;
`cue` is the cue the load is for. -/
structure OutLoad where
  slot : Nat
  patch : Nat
  cue : Option CueNo
  sent : Nat
  limit : Nat
  due : Option Nat
deriving DecidableEq, Repr

/-- The outstanding SELECT (R109, R116). -/
structure OutSelect where
  slot : Nat
  sent : Nat
  due : Option Nat
deriving DecidableEq, Repr

/-- The kind of a switch (R123). -/
inductive SwitchKind | none | unmapped | hot | warm | wait | cold
deriving DecidableEq, Repr

/-- The stage a switch has reached (R123, R124): its SELECT held in the SELECT place, its cold load held in the LOAD
place, its wait on a LOADING slot, or its wait on the outstanding SELECT. -/
inductive SwitchStage
  | selectHeld (k : Nat)
  | coldHeld
  | loading (k : Nat)
  | selecting (k : Nat)
deriving DecidableEq, Repr

/-- A switch in progress (R123). -/
structure Switch where
  patch : Nat
  cue : Option CueNo
  fireTime : Option Nat
  kind : SwitchKind
  stage : SwitchStage
  rebuild : Bool
deriving DecidableEq, Repr

/-- How a switch ended (R125). -/
inductive SwitchEnd | done | superseded | missed | dropped
deriving DecidableEq, Repr

/-- The last switch to end (R125). -/
structure LastSwitch where
  cue : Option CueNo
  patch : Option Nat
  kind : SwitchKind
  outcome : SwitchEnd
  lateness : Option Nat
deriving DecidableEq, Repr

/-- The kinds of station faults (R136), in the order R136 lists them. -/
inductive FaultKind
  | loadFailed | loadTimeout | selectTimeout | unmapped | late | missed | offline | pressure
deriving DecidableEq, Repr

/-- A station fault (R136). -/
structure StationFault where
  kind : FaultKind
  cue : Option CueNo
  patch : Option Nat
  time : Nat
deriving DecidableEq, Repr

/-- A station's fault record (R136). -/
structure FaultRecord where
  first : Option StationFault
  count : Nat
deriving DecidableEq, Repr

/-- A target with the cue it is for (R104, R122). -/
structure Target where
  cue : CueNo
  patch : Option Nat
deriving DecidableEq, Repr

/-- A station frame in reception: the bytes taken since its start byte, and the show time at which the last byte of it was
received (R188). -/
structure Reception where
  bytes : List Byte
  last : Nat
deriving DecidableEq, Repr

/-- A station (R109). The slot count n is the length of `slots`. `receiver` is the part's receiver on its link: hunting, or
with a frame in reception (R188). -/
structure Station where
  present : Bool
  link : LinkSt
  excluded : Bool
  lateOverride : Option Nat
  slots : List Slot
  selected : Selected
  victim : Nat
  silence : Bool
  selectPlace : Option Nat
  loadPlace : Option Nat
  queryDue : Bool
  queryAt : Option Nat
  outLoad : Option OutLoad
  outSelect : Option OutSelect
  switch : Option Switch
  lastSwitch : Option LastSwitch
  hostPins : List Nat
  failed : List Nat
  pressure : Bool
  faults : FaultRecord
  protoErrors : Nat
  sending : Option (TxFrame × Nat)
  ahead : List Target
  standbyTarget : Option Target
  preload : Bool
  receiver : Option Reception
deriving DecidableEq, Repr

/-! ## Stop Controller (R155) -/

/-- The hold stage (R155). -/
inductive HoldStage | armed | draining
deriving DecidableEq, Repr

/-- The count-in kind (R155). -/
inductive CountInKind | resume | hold
deriving DecidableEq, Repr

/-- The stop state, with the hold stage in HOLDING and the count-in kind in COUNT_IN (R155). -/
inductive StopSt
  | run
  | holding (stage : HoldStage)
  | held
  | stopped
  | rebuilding
  | ready
  | countIn (kind : CountInKind)
deriving DecidableEq, Repr

/-- Who asked for a hold or a stop (R155). -/
inductive Source | desk | host
deriving DecidableEq, Repr

/-- The stop position (R155, R163). -/
structure StopPosition where
  cue : Option CueNo
  bar : Option Nat
  beat : Option Nat
  pass : Nat
  phase : Phase
deriving DecidableEq, Repr

/-- The held position: bar, beat 1 and pass (R155). -/
structure HeldPosition where
  bar : Nat
  pass : Nat
deriving DecidableEq, Repr

/-- A resume point: cue and bar (R155). -/
structure ResumePoint where
  cue : CueNo
  bar : Nat
deriving DecidableEq, Repr

/-- A station's words as the Station Controller last told them (R155). -/
structure StationWords where
  online : Bool
  excluded : Bool
deriving DecidableEq, Repr

/-- An entry of the rebuild account (R155). -/
inductive Account | notCounted | waiting | satisfied | failed
deriving DecidableEq, Repr

/-- The Stop Controller (R155). -/
structure StopController where
  st : StopSt
  held : Option HeldPosition
  source : Option Source
  position : Option StopPosition
  resume : Option ResumePoint
  words : List StationWords
  account : List Account
deriving DecidableEq, Repr

/-! ## Video Overlay Unit (R138 to R154) -/

/-- A video rate (R138). -/
inductive Rate | r50 | r59
deriving DecidableEq, Repr

/-- The genlock state (R140). -/
inductive Genlock | noSignal | lineSeek | fieldSeek | locked
deriving DecidableEq, Repr

/-- The mode of the output timing (R145). -/
inductive OutputMode | freeRun | locked
deriving DecidableEq, Repr

/-- What the overlay shows of a beat (R147, R150). -/
structure BeatContent where
  bar : Nat
  beat : Nat
  pass : Nat
  phase : Phase
  tempo : Nat
deriving DecidableEq, Repr

/-- A pending flash (R150): its field, its aim, the beat's time and content; whether it is of a CONDUCTED beat; the
start of the last field that started before the commit, and the last start earlier than that (R151); and whether it may
become the displayed beat (R152). -/
structure PendingFlash where
  field : Nat
  aim : Nat
  time : Nat
  content : BeatContent
  conducted : Bool
  before : Nat
  earlier : Option Nat
  displays : Bool
deriving DecidableEq, Repr

/-- The lit flash: fields still to light on each output, the field in progress included (R151). -/
structure LitFlash where
  pit : Nat
  stage : Nat
deriving DecidableEq, Repr

/-- A banner (R149). -/
inductive Banner
  | none
  | stop
  | hold
  | countIn (n : Option Nat)
  | standby (cue : CueNo)
deriving DecidableEq, Repr

/-- The show content of R148; `stopState` is handed over at each change of the stop state. -/
structure Content where
  cue : Option CueNo
  caption : List Byte
  standby : Option CueNo
  stopState : StopSt
  displayed : Option BeatContent
deriving DecidableEq, Repr

/-- The snapshot a field is drawn from (R149): no overlay during the power-on load (R145). -/
structure Snapshot where
  overlay : Bool
  camera : Bool
  content : Content
  banner : Banner
  pit : Profile
  stage : Profile
deriving DecidableEq, Repr

/-- The Video Overlay Unit. Times of syncs and fields are in periods of the 24.000 MHz reference; `earlierStart` is the show
time of the last output field start earlier than that of the field in progress, for R151. -/
structure Video where
  measured : Option Rate
  lastLength : Option Nat
  lastSync : Option Nat
  inputField : Option Nat
  lines : Nat
  genlock : Genlock
  goodRun : Nat
  badRun : Nat
  fieldRun : Nat
  fieldRate : Option Rate
  nonNominal : Nat
  seekPrimed : Bool
  lockedRate : Option Rate
  lastLocked : Option Rate
  settings : VideoSettings
  mode : OutputMode
  outRate : Rate
  fieldNo : Nat
  fieldStart : Nat
  earlierStart : Option Nat
  retime : Bool
  content : Content
  snapshot : Snapshot
  waiting : Option PendingFlash
  lit : Option LitFlash
  lastError : Int
  lateCount : Nat
deriving DecidableEq, Repr

/-! ## Attention Unit (R189) -/

/-- The link error counts (R180). -/
inductive LinkCount | gap | crc | length | overflow | break_
deriving DecidableEq, Repr

/-- Why a desk GO or STBY edge was refused (R103), in the order R103 lists it. -/
inductive GoReason | noStandby | endOfList | wrongState | stopAsserted
deriving DecidableEq, Repr

/-- The desk line of a refused edge (R103), in the order R103 lists it. -/
inductive GoLine | stby | go
deriving DecidableEq, Repr

/-- How a store or a load ended, as STORE_DONE records it (R189). -/
inductive StoreResult | ok | failed | invalid
deriving DecidableEq, Repr

/-- The record of a condition's occurrence (R189), one form for each of the nine conditions. -/
inductive CondRecord
  | showStop (source : Source) (position : StopPosition)
  | stationFault (station : Fin 6) (kind : FaultKind)
  | resumeReady (cue : CueNo) (bar : Nat)
  | beatLock (st : FollowerSt)
  | videoLock (st : Genlock)
  | goRefused (reason : GoReason) (line : GoLine)
  | cueFired (cue : CueNo) (source : FireSource)
  | linkError (count : LinkCount)
  | storeDone (result : StoreResult)
deriving DecidableEq, Repr

/-- The entry of one condition (R189). -/
structure Condition where
  isPending : Bool
  enabled : Bool
  record : Option (CondRecord × Nat)
  count : Nat
deriving DecidableEq, Repr

/-! ## Show Link Interface (R174 to R182) -/

/-- The status of a reply (R182), in the order of its values. -/
inductive Status
  | ok | badKind | badLength | range | notFound | isProtected | keyLocked | busy | wrongState
  | noStandby | endOfList | poolFull | tableFull | stopAsserted
deriving DecidableEq, Repr

/-- One item of a reply's body, with the bytes R187 gives it. -/
inductive Item
  | num (bytes : Nat) (v : Nat)
  | opt (bytes : Nat) (v : Option Nat)
  | signed (bytes : Nat) (v : Int)
  | flag (b : Bool)
  | cue (n : Option CueNo)
  | text (chars : List Byte)
deriving DecidableEq, Repr

/-- A reply as its block forms it: status, attention summary and body (R182). -/
structure Reply where
  status : Status
  summary : Nat
  body : List Item
deriving DecidableEq, Repr

/-- A complete, intact frame in the request queue (R179). -/
structure Frame where
  tag : Byte
  kind : Byte
  payload : List Byte
deriving DecidableEq, Repr

/-- The line rates (R174), in baud. -/
inductive LineRate | b115200 | b230400 | b460800 | b921600
deriving DecidableEq, Repr

/-- The Show Link Interface. `got` is none in HUNT, and otherwise holds the bytes taken since the start byte: fewer
than four in HEADER, four or more in BODY (R175). -/
structure Link where
  rate : LineRate
  got : Option (List Byte)
  lastByte : Nat
  inBreak : Bool
  queue : List Frame
  waiting : Option (List Byte)
  sending : Option (List Byte × Nat)
  gaps : Nat
  crcs : Nat
  lengths : Nat
  overflows : Nat
  breaks : Nat
  lastReply : Option Reply
deriving DecidableEq, Repr

/-! ## The machine -/

/-- The whole part. `pending` is the queue of commands still to be taken, first in, first out. -/
structure State where
  pending : List Instr
  powered : Bool
  loading : Bool
  now : Nat
  flash : FlashArea
  clock : BeatClock
  follower : Follower
  channels : List Channel
  store : CueStore
  seq : Sequencer
  desk : Desk
  stations : List Station
  map : List MapEntry
  video : Video
  stop : StopController
  attention : List Condition
  link : Link
deriving DecidableEq, Repr

/-- No command of this part stops it with a fault: what the spec calls faults are records (R136) and conditions
(R189), and a request that is not taken is refused in its reply (R182). The type has no constructor, which is safe:
no claim can rest on a fault. -/
inductive Fault
deriving DecidableEq, Repr

/-- The refusals. -/
inductive Refusal
  /-- Raised by exec's arm of a command that has no meaning yet (safe: no claim holds through it). -/
  | notModelled (mnemonic : String)
deriving DecidableEq, Repr

/-! ## The values after power-on -/

/-- The empty position (R1). -/
def Position.empty : Position :=
  { cue := none, bar := none, beat := none, pass := 0, phase := .inShow, time := none, period := none,
    clamped := false, coasting := false }

/-- The Beat Clock after power-on (R2), with the commit lead of an invalid image (log 6). -/
def BeatClock.initial : BeatClock :=
  { position := Position.empty, st := .idle, gov := none, pendingRec := none, rebuildRec := none, barSet := none,
    vamp := none, ramp := none, next := none, period := none, holdArmed := false, lastShowBar := none,
    spacing := none, lead := Config.defaultLead, start := none }

/-- The defaults of R49. -/
def FollowSettings.initial : FollowSettings := { window := .normal, constant := .normal, m := 2 }

/-- The Conductor Follower after power-on (R29). -/
def Follower.initial : Follower :=
  { st := .free, band := none, last := none, nextMatched := false, active := .normal, fastLeft := 0, push := none,
    jitter := 0, good := 0, rejectedRun := 0, missedRun := 0, lastError := 0, clamped := false, coasting := false,
    accepted := 0, rejected := 0, missed := 0, lastRejection := none, settings := FollowSettings.initial }

/-- The defaults of R51. -/
def ChannelSettings.initial : ChannelSettings :=
  { accent := .downbeat, down := 20, lead := 0, countIn := true, toneSet := 1 }

/-- A channel after power-on (R51). -/
def Channel.initial : Channel :=
  { trackedOn := false, trackedSub := 1, override := .none, settings := ChannelSettings.initial, lateCount := 0,
    bursts := [], sounding := none }

/-- The protect configuration of an invalid image (R82). -/
def Protect.initial : Protect := { mode := .none, range := none, keyLock := false }

/-- The Cue Store after power-on, before the load ends (R70, R82, R84). DESIGN CHOICE: until the load ends the list, its
counts and the map are empty, nothing is protected and the last image result is NONE (log 6). -/
def CueStore.initial : CueStore :=
  { cues := [], cueCount := 0, poolUsed := 0, protect := Protect.initial, job := none, lastImage := .none }

/-- The defaults of R107. -/
def ShowSettings.initial : ShowSettings :=
  { standbyRequired := true, lookAhead := 3, lateThreshold := 50, resumeCountIn := 1, holdCountIn := 1 }

/-- The Cue Sequencer after power-on (R90). -/
def Sequencer.initial : Sequencer :=
  { current := none, pointer := none, latch := none, timer := .idle, ahead := [], lastFire := none,
    settings := ShowSettings.initial }

/-- The desk lines after power-on (R83, R95, R157). -/
def Desk.initial : Desk := { stby := false, go := false, hold := false, stop := false, key := false }

/-- An EMPTY slot (R120). -/
def Slot.blank : Slot := { st := .empty, patch := none, stale := false, flush := false }

/-- A station after power-on (R109). -/
def Station.initial : Station :=
  { present := false, link := .offline, excluded := false, lateOverride := none, slots := [], selected := .none,
    victim := 1, silence := false, selectPlace := none, loadPlace := none, queryDue := false, queryAt := none,
    outLoad := none, outSelect := none, switch := none, lastSwitch := none, hostPins := [], failed := [],
    pressure := false, faults := { first := none, count := 0 }, protoErrors := 0, sending := none, ahead := [],
    standbyTarget := none, preload := false, receiver := none }

/-- The Stop Controller after power-on (R155). -/
def StopController.initial : StopController :=
  { st := .run, held := none, source := none, position := none, resume := none,
    words := List.replicate 6 { online := false, excluded := false },
    account := List.replicate 6 .notCounted }

/-- The element sets of R147's defaults. -/
def Elements.allSix : Elements :=
  { barBeat := true, cueNumber := true, tempo := true, caption := true, flash := true, banner := true }
def Elements.flashBanner : Elements :=
  { barBeat := false, cueNumber := false, tempo := false, caption := false, flash := true, banner := true }

/-- The defaults of R147 and R153. -/
def VideoSettings.initial : VideoSettings :=
  { rate := .auto, constant := .normal, delay := 0,
    pit := { elements := Elements.allSix, style := .border, length := 2 },
    stage := { elements := Elements.flashBanner, style := .border, length := 2 } }

/-- The show content after power-on (R148). -/
def Content.initial : Content :=
  { cue := none, caption := [], standby := none, stopState := .run, displayed := none }

/-- The Video Overlay Unit after power-on (R138 to R151): output field 0 starts at show time 0. -/
def Video.initial : Video :=
  { measured := none, lastLength := none, lastSync := none, inputField := none, lines := 0, genlock := .noSignal,
    goodRun := 0, badRun := 0, fieldRun := 0, fieldRate := none, nonNominal := 0, seekPrimed := false,
    lockedRate := none, lastLocked := none, settings := VideoSettings.initial, mode := .freeRun, outRate := .r50,
    fieldNo := 0, fieldStart := 0, earlierStart := none, retime := false, content := Content.initial,
    snapshot := { overlay := false, camera := false, content := Content.initial, banner := .none,
                  pit := VideoSettings.initial.pit, stage := VideoSettings.initial.stage },
    waiting := none, lit := none, lastError := 0, lateCount := 0 }

/-- A condition after power-on (R190). -/
def Condition.initial : Condition := { isPending := false, enabled := true, record := none, count := 0 }

/-- The Show Link Interface after power-on, at the rate the straps select (R174, R186). -/
def Link.initial (rate : LineRate) : Link :=
  { rate := rate, got := none, lastByte := 0, inBreak := false, queue := [], waiting := none, sending := none,
    gaps := 0, crcs := 0, lengths := 0, overflows := 0, breaks := 0, lastReply := none }

/-- An image area with no validity marker (log 5). -/
def FlashArea.blank : FlashArea := { marker := false, body := none, crcMatches := false }

/-- The part as it leaves its internal reset (R186), over what the flash holds: the load of the show image begins. -/
def State.leavingReset (queue : List Instr) (flash : FlashArea) (rate : LineRate) : State :=
  { pending := queue, powered := true, loading := true, now := 0, flash := flash,
    clock := BeatClock.initial, follower := Follower.initial, channels := List.replicate 16 Channel.initial,
    store := CueStore.initial, seq := Sequencer.initial, desk := Desk.initial,
    stations := List.replicate 6 Station.initial, map := [], video := Video.initial,
    stop := StopController.initial, attention := List.replicate 9 Condition.initial,
    link := Link.initial rate }

/-- The machine right after reset: power-on with both straps deasserted and no stored show (R186, log 5). -/
def State.reset : State := State.leavingReset [] FlashArea.blank .b115200

end Sys2Proof.Machine
end

