-- ==== Sys2Proof/Machine/Arith.lean ====
section
/-! DEFINITION. The roundings of 00 section 3.5 and the arithmetic the rules share: periods, bands, frames, bit times. -/

namespace Sys2Proof.Machine

open Sys2Proof

/-- `n / d` rounded to nearest, halves upward (00 section 3.5). -/
def roundUpward (n d : Nat) : Nat := (2 * n + d) / (2 * d)

/-- `n / d` rounded to nearest, halves away from zero (00 section 3.5). -/
def roundAway (n : Int) (d : Nat) : Int :=
  if 0 ≤ n then (roundUpward n.toNat d : Int) else -(roundUpward (-n).toNat d : Int)

/-- ceil(n / d). -/
def ceilDiv (n d : Nat) : Nat := (n + d - 1) / d

/-- A saturating count after one more event (00 section 3.5). -/
def satInc (cap n : Nat) : Nat := min cap (n + 1)

/-- `x` clamped to `lo`–`hi`. -/
def clampNat (lo hi x : Nat) : Nat := max lo (min hi x)

/-- An integer clamped to `lo`–`hi`. -/
def clampInt (lo hi : Nat) (x : Int) : Nat := (max (lo : Int) (min (hi : Int) x)).toNat

/-- |a - b|. -/
def distance (a b : Nat) : Nat := (a - b) + (b - a)

/-- The marked period of a tempo, P_m = 600,000,000 / bpm10 (R9). -/
def markedPeriod (bpm10 : Nat) : Nat := roundUpward 600000000 bpm10

/-- The marked period of a record: a CONDUCTED record's ramp is taken as reached at once (R13). -/
def recordPeriod (r : TempoRecord) : Nat :=
  match r.mode, r.ramp with
  | .conducted, some ramp => markedPeriod ramp.target
  | _, _ => markedPeriod r.bpm10

/-- The displayed tempo of a period field, 0 with none (R9). -/
def displayedTempo : Option Nat → Nat
  | none => 0
  | some p => roundUpward 600000000 (clampNat Config.minPeriod Config.maxPeriod p)

/-- The band of `pct` percent around the period `p` (R10). -/
def bandAround (p pct : Nat) : Nat × Nat :=
  (max Config.minPeriod (p - p * pct / 100), min Config.maxPeriod (p + p * pct / 100))

/-- The ramp period P_i (R15), with P_0 for i = 0. -/
def rampPeriod (r : RampRun) (i : Nat) : Nat :=
  ((r.start : Int) + roundAway (((r.target : Int) - (r.start : Int)) * (i : Int)) r.beats).toNat

/-- The bar after `b`, saturating at 9999 (R6). -/
def nextBar (b : Nat) : Nat := min Config.maxBar (b + 1)

/-- The audio frame nearest a show time, halves upward (R53, R58). -/
def frameOf (t : Nat) : Nat := roundUpward (t * 6) 125

/-- The onset frame of an onset time, round(t × 6/125) with halves upward, of a time before show time 0 too (R58). -/
def onsetFrame (t : Int) : Int := (12 * t + 125) / 250

/-- The first whole µs at or after the sync of audio frame `n` (R53, log 13). -/
def frameTime (n : Nat) : Nat := ceilDiv (n * 125) 6

/-- The baud rate of the Show Link (R174). -/
def LineRate.baud : LineRate → Nat
  | .b115200 => 115200
  | .b230400 => 230400
  | .b460800 => 460800
  | .b921600 => 921600

/-- The line rate that the straps LRATE1 and LRATE0 select (R174). -/
def lineRate (lrate1 lrate0 : Bool) : LineRate :=
  match lrate1, lrate0 with
  | false, false => .b115200
  | false, true => .b230400
  | true, false => .b460800
  | true, true => .b921600

/-- The first whole number of µs in which `n` bit times at `baud` have passed (R174, R188, log 13). -/
def bitTimes (n baud : Nat) : Nat := ceilDiv (n * 1000000) baud

/-- A value placed by insertion into a list in order of a key; an equal key goes behind. -/
def insertBy {α : Type} (key : α → Int) (x : α) : List α → List α
  | [] => [x]
  | y :: ys => if key x < key y then x :: y :: ys else y :: insertBy key x ys

/-- A list in order of a key. -/
def sortBy {α : Type} (key : α → Int) : List α → List α
  | [] => []
  | x :: xs => insertBy key x (sortBy key xs)

end Sys2Proof.Machine
end

