-- ==== Sys2Proof/Machine/Audio.lean ====
section
/-! DEFINITION. The tone of a click burst, and the samples the audio output carries (R52, R53). The arithmetic is exact:
the peak by comparing powers, the sine by a rational series whose error is far below the distance of any sample from a
half, with the angles whose sine is rational taken exactly (log 24). -/

namespace Sys2Proof.Machine

open Sys2Proof

/-- The frequency of a burst, in Hz (R52). -/
def toneFrequency (toneSet : Nat) (kind : BurstKind) : Nat :=
  match toneSet, kind with
  | 1, .accent => 2000 | 1, .beat => 1200 | 1, .sub => 800
  | 2, .accent => 1500 | 2, .beat => 1000 | 2, .sub => 660
  | 3, .accent => 2400 | 3, .beat => 1800 | 3, .sub => 1200
  | _, .accent => 1000 | _, .beat => 700 | _, .sub => 500

/-- The attenuation of a burst below 0 dB: the level's, and 6 dB more for SUB bursts (R52). -/
def burstDown (down : Nat) : BurstKind → Nat
  | .sub => down + 6
  | _ => down

/-- (2a − 1)^20 × 10^down ≤ (2 × 8,388,607)^20, which holds exactly when a − 1/2 ≤ 8,388,607 × 10^(−down/20). -/
def peakFits (down a : Nat) : Bool :=
  (2 * a - 1) ^ 20 * 10 ^ down ≤ (2 * Config.fullScale) ^ 20

/-- The largest peak below `a + 2^n` that fits, given that `a` fits, by bisection. -/
def peakSearch (down : Nat) : Nat → Nat → Nat
  | 0, a => a
  | n + 1, a => if peakFits down (a + 2 ^ n) then peakSearch down n (a + 2 ^ n) else peakSearch down n a

/-- The peak A: 8,388,607 × 10^(L/20) rounded to nearest, L = −down dB (R52). -/
def peakOf (down : Nat) : Nat := peakSearch down 23 0

/-- The envelope e(k) as a fraction: numerator and denominator (R52). -/
def envelope (k : Nat) : Nat × Nat :=
  if k < 48 then (k, 48) else if k < 480 then (1, 1) else (720 - k, 240)

/-- One in the fixed point of the sine series: 2^128. -/
def sineOne : Nat := 2 ^ 128

/-- π in that fixed point. -/
def sinePi : Nat := 1069028584064966747859680373161870783301

/-- The terms of the sine series of the angle `x`, alternating, from the term `term` of odd order `n` on. -/
def sineSeries (x : Nat) : Nat → Nat → Nat → Int
  | 0, _, _ => 0
  | fuel + 1, n, term =>
    (term : Int) - sineSeries x fuel (n + 2) (term * x / sineOne * x / sineOne / ((n + 1) * (n + 2)))

/-- The sine of a quarter turn's fraction j/12,000 of a turn of 48,000 parts, j from 0 to 12,000, times 2^128. -/
def quarterSine (j : Nat) : Int :=
  if j = 0 then 0
  else if j = 4000 then (2 ^ 127 : Nat)
  else if j = 12000 then (sineOne : Nat)
  else
    let x := sinePi * j / 24000
    sineSeries x 40 1 x

/-- sin(2π j / 48,000) times 2^128, for any j. -/
def turnSine (j : Nat) : Int :=
  let r := j % 48000
  if r ≤ 12000 then quarterSine r
  else if r ≤ 24000 then quarterSine (24000 - r)
  else if r ≤ 36000 then -quarterSine (r - 24000)
  else -quarterSine (48000 - r)

/-- Sample k of a burst, k from 0 to 719 (R52). -/
def burstSample (b : Burst) (k : Nat) : Int :=
  let e := envelope k
  roundAway ((b.peak : Int) * (e.1 : Int) * turnSine (b.frequency * k)) (e.2 * sineOne)

/-- The content of a channel's slot in audio frame `n`: the sample of the burst sounding, or 0 (R53), in 24 bits of
two's complement. -/
def audioSlot (c : Channel) (n : Nat) : BitVec 24 :=
  match c.sounding with
  | some b =>
    if b.frame ≤ n ∧ n < b.frame + Config.burstSamples then BitVec.ofInt 24 (burstSample b (n - b.frame)) else 0
  | none => 0

/-- Audio frame `n` of the output: sixteen slots, channel 1 first; silence during the power-on load (R51, R53). -/
def audioFrame (s : State) (n : Nat) : List (BitVec 24) :=
  s.channels.map fun c => if s.loading || !s.powered then 0 else audioSlot c n

/-- The bits of a slot in the order in which they go out, the most significant first (R53). -/
def slotBits (x : BitVec 24) : List Bool := (List.range 24).map x.getMsbD

/-- The bits that follow the frame sync of audio frame `n`, slot after slot (R53). -/
def audioBits (s : State) (n : Nat) : List Bool := (audioFrame s n).flatMap slotBits

end Sys2Proof.Machine
end

