-- ==== Sys2Proof/Machine/Flags.lean ====
section
/-! DEFINITION. The flags of the part: the nine attention conditions, their summary and the ATTN line (R189 to R195). -/

namespace Sys2Proof.Machine

open Sys2Proof

/-- The place of a record's condition in the table, which is its priority number less 1 (R189). -/
def CondRecord.place : CondRecord → Nat
  | .showStop _ _ => 0
  | .stationFault _ _ => 1
  | .resumeReady _ _ => 2
  | .beatLock _ => 3
  | .videoLock _ => 4
  | .goRefused _ _ => 5
  | .cueFired _ _ => 6
  | .linkError _ => 7
  | .storeDone _ => 8

/-- An entry after a raise at show time `now` (R189). -/
def Condition.raised (r : CondRecord) (now : Nat) (c : Condition) : Condition :=
  { c with isPending := true, record := some (r, now), count := satInc Config.maxCount8 c.count }

/-- An entry after a clear: the record is kept (R189). -/
def Condition.cleared (c : Condition) : Condition := { c with isPending := false, count := 0 }

/-- An entry after RESTART SHOW (R190): cleared, with no record; the enable flag is kept. -/
def Condition.restarted (c : Condition) : Condition :=
  { c with isPending := false, count := 0, record := none }

/-- A block raises a condition (R189). -/
def raise (r : CondRecord) (s : State) : State :=
  { s with attention := s.attention.modify r.place (Condition.raised r s.now) }

/-- The priority number of the first enabled pending condition, counting from `k`, or 0 (R182). -/
def firstPending : Nat → List Condition → Nat
  | _, [] => 0
  | k, c :: cs => if c.isPending && c.enabled then k else firstPending (k + 1) cs

/-- The attention summary (R182). -/
def attentionSummary (s : State) : Nat := firstPending 1 s.attention

/-- The ATTN line: asserted exactly when an enabled condition is pending (R191). -/
def attnLine (s : State) : Bool := s.attention.any fun c => c.isPending && c.enabled

end Sys2Proof.Machine
end

