-- ==== Sys2Proof/Machine/Operands.lean ====
section
/-! DEFINITION. The operand forms: what a request's codes and numbers stand for, and which of them are out of range
(R67, R72, R118, R187, and the field tables of R49, R65, R107, R134, R153). A reader answers none where the owning
block answers RANGE. -/

namespace Sys2Proof.Machine

open Sys2Proof

/-- A value that is yes or no, set or clear, on or off (R187); another code has no meaning (log 11). -/
def readFlag : Nat → Option Bool
  | 0 => some false
  | 1 => some true
  | _ => none

/-- A number within a range. -/
def readRange (lo hi n : Nat) : Option Nat := if lo ≤ n ∧ n ≤ hi then some n else none

/-- A cue number within its ranges (R67). -/
def cueNoOk (n : CueNo) : Bool := 1 ≤ n.whole && n.whole ≤ 9999 && n.point ≤ 9

/-- The order of cue numbers: whole part first, then point part (R67). -/
def cueLt (a b : CueNo) : Bool := a.whole < b.whole || (a.whole == b.whole && a.point < b.point)

/-- `a` is at or before `b` (R67). -/
def cueLe (a b : CueNo) : Bool := !cueLt b a

def readMode : Nat → Option TempoMode
  | 0 => some .fixed
  | 1 => some .follow
  | 2 => some .conducted
  | 3 => some .tacet
  | _ => none

/-- A trigger from its bytes. DESIGN CHOICE: the word of a MANUAL record and the beat of a MANUAL or FOLLOW record,
which R187 gives as 0 and for which R72 lists no refusal, are ignored (log 11). -/
def readTrigger (kind word beat : Nat) : Option Trigger :=
  match kind with
  | 0 => some .manual
  | 1 => some (.atBar word beat)
  | 2 => some (.follow word)
  | _ => none

def readTempo (r : RawTempo) (ramp : Option Ramp) : Option TempoRecord :=
  (readMode r.mode).map fun m =>
    { mode := m, bpm10 := r.bpm10, meter := r.meter, band := r.band, countIn := r.countIn, ramp := ramp }

def readClick (c : RawClick) : Option ClickAction :=
  (readFlag c.on).map fun on =>
    { channel := c.channel, on := on, sub := if c.sub = 0 then none else some c.sub }

/-- The ranges of a trigger (R68, R72). -/
def triggerOk : Trigger → Bool
  | .manual => true
  | .atBar bar beat => 1 ≤ bar && bar ≤ 9999 && 1 ≤ beat && beat ≤ 15
  | .follow delay => delay ≤ 60000

/-- The ranges of a ramp (R72). -/
def rampOk (r : Ramp) : Bool := 300 ≤ r.target && r.target ≤ 3000 && 1 ≤ r.bars && r.bars ≤ 64

/-- The ranges of a tempo record (R8, R72). -/
def tempoOk (r : TempoRecord) : Bool :=
  300 ≤ r.bpm10 && r.bpm10 ≤ 3000 && 1 ≤ r.meter && r.meter ≤ 15 && r.band ≤ 50 && r.countIn ≤ 2
    && (r.ramp.map rampOk).getD true

def barOk (b : Nat) : Bool := 1 ≤ b && b ≤ 9999

def vampOk (v : VampBars) : Bool := barOk v.first && barOk v.last && v.first ≤ v.last

def captionOk (c : List Byte) : Bool := c.length ≤ 24 && c.all fun b => 0x20 ≤ b.toNat && b.toNat ≤ 0x7E

def stationOk (s : Nat) : Bool := 1 ≤ s && s ≤ 6

def patchOk (p : Nat) : Bool := 1 ≤ p && p ≤ 4095

def clickOk (c : ClickAction) : Bool :=
  1 ≤ c.channel && c.channel ≤ 16 && (c.sub.map fun k => 1 ≤ k && k ≤ 4).getD true

/-- The checks of R72 on a whole cue record. -/
def cueOk (c : Cue) : Bool :=
  cueNoOk c.number && triggerOk c.trigger && (c.tempo.map tempoOk).getD true && (c.barSet.map barOk).getD true
    && (c.vamp.map vampOk).getD true && (c.caption.map captionOk).getD true
    && c.patches.length ≤ 6 && decide (c.patches.map (·.station)).Nodup
    && c.patches.all (fun p => stationOk p.station && patchOk p.patch)
    && c.clicks.length ≤ 16 && decide (c.clicks.map (·.channel)).Nodup && c.clicks.all clickOk

/-- The record with its patch actions in station order and its click actions in channel order (R68). -/
def orderedCue (c : Cue) : Cue :=
  { c with patches := sortBy (·.station) c.patches, clicks := sortBy (·.channel) c.clicks }

/-- The actions of a record stand in the order of R68. -/
def cueInOrder (c : Cue) : Bool :=
  decide (c.patches.Pairwise fun a b => a.station < b.station) && decide (c.clicks.Pairwise fun a b => a.channel < b.channel)

/-- A CUE PUT's record, its actions in the order R68 keeps them, or none where R72 or R187 gives RANGE. -/
def readCue (r : RawCue) : Option Cue :=
  if 32 ≤ r.presence ∨ (r.ramp.isSome ∧ r.tempo.isNone) then none
  else
    match readTrigger r.kind r.word r.beat, r.clicks.mapM readClick with
    | some trigger, some clicks =>
      let tempo : Option (Option TempoRecord) :=
        match r.tempo with
        | none => some none
        | some t => (readTempo t r.ramp).map some
      match tempo with
      | none => none
      | some tempo =>
        let c : Cue :=
          { number := r.number, trigger := trigger, tempo := tempo, barSet := r.barSet, vamp := r.vamp,
            caption := r.caption, patches := r.patches, clicks := clicks }
        if cueOk c then some (orderedCue c) else none
    | _, _ => none

/-- The ranges of a patch map entry (R117). -/
def mapEntryOk (e : MapEntry) : Bool :=
  stationOk e.station && patchOk e.patch && e.bank ≤ 16383 && e.program ≤ 127 && e.load ≤ 30000

/-- A PROTECT SET's configuration (R83, step 3). DESIGN CHOICE: in mode NONE and ALL, where from and to are ignored, the
configuration holds neither (log 28). -/
def readProtect (mode : Nat) (lo hi : CueNo) (keyLock : Nat) : Option Protect :=
  match readFlag keyLock, mode with
  | some k, 0 => some { mode := .none, range := none, keyLock := k }
  | some k, 1 => if cueNoOk lo && cueNoOk hi && cueLe lo hi then some { mode := .range, range := some (lo, hi), keyLock := k } else none
  | some k, 2 => some { mode := .all, range := none, keyLock := k }
  | _, _ => none

/-- A protect configuration of an image within its ranges (R88). DESIGN CHOICE: from and to are tested in RANGE mode
alone, in which alone they are read (R83); in the other modes whatever stands there is installed (log 28). -/
def protectOk (p : Protect) : Bool :=
  match p.mode, p.range with
  | .range, some (lo, hi) => cueNoOk lo && cueNoOk hi && cueLe lo hi
  | .range, none => false
  | _, _ => true

/-- A masked field: its new value where the mask entry is set and the value is in range; the old one where the mask
entry is clear; none where the value is out of range (00 section 3.7). -/
def masked {α β : Type} (read : α → Option β) (old : β) : Option α → Option β
  | none => some old
  | some a => read a

def readWindow : Nat → Option LockedWindow
  | 0 => some .normal
  | 1 => some .narrow
  | _ => none

def readConstant : Nat → Option TimeConstant
  | 0 => some .slow
  | 1 => some .normal
  | 2 => some .fast
  | 3 => some .adaptive
  | _ => none

def readAccent : Nat → Option AccentMode
  | 0 => some .downbeat
  | 1 => some .none
  | 2 => some .all
  | _ => none

def readOverride : Nat → Option Override
  | 0 => some .none
  | 1 => some .forcedOn
  | 2 => some .forcedOff
  | _ => none

/-- A level of 0 to −60 dB, as the attenuation below 0 dB (R65). -/
def readLevel (l : Int) : Option Nat := if -60 ≤ l ∧ l ≤ 0 then some (-l).toNat else none

def readRateSetting : Nat → Option RateSetting
  | 0 => some .auto
  | 1 => some .forced50
  | 2 => some .forced59
  | _ => none

def readLineConstant : Nat → Option LineConstant
  | 0 => some .slow
  | 1 => some .normal
  | 2 => some .fast
  | _ => none

def readStyle : Nat → Option FlashStyle
  | 0 => some .border
  | 1 => some .corner
  | _ => none

/-- A set of the six elements, the one at place k at the bit of weight 2^k (R147, R187). -/
def readElements (n : Nat) : Option Elements :=
  if n < 64 then
    some { barBeat := n.testBit 0, cueNumber := n.testBit 1, tempo := n.testBit 2, caption := n.testBit 3,
           flash := n.testBit 4, banner := n.testBit 5 }
  else none

/-- A late override: none, or 10–1,000 ms (R134). -/
def readLateOverride : Option Nat → Option (Option Nat)
  | none => some none
  | some n => (readRange 10 1000 n).map some

/-- The show settings after a SHOW SET, or none where it is refused (R107). -/
def readShowSet (f : RawShowSet) (old : ShowSettings) : Option ShowSettings := do
  let standbyRequired ← masked readFlag old.standbyRequired f.standbyRequired
  let lookAhead ← masked (readRange 0 4) old.lookAhead f.lookAhead
  let lateThreshold ← masked (readRange 10 1000) old.lateThreshold f.lateThreshold
  let resumeCountIn ← masked (readRange 0 2) old.resumeCountIn f.resumeCountIn
  let holdCountIn ← masked (readRange 0 2) old.holdCountIn f.holdCountIn
  return { standbyRequired, lookAhead, lateThreshold, resumeCountIn, holdCountIn }

/-- A SHOW SET selects a field (R87). -/
def RawShowSet.selects (f : RawShowSet) : Bool :=
  f.standbyRequired.isSome || f.lookAhead.isSome || f.lateThreshold.isSome || f.resumeCountIn.isSome
    || f.holdCountIn.isSome

/-- The follower settings after a FOLLOW SET (R49). -/
def readFollowSet (f : RawFollowSet) (old : FollowSettings) : Option FollowSettings := do
  let window ← masked readWindow old.window f.window
  let constant ← masked readConstant old.constant f.constant
  let m ← masked (readRange 1 8) old.m f.m
  return { window, constant, m }

def RawFollowSet.selects (f : RawFollowSet) : Bool := f.window.isSome || f.constant.isSome || f.m.isSome

/-- The five stored settings of a channel and its override after a CHANNEL SET (R65). -/
def readChannelSet (f : RawChannelSet) (old : ChannelSettings) (override : Override) :
    Option (ChannelSettings × Override) := do
  let accent ← masked readAccent old.accent f.accent
  let down ← masked readLevel old.down f.level
  let lead ← masked (readRange 0 100000) old.lead f.lead
  let countIn ← masked readFlag old.countIn f.countIn
  let toneSet ← masked (readRange 1 4) old.toneSet f.toneSet
  let forced ← masked readOverride override f.override
  return ({ accent, down, lead, countIn, toneSet }, forced)

/-- A CHANNEL SET selects a stored field (R65, R87). -/
def RawChannelSet.selectsStored (f : RawChannelSet) : Bool :=
  f.accent.isSome || f.level.isSome || f.lead.isSome || f.countIn.isSome || f.toneSet.isSome

/-- The video settings after a VIDEO SET (R153). -/
def readVideoSet (f : RawVideoSet) (old : VideoSettings) : Option VideoSettings := do
  let rate ← masked readRateSetting old.rate f.rate
  let constant ← masked readLineConstant old.constant f.constant
  let delay ← masked (readRange 0 200000) old.delay f.delay
  let pitElements ← masked readElements old.pit.elements f.pitElements
  let stageElements ← masked readElements old.stage.elements f.stageElements
  let pitStyle ← masked readStyle old.pit.style f.pitStyle
  let stageStyle ← masked readStyle old.stage.style f.stageStyle
  let pitLength ← masked (readRange 1 4) old.pit.length f.pitLength
  let stageLength ← masked (readRange 1 4) old.stage.length f.stageLength
  return { rate, constant, delay,
           pit := { elements := pitElements, style := pitStyle, length := pitLength },
           stage := { elements := stageElements, style := stageStyle, length := stageLength } }

def RawVideoSet.selects (f : RawVideoSet) : Bool :=
  f.rate.isSome || f.constant.isSome || f.delay.isSome || f.pitElements.isSome || f.stageElements.isSome
    || f.pitStyle.isSome || f.stageStyle.isSome || f.pitLength.isSome || f.stageLength.isSome

/-- A station number of a request, 1–6, as the index of its record (R131). -/
def readStation (n : Nat) : Option (Fin 6) :=
  if h : 1 ≤ n ∧ n ≤ 6 then some ⟨n - 1, by omega⟩ else none

/-- A channel number of a request, 1–16, as the index of its record (R65). -/
def readChannel (n : Nat) : Option (Fin 16) :=
  if h : 1 ≤ n ∧ n ≤ 16 then some ⟨n - 1, by omega⟩ else none

/-- Strictly increasing cue numbers (R70). -/
def increasing : List Cue → Bool
  | [] => true
  | [_] => true
  | a :: b :: rest => cueLt a.number b.number && increasing (b :: rest)

/-- The entries of the pool a cue occupies (R71). -/
def cueEntries (c : Cue) : Nat :=
  (match c.tempo with
    | none => 0
    | some r => if r.ramp.isSome then 2 else 1)
    + c.barSet.isSome.toNat + c.vamp.isSome.toNat + c.caption.isSome.toNat + c.patches.length + c.clicks.length

/-- The entries of a list of cues (R71). -/
def poolOf (cues : List Cue) : Nat := (cues.map cueEntries).sum

/-- The ranges of the settings of an image (R88). -/
def settingsOk (i : ShowImage) : Bool :=
  i.lead ≤ Config.maxLead && 1 ≤ i.follow.m && i.follow.m ≤ 8
    && i.channels.length == 16
    && i.channels.all (fun c => c.down ≤ 60 && c.lead ≤ 100000 && 1 ≤ c.toneSet && c.toneSet ≤ 4)
    && i.video.delay ≤ 200000 && 1 ≤ i.video.pit.length && i.video.pit.length ≤ 4
    && 1 ≤ i.video.stage.length && i.video.stage.length ≤ 4
    && i.settings.lookAhead ≤ 4 && 10 ≤ i.settings.lateThreshold && i.settings.lateThreshold ≤ 1000
    && i.settings.resumeCountIn ≤ 2 && i.settings.holdCountIn ≤ 2

/-- The checks of R88 on the content of an image. -/
def imageOk (i : ShowImage) : Bool :=
  i.cues.length ≤ Config.maxCues && increasing i.cues && i.cues.all cueOk && poolOf i.cues ≤ Config.maxPool
    && i.map.length ≤ Config.maxMap && decide (i.map.map fun e => (e.station, e.patch)).Nodup
    && i.map.all mapEntryOk && protectOk i.protect && settingsOk i

/-- The image a read of the image area accepts, if any (R88). -/
def acceptedImage (a : FlashArea) : Option ShowImage :=
  match a.body with
  | some i => if a.marker && a.crcMatches && imageOk i then some i else none
  | none => none

end Sys2Proof.Machine
end

