-- ==== Sys2Proof/Machine/Ops.lean ====
section
/-! DEFINITION. The named operations that every block's rules share: show time, the gates of power and of the
power-on load, the records of stations and channels, the stop state's hand-over, and the questions the Cue Store
answers (R67, R80). -/

namespace Sys2Proof.Machine

open Sys2Proof

/-! ## Show time and gates -/

/-- Show time goes on to `t`; it never goes back (log 2). -/
def State.goTo (t : Nat) (s : State) : State := { s with now := max s.now t }

/-- A command's effect on a part that has power; without power nothing happens (R86, log 3). -/
def whenPowered (f : State → State) (s : State) : Host.Outcome State Fault Refusal :=
  .next (if s.powered then f s else s)

/-- An event the part takes at show time `t`. -/
def event (t : Nat) (f : State → State) (s : State) : Host.Outcome State Fault Refusal :=
  whenPowered (fun s => f (s.goTo t)) s

/-- A step the part takes by itself when show time reaches `due`; where nothing is due it does not come (log 2, log 3). -/
def selfTimed (due : State → Option Nat) (f : State → State) (s : State) : Host.Outcome State Fault Refusal :=
  whenPowered (fun s => match due s with
    | some d => f (s.goTo d)
    | none => s) s

/-- An effect that the power-on load holds off (R109, R140, R186). -/
def unlessLoading (f : State → State) (s : State) : State := if s.loading then s else f s

/-- A line has held a level long enough: only the time since the part left its internal reset, at show time 0, counts
(R27, R83, R95, R110, R157; log 12). -/
def State.hasHeld (need held : Nat) (s : State) : Bool := need ≤ min held s.now

/-! ## Replies -/

/-- What a block answers to a request. -/
structure Answer where
  status : Status
  body : List Item

/-- An answer of OK with a body. -/
def okWith (body : List Item) : Answer := { status := .ok, body := body }

/-- A refusal with no body. -/
def refuse (status : Status) : Answer := { status := status, body := [] }

/-- The reply as it is formed: the summary is read after the request has been taken (R182). -/
def formReply (a : Answer) (s : State) : Reply :=
  { status := a.status, summary := attentionSummary s, body := a.body }

/-- A request taken at show time `t` by its owning block; `inLoad` says whether it is served during the power-on
load, where any other request is answered BUSY with no body and has no effect (R181, R182). -/
def takeRequest (inLoad : Bool) (f : State → State × Answer) (s : State) : State × Answer :=
  if s.loading && !inLoad then (s, refuse .busy) else f s

/-- The state after a request, with the reply formed last (log 8). -/
def keepReply (r : State × Answer) : State :=
  { r.1 with link := { r.1.link with lastReply := some (formReply r.2 r.1) } }

/-- A request that its row names directly (log 8). -/
def request (t : Nat) (inLoad : Bool) (f : State → State × Answer) (s : State) : Host.Outcome State Fault Refusal :=
  event t (fun s => keepReply (takeRequest inLoad f s)) s

/-! ## Stations and channels by number -/

def allStations : List (Fin 6) := [0, 1, 2, 3, 4, 5]

def allChannels : List (Fin 16) := [0, 1, 2, 3, 4, 5, 6, 7, 8, 9, 10, 11, 12, 13, 14, 15]

def State.station (s : State) (i : Fin 6) : Station := s.stations.getD i Station.initial

def State.setStation (s : State) (i : Fin 6) (f : Station → Station) : State :=
  { s with stations := s.stations.modify i f }

def State.channel (s : State) (i : Fin 16) : Channel := s.channels.getD i Channel.initial

def State.setChannel (s : State) (i : Fin 16) (f : Channel → Channel) : State :=
  { s with channels := s.channels.modify i f }

/-- An order to each of the six stations in turn. DESIGN CHOICE: from station 1 to station 6, which settles whose fault
stands in STATION_FAULT's record where several raise one (log 31). -/
def eachStation (f : Fin 6 → State → State) (s : State) : State := allStations.foldl (fun s i => f i s) s

/-- The station is ONLINE and not excluded: it takes targets, sends SILENCE at a stop and preloads (R112, R122). -/
def Station.serves (st : Station) : Bool := st.link == .online && !st.excluded

/-! ## The Cue Store's questions -/

/-- The cue of a number (R67). -/
def findCue (cues : List Cue) (n : CueNo) : Option Cue := cues.find? fun c => c.number == n

/-- The successor of a number: the first cue after it (R67). -/
def successor (cues : List Cue) (n : CueNo) : Option CueNo :=
  (cues.find? fun c => cueLt n c.number).map (·.number)

/-- The predecessor of a number: the last cue before it (R67). -/
def predecessor (cues : List Cue) (n : CueNo) : Option CueNo :=
  ((cues.filter fun c => cueLt c.number n).getLast?).map (·.number)

/-- The last part that a cue at or before `n` carries, with the cue's number (R80). -/
def trackedPart {α : Type} (part : Cue → Option α) (cues : List Cue) (n : CueNo) : Option (α × CueNo) :=
  cues.foldl (fun acc c =>
    if cueLe c.number n then
      match part c with
      | some a => some (a, c.number)
      | none => acc
    else acc) none

/-- The patch action of a cue for a station, numbered from 0. -/
def cuePatch (i : Fin 6) (c : Cue) : Option Nat :=
  (c.patches.find? fun p => p.station == i.val + 1).map (·.patch)

/-- The click action of a cue for a channel, numbered from 0. -/
def cueClick (i : Fin 16) (c : Cue) : Option ClickAction := c.clicks.find? fun a => a.channel == i.val + 1

/-- The tracked patch of a station (R80). -/
def trackedPatch (cues : List Cue) (n : CueNo) (i : Fin 6) : Option (Nat × CueNo) :=
  trackedPart (cuePatch i) cues n

/-- The tracked on or off of a channel, with its cue; off where none sets it (R80). -/
def trackedOn (cues : List Cue) (n : CueNo) (i : Fin 16) : Option (Bool × CueNo) :=
  trackedPart (fun c => (cueClick i c).map (·.on)) cues n

/-- The tracked subdivision of a channel, with its cue; 1 where none sets it (R80). -/
def trackedSub (cues : List Cue) (n : CueNo) (i : Fin 16) : Option (Nat × CueNo) :=
  trackedPart (fun c => (cueClick i c).bind (·.sub)) cues n

/-- The tracked tempo record (R80). -/
def trackedTempo (cues : List Cue) (n : CueNo) : Option (TempoRecord × CueNo) := trackedPart (·.tempo) cues n

/-- The tracked caption (R80). -/
def trackedCaption (cues : List Cue) (n : CueNo) : Option (List Byte × CueNo) := trackedPart (·.caption) cues n

/-- The patch map entry of a key (R117). -/
def findMap (map : List MapEntry) (station patch : Nat) : Option MapEntry :=
  map.find? fun e => e.station == station && e.patch == patch

/-- A store is in progress (R85). -/
def State.storing (s : State) : Bool := s.store.job.isSome

/-! ## The stop state -/

/-- The Stop Controller's stop state changes, and it is handed to the Video Overlay Unit (R155, R148). -/
def setStop (st : StopSt) (s : State) : State :=
  { s with
    stop := { s.stop with st := st }
    video := { s.video with content := { s.video.content with stopState := st } } }

/-- The rebuild account is kept only in REBUILDING and READY (R167). -/
def StopSt.rebuilds : StopSt → Bool
  | .rebuilding | .ready => true
  | _ => false

/-- The stop state is RUN or HOLDING, in which AT_BAR and follow expiries fire (R98, R99). -/
def StopSt.fires : StopSt → Bool
  | .run | .holding _ => true
  | _ => false

/-- An entry that keeps the show from being ready (R167). -/
def Account.blocks : Account → Bool
  | .waiting | .failed => true
  | _ => false

/-- Readiness (R167): REBUILDING goes to READY when nothing is PENDING or FAILED, raising RESUME_READY (R171), and
READY goes back to REBUILDING when something is. -/
def evaluateReady (s : State) : State :=
  let blocked := s.stop.account.any Account.blocks
  match s.stop.st, s.stop.resume with
  | .rebuilding, some r => if blocked then s else raise (.resumeReady r.cue r.bar) (setStop .ready s)
  | .ready, _ => if blocked then setStop .rebuilding s else s
  | _, _ => s

/-- An entry of the rebuild account is set, in REBUILDING and READY, and readiness is evaluated (R167). -/
def setAccount (i : Fin 6) (f : Account → Account) (s : State) : State :=
  if s.stop.st.rebuilds then
    evaluateReady { s with stop := { s.stop with account := s.stop.account.modify i f } }
  else s

/-- The Station Controller reports a rebuild switch SATISFIED or FAILED: only a PENDING entry changes (R167). -/
def reportSwitch (i : Fin 6) (satisfied : Bool) (s : State) : State :=
  setAccount i (fun a => match a with
    | .waiting => if satisfied then .satisfied else .failed
    | a => a) s

/-- The Station Controller's word about a station's link or exclusion (R155). -/
def setWords (i : Fin 6) (f : StationWords → StationWords) (s : State) : State :=
  { s with stop := { s.stop with words := s.stop.words.modify i f } }

def State.words (s : State) (i : Fin 6) : StationWords :=
  s.stop.words.getD i { online := false, excluded := false }

end Sys2Proof.Machine
end

