-- ==== Sys2Proof/Machine/Click.lean ====
section
/-! DEFINITION. The Click Generator: what a commit schedules, cancel orders, the tracked fields (03, R54 to R64). -/

namespace Sys2Proof.Machine

open Sys2Proof

/-- Whether the channel sounds for a beat of a phase (R55). -/
def channelSounds (phase : Phase) (c : Channel) : Bool :=
  match phase, c.override with
  | _, .forcedOff => false
  | .inShow, .forcedOn => true
  | .inShow, .none => c.trackedOn
  | .countIn _, _ => c.settings.countIn

/-- The effective lead: the setting, or C where it exceeds C (R56). -/
def effectiveLead (lead c : Nat) : Nat := min lead c

/-- The kind of a beat burst (R57). -/
def beatBurstKind (accent : AccentMode) (beat : Nat) : BurstKind :=
  match accent with
  | .all => .accent
  | .none => .beat
  | .downbeat => if beat = 1 then .accent else .beat

/-- The onset times and kinds of the bursts one beat gives a sounding channel (R57). -/
def burstOnsets (r : BeatRec) (lead : Nat) (c : Channel) : List (BurstKind × Int) :=
  let onset : Int := (r.time : Int) - (effectiveLead c.settings.lead lead : Int)
  let subs :=
    match r.phase with
    | .inShow => (List.range (c.trackedSub - 1)).map fun j =>
        (BurstKind.sub, onset + ((r.period.getD 0 * (j + 1) / c.trackedSub : Nat) : Int))
    | .countIn _ => []
  (beatBurstKind c.settings.accent r.beat, onset) :: subs

/-- A burst, with what is fixed when it is scheduled, and whether it starts late: an onset frame before the first open
frame starts there (R52, R58). DESIGN CHOICE: the frame test decides also for a downbeat that a pulse commits, so that a
lead too small to leave the open frame is not late, though R58's last case calls every lead above 0 late (log 36). -/
def makeBurst (settings : ChannelSettings) (openFrame : Nat) (k : BurstKind × Int) : Burst × Bool :=
  let onset := onsetFrame k.2
  ({ kind := k.1, frequency := toneFrequency settings.toneSet k.1, peak := peakOf (burstDown settings.down k.1),
     onset := onset, frame := max onset.toNat openFrame }, decide (onset < (openFrame : Int)))

/-- What a channel withdraws at a new beat burst: the unstarted SUB bursts at or after its onset frame (R59). -/
def withdrawSubs (onset : Int) (bursts : List Burst) : List Burst :=
  bursts.filter fun b => !(b.kind == .sub && onset ≤ b.onset)

/-- The channel after a commit (R57 to R59); the list holds at most eight bursts (R51). DESIGN CHOICE: a late start is
counted here, when it is scheduled, so that one cancelled or withdrawn before its frame has counted too (log 26). -/
def scheduleChannel (r : BeatRec) (lead : Nat) (c : Channel) : Channel :=
  if channelSounds r.phase c then
    let onsets := burstOnsets r lead c
    let made := onsets.map (makeBurst c.settings (frameOf r.commitTime))
    let kept := withdrawSubs (onsetFrame ((onsets.head?.map (·.2)).getD 0)) c.bursts
    { c with
      bursts := (made.foldl (fun l b => insertBy (·.onset) b.1 l) kept).take Config.maxBursts
      lateCount := min Config.maxCount16 (c.lateCount + (made.filter (·.2)).length) }
  else c

/-- The Click Generator takes the beat record of a commit; a CONDUCTED one schedules nothing (R57, R60). -/
def clickCommit (r : BeatRec) (s : State) : State :=
  match r.mode with
  | .conducted => s
  | _ => { s with channels := s.channels.map (scheduleChannel r s.clock.lead) }

/-- No list holds a burst that has not started (R159). -/
def drained (s : State) : Bool := s.channels.all fun c => c.bursts.isEmpty

/-- The Click Generator tells the Stop Controller that its lists have emptied while a hold drains (R61, R159). -/
def drainReport (s : State) : State :=
  match s.stop.st with
  | .holding .draining => if drained s then setStop .held s else s
  | _ => s

/-- The cancel order: every burst not started is removed from every list (R62). -/
def cancelClicks (s : State) : State := { s with channels := s.channels.map fun c => { c with bursts := [] } }

/-- A click action of a fire in order (R54). -/
def takeClickAction (a : ClickAction) (c : Channel) : Channel :=
  { c with trackedOn := a.on, trackedSub := a.sub.getD c.trackedSub }

/-- The channel states of a fire in order: one for each channel that the cue names (R54). -/
def clickFire (cue : Cue) (s : State) : State :=
  { s with channels := List.zipWith (fun i c => match cueClick i cue with
      | some a => takeClickAction a c
      | none => c) allChannels s.channels }

/-- The tracked click state at a cue, for all sixteen channels: a tracked fire or a rebuild order (R54, R80). -/
def clickTracked (n : CueNo) (s : State) : State :=
  { s with channels := List.zipWith (fun i c =>
      { c with trackedOn := ((trackedOn s.store.cues n i).map (·.1)).getD false
               trackedSub := ((trackedSub s.store.cues n i).map (·.1)).getD 1 }) allChannels s.channels }

/-- A channel after RESTART SHOW: bursts already in the lists stand (R64). -/
def restartChannel (c : Channel) : Channel :=
  { c with trackedOn := false, trackedSub := 1, override := .none, lateCount := 0 }

/-- The show time at which the first unstarted burst of a channel starts (R58). -/
def burstStartDue (i : Fin 16) (s : State) : Option Nat := (s.channel i).bursts.head?.map fun b => frameTime b.frame

/-- The first unstarted burst of a channel starts, cutting short one that sounds (R59). DESIGN CHOICE: of two bursts that
start in one frame, as a late beat burst and a late SUB burst of the same beat do in the first open frame, the later in the
list starts last and is the one that sounds (log 33). -/
def burstStarts (i : Fin 16) (s : State) : State :=
  drainReport (s.setChannel i fun c => { c with sounding := c.bursts.head?, bursts := c.bursts.tail })

/-- The show time at which the sounding burst has played its 720 samples (R53). -/
def burstEndDue (i : Fin 16) (s : State) : Option Nat :=
  (s.channel i).sounding.map fun b => frameTime (b.frame + Config.burstSamples)

/-- The sounding burst has ended, and the slot carries silence (R53). -/
def burstEnds (i : Fin 16) (s : State) : State := s.setChannel i fun c => { c with sounding := none }

end Sys2Proof.Machine
end

