-- ==== Sys2Proof/Machine/Follower.lean ====
section
/-! DEFINITION. The Conductor Follower: its states, windows, missed beats and corrections (02, R27 to R48). Its period is
the clock's P (R30). -/

namespace Sys2Proof.Machine

open Sys2Proof

def State.setFollower (f : Follower → Follower) (s : State) : State := { s with follower := f s.follower }

/-- The period in µs, where the clock keeps one. -/
def State.periodNow (s : State) : Nat := s.clock.period.getD 0

/-! ## Changes of state -/

/-- The follower goes to a state; a change raises BEAT_LOCK (R48). -/
def followerGoes (st : FollowerSt) (s : State) : State :=
  if s.follower.st = st then s else raise (.beatLock st) (s.setFollower fun f => { f with st := st })

/-- The window of the last committed beat is closed without a miss, and the next beat mark is cleared (R32, log 14). -/
def followerFreeze (s : State) : State :=
  s.setFollower fun f =>
    { f with last := f.last.map fun l => { l with isOpen := false }, nextMatched := false }

/-- Entering FREE (R31). -/
def enterFree (s : State) : State :=
  followerGoes .free (followerFreeze (s.setFollower fun f =>
    { f with band := none, coasting := false, clamped := false, push := none, good := 0, rejectedRun := 0,
             missedRun := 0, fastLeft := 0 }))

/-- Entering SEEKING afresh (R42). -/
def enterSeeking (s : State) : State :=
  followerGoes .seeking (s.setFollower fun f =>
    { f with jitter := 0, good := 0, rejectedRun := 0, missedRun := 0, push := none, coasting := false })

/-- Entering LOCKED (R42). -/
def enterLocked (s : State) : State :=
  followerGoes .locked (s.setFollower fun f =>
    { f with good := 0, rejectedRun := 0, missedRun := 0, push := none, active := .normal, fastLeft := 0 })

/-- Entering COASTING (R44). -/
def enterCoasting (s : State) : State :=
  followerGoes .coasting (s.setFollower fun f => { f with coasting := true, missedRun := 0, push := none })

/-- The clock tells the follower that no record governs (R31). -/
def tellNone (s : State) : State := enterFree s

/-- The clock tells the follower a record, at a downbeat or, with `atStart`, at a start (R31). -/
def tellRecord (atStart : Bool) (g : Governing) (s : State) : State :=
  match g.record.mode with
  | .follow =>
    let s := if atStart || s.follower.st = .free then enterSeeking s else s
    s.setFollower fun f => { f with band := some (bandAround g.marked g.record.band) }
  | _ => enterFree s

/-! ## Windows and missed beats -/

/-- The half-width W of a window, 0 in FREE (R33). -/
def windowWidth (s : State) : Nat :=
  match s.follower.st with
  | .free => 0
  | .seeking | .coasting => s.periodNow / 2
  | .locked =>
    match s.follower.settings.window with
    | .normal => s.periodNow / 4
    | .narrow => s.periodNow / 8

/-- A beat is missed (R44). -/
def missBeat (s : State) : State :=
  let s := s.setFollower fun f => { f with missed := satInc Config.maxCount16 f.missed, push := none }
  match s.follower.st with
  | .seeking => s.setFollower fun f => { f with good := 0 }
  | .locked =>
    let s := s.setFollower fun f => { f with missedRun := f.missedRun + 1 }
    if s.follower.settings.m ≤ s.follower.missedRun then enterCoasting s else s
  | _ => s

/-- The open window of the last committed beat closes; unmatched, the beat is missed (R34). -/
def closeWindow (s : State) : State :=
  match s.follower.last with
  | some l =>
    if l.isOpen then
      let s := s.setFollower fun f => { f with last := some { l with isOpen := false } }
      if l.matched then s else missBeat s
    else s
  | none => s

/-- The follower keeps windows: it is not FREE (R34). -/
def keepsWindows (s : State) : Bool := s.follower.st != .free

/-- The instant at which the open window closes: the first at which show time exceeds T_c + W (R34). -/
def windowCloseDue (s : State) : Option Nat :=
  match s.follower.last with
  | some l => if l.isOpen && keepsWindows s then some (l.time + windowWidth s + 1) else none
  | none => none

/-- A window that W has left behind closes at once (R34, R42, R49). -/
def judgeWindow (s : State) : State :=
  match windowCloseDue s with
  | some d => if d ≤ s.now then closeWindow s else s
  | none => s

/-- The window account at a commit (R34). -/
def windowAccount (t : Nat) (s : State) : State :=
  if keepsWindows s then
    let s := closeWindow s
    s.setFollower fun f =>
      { f with last := some { time := t, isOpen := true, matched := f.nextMatched }, nextMatched := false }
  else s

/-! ## Corrections -/

/-- The divisors d_p and d_f of a time constant (R36). -/
def ActiveConstant.divisors : ActiveConstant → Nat × Nat
  | .slow => (8, 64)
  | .normal => (4, 16)
  | .fast => (2, 4)

/-- The time constant in force for a correction (R36). -/
def constantInForce (f : Follower) : ActiveConstant :=
  match f.st with
  | .locked =>
    match f.settings.constant with
    | .slow => .slow
    | .normal => .normal
    | .fast => .fast
    | .adaptive => if 0 < f.fastLeft then .fast else f.active
  | _ => .fast

/-- The band, or the absolute limits where there is none (R30). -/
def bandOf (f : Follower) : Nat × Nat := f.band.getD (Config.minPeriod, Config.maxPeriod)

/-- The period is set to a value clamped to the band; CLAMPED tells whether the clamp changed it (R37, R38). -/
def setClamped (p : Int) (s : State) : State :=
  let b := bandOf s.follower
  let q := clampInt b.1 b.2 p
  { s with
    clock := { s.clock with period := some q }
    follower := { s.follower with clamped := decide ((q : Int) ≠ p) } }

/-- A ramp step in FOLLOW mode: the band goes to that around P_i, and the period shifts by P_i − P_{i−1} (R16, R38). -/
def followRampStep (band prev step : Nat) (s : State) : State :=
  let s := s.setFollower fun f => { f with band := some (bandAround step band) }
  setClamped ((s.periodNow : Int) + (step : Int) - (prev : Int)) s

/-- A freeze that ends a ramp in FOLLOW mode: the period becomes the target's (R16, R38). -/
def followRampEnd (band target : Nat) (s : State) : State :=
  let s := s.setFollower fun f => { f with band := some (bandAround target band) }
  setClamped (target : Int) s

/-- The corrections of an accepted pulse at `t` with error `e`; `early` where it is matched to beat u before its
commit, whose time is `u` (R37). The floor is taken from the last committed beat whatever the follower kept of it,
which is the clock's spacing reference (R2, R4). -/
def correct (t : Nat) (e : Int) (early : Bool) (u : Nat) (s : State) : State :=
  let d := (constantInForce s.follower).divisors
  let p := s.periodNow
  let s := setClamped ((p : Int) + roundAway e d.2) s
  let q := s.periodNow
  let moved : Int := (u : Int) + roundAway e d.1 + (if early then 0 else (q : Int) - (p : Int))
  let floor₁ : Nat := match s.clock.spacing with
    | some c => c + ceilDiv q 2
    | none => 0
  let u' : Nat := max moved.toNat (max floor₁ (t + s.clock.lead))
  { s with clock := { s.clock with next := s.clock.next.map fun n => { n with time := some u' } } }

/-- The jitter after an accepted pulse: J + (|e| − J)/8, the quotient truncated toward zero (R39). -/
def jitterAfter (j : Nat) (e : Int) : Nat := ((j : Int) + ((e.natAbs : Int) - (j : Int)).tdiv 8).toNat

/-- The sign of an error. -/
def signOf (e : Int) : Sign := if 0 ≤ e then .plus else .minus

/-- Push detection after an accepted pulse in LOCKED under ADAPTIVE (R41): the push memory after it, and whether a
push is detected. -/
def pushAfter (memory : Option Sign) (e : Int) (eighth : Nat) : Option Sign × Bool :=
  if eighth < e.natAbs then
    if memory = some (signOf e) then (none, true) else (some (signOf e), false)
  else (none, false)

/-- The active time constant chosen by the jitter, with hysteresis (R40). -/
def hysteresis (active : ActiveConstant) (j p : Nat) : ActiveConstant :=
  match active with
  | .slow => if j ≤ p / 32 then .normal else .slow
  | _ => if p / 16 < j then .slow else .normal

/-- What ADAPTIVE does after an accepted pulse in LOCKED, once its corrections are made and J is updated (R40, R41;
push detection comes first, log 15). -/
def adapt (e : Int) (s : State) : State :=
  if s.follower.settings.constant = .adaptive then
    let p := s.periodNow
    s.setFollower fun f =>
      let push := pushAfter f.push e (p / 8)
      if push.2 then { f with push := push.1, fastLeft := 4 }
      else if f.fastLeft = 0 then { f with push := push.1, active := hysteresis f.active f.jitter p }
      else if f.fastLeft = 1 then
        { f with push := push.1, fastLeft := 0, active := if p / 16 < f.jitter then .slow else .normal }
      else { f with push := push.1, fastLeft := f.fastLeft - 1 }
  else s

/-- The good count after an accepted pulse in SEEKING; at 2 the follower enters LOCKED (R42). -/
def countGood (e : Int) (s : State) : State :=
  if e.natAbs ≤ s.periodNow / 8 then
    let s := s.setFollower fun f => { f with good := f.good + 1 }
    if 2 ≤ s.follower.good then enterLocked s else s
  else s.setFollower fun f => { f with good := 0 }

/-- A rejected pulse (R35, R43, R47). -/
def rejectPulse (why : Rejection) (s : State) : State :=
  let s := s.setFollower fun f =>
    { f with rejected := satInc Config.maxCount16 f.rejected, lastRejection := some why, push := none, good := 0 }
  match s.follower.st with
  | .locked =>
    let s := s.setFollower fun f => { f with rejectedRun := f.rejectedRun + 1 }
    if 3 ≤ s.follower.rejectedRun then enterSeeking s else s
  | _ => s

/-- An accepted pulse (R35): matched to the last committed beat, or, `early`, to beat u; then what its follower state
requires (R37, R39, R40 to R42, R45), and the window is judged with the W that results. DESIGN CHOICE: where the pulse's
own correction closes the window of an unmatched last beat, that miss comes after all else the pulse does (log 27). -/
def acceptPulse (t : Nat) (e : Int) (early : Bool) (u : Nat) (s : State) : State :=
  let s := s.setFollower fun f =>
    { f with last := if early then f.last else f.last.map fun l => { l with matched := true }
             nextMatched := f.nextMatched || early
             lastError := e, accepted := satInc Config.maxCount16 f.accepted, rejectedRun := 0, missedRun := 0 }
  match s.follower.st with
  | .seeking =>
    let s := correct t e early u s
    let s := s.setFollower fun f => { f with jitter := jitterAfter f.jitter e }
    judgeWindow (countGood e s)
  | .locked =>
    let s := correct t e early u s
    let s := s.setFollower fun f => { f with jitter := jitterAfter f.jitter e }
    judgeWindow (adapt e s)
  | .coasting => judgeWindow (enterSeeking s)
  | .free => s

/-- The candidate nearer to a pulse at `t` (R35): its time, whether it is beat u, and whether a pulse has been matched
to it. -/
def nearer (t : Nat) (last : Option LastBeat) (u : Nat) (uMatched : Bool) : Nat × Bool × Bool :=
  match last with
  | some l =>
    if l.isOpen ∧ distance t l.time ≤ distance t u then (l.time, false, l.matched) else (u, true, uMatched)
  | none => (u, true, uMatched)

/-- A pulse under a governing FOLLOW record (R35). -/
def followPulse (t : Nat) (s : State) : State :=
  match s.clock.next.bind (·.time) with
  | none => s
  | some u =>
    let c := nearer t s.follower.last u s.follower.nextMatched
    if c.2.2 then rejectPulse .double s
    else if windowWidth s < distance t c.1 then rejectPulse .outside s
    else acceptPulse t ((t : Int) - (c.1 : Int)) c.2.1 u s

/-- A pulse under a governing FIXED record: measured, not used (R46). -/
def measurePulse (t : Nat) (s : State) : State :=
  match s.clock.spacing with
  | some c => s.setFollower fun f => { f with lastError := (t : Int) - (c : Int) }
  | none => s

/-- A pulse under a governing CONDUCTED record is too close to the last committed beat (R47). -/
def tooClose (t : Nat) (s : State) : Bool :=
  match s.clock.spacing with
  | some c => decide (t < c + Config.minSpacing)
  | none => false

/-- A CLOSE rejection counts and nothing more (R47). -/
def rejectClose (s : State) : State :=
  s.setFollower fun f =>
    { f with rejected := satInc Config.maxCount16 f.rejected, lastRejection := some .close }

/-- An accepted CONDUCTED pulse counts, with an error of 0 (R47). -/
def acceptConducted (s : State) : State :=
  s.setFollower fun f => { f with accepted := satInc Config.maxCount16 f.accepted, lastError := 0 }

end Sys2Proof.Machine
end

