-- ==== Sys2Proof/Machine/Video.lean ====
section
/-! DEFINITION. The Video Overlay Unit: field classification, genlock, output timing, snapshots, flashes
(07, R138 to R152). Syncs and fields are timed in periods of the 24.000 MHz reference. -/

namespace Sys2Proof.Machine

open Sys2Proof

def State.setVideo (f : Video → Video) (s : State) : State := { s with video := f s.video }

/-! ## Rates -/

/-- The nominal field period F, in µs (R138). -/
def Rate.nominal : Rate → Nat
  | .r50 => 20000
  | .r59 => 16683

/-- The generator's field, in reference periods (R145). -/
def Rate.generator : Rate → Nat
  | .r50 => 480000
  | .r59 => 400400

/-- The rate that a line count classifies (R138). -/
def classifyLines (n : Nat) : Option Rate :=
  if n = 312 ∨ n = 313 then some .r50 else if n = 262 ∨ n = 263 then some .r59 else none

/-- The accepted rates of a rate setting (R139). -/
def acceptsRate : RateSetting → Rate → Bool
  | .auto, _ => true
  | .forced50, r => r == .r50
  | .forced59, r => r == .r59

/-- The free-run rate (R139). -/
def freeRunRate (v : Video) : Rate :=
  match v.settings.rate with
  | .auto => v.lastLocked.getD .r50
  | .forced50 => .r50
  | .forced59 => .r59

/-- The show time of a count of reference periods, rounded to nearest, halves upward (R145). -/
def refTime (r : Nat) : Nat := roundUpward r Config.refPerMicro

/-- The show time at which the field in progress started. -/
def fieldTime (v : Video) : Nat := refTime v.fieldStart

/-! ## Genlock -/

/-- Good lines to declare and bad lines to lose line lock (R141). -/
def lineCounts : LineConstant → Nat × Nat
  | .slow => (64, 32)
  | .normal => (32, 16)
  | .fast => (8, 4)

/-- The genlock goes to a state; a change raises VIDEO_LOCK (R144). -/
def genlockGoes (g : Genlock) (s : State) : State :=
  if s.video.genlock = g then s else raise (.videoLock g) (s.setVideo fun v => { v with genlock := g })

/-- The output timing leaves LOCKED mode, or gives up a re-time it awaited, when the genlock is no longer LOCKED
(R145, R146). The camera picture goes at that moment, within the field in progress (R145). -/
def loseOutput (s : State) : State :=
  s.setVideo fun v => { v with mode := .freeRun, retime := false, snapshot := { v.snapshot with camera := false } }

/-- Line lock is lost (R141). -/
def loseLineLock (s : State) : State :=
  loseOutput (genlockGoes .lineSeek (s.setVideo fun v =>
    { v with goodRun := 0, badRun := 0, fieldRun := 0, fieldRate := none, nonNominal := 0, lockedRate := none }))

/-- LOCKED is left for FIELD_SEEK with a field run (R143): the next field start classifies as at any other (R142). -/
def leaveLocked (run : Nat) (rate : Option Rate) (s : State) : State :=
  loseOutput (genlockGoes .fieldSeek (s.setVideo fun v =>
    { v with fieldRun := run, fieldRate := rate, lockedRate := none, seekPrimed := true }))

/-- A line is judged at the sync that ends it (R141). -/
def judgeLine (good : Bool) (s : State) : State :=
  let counts := lineCounts s.video.settings.constant
  match s.video.genlock with
  | .noSignal => s
  | .lineSeek =>
    let s := s.setVideo fun v => { v with goodRun := if good then min 64 (v.goodRun + 1) else 0 }
    if good && counts.1 ≤ s.video.goodRun then
      genlockGoes .fieldSeek (s.setVideo fun v => { v with fieldRun := 0, fieldRate := none, seekPrimed := false })
    else s
  | .fieldSeek | .locked =>
    let s := s.setVideo fun v => { v with badRun := if good then 0 else min 32 (v.badRun + 1) }
    if !good && counts.2 ≤ s.video.badRun then loseLineLock s else s

/-- A field start in FIELD_SEEK, with the rate of the field just ended where it is nominal (R142). -/
def seekField (nominal : Option Rate) (s : State) : State :=
  if s.video.seekPrimed then
    let s := s.setVideo fun v =>
      match nominal with
      | none => { v with fieldRun := 0, fieldRate := none }
      | some r =>
        if v.fieldRun ≠ 0 ∧ v.fieldRate = some r then { v with fieldRun := v.fieldRun + 1 }
        else { v with fieldRun := 1, fieldRate := some r }
    if 8 ≤ s.video.fieldRun then
      genlockGoes .locked (s.setVideo fun v =>
        { v with lockedRate := v.fieldRate, lastLocked := v.fieldRate, nonNominal := 0 })
    else s
  else s.setVideo fun v => { v with seekPrimed := true }

/-- A field start in LOCKED (R143). -/
def lockedField (nominal : Option Rate) (s : State) : State :=
  match nominal with
  | some r =>
    if s.video.lockedRate = some r then s.setVideo fun v => { v with nonNominal := 0 }
    else leaveLocked 1 (some r) s
  | none =>
    let s := s.setVideo fun v => { v with nonNominal := v.nonNominal + 1 }
    if 4 ≤ s.video.nonNominal then leaveLocked 0 none s else s

/-! ## Snapshots and flashes -/

/-- The banner of a content (R149). -/
def bannerOf (c : Content) : Banner :=
  let shown : Option Nat := match c.displayed with
    | some d => match d.phase with
      | .countIn n => some n
      | .inShow => none
    | none => none
  match c.stopState with
  | .stopped | .rebuilding | .ready => .stop
  | .holding _ | .held => .hold
  | .countIn _ => .countIn shown
  | .run =>
    match shown, c.standby with
    | some n, _ => .countIn (some n)
    | none, some n => .standby n
    | none, none => .none

/-- The start predicted for output field `m` (R145). -/
def predictedStart (v : Video) (m : Nat) : Nat := fieldTime v + (m - v.fieldNo) * v.outRate.nominal

/-- The field, from field `first` on, whose predicted start is nearest an aim, ties to the earlier (R146, R150). -/
def nearestField (v : Video) (first aim : Nat) : Nat :=
  let f := v.outRate.nominal
  max first (v.fieldNo + (2 * (aim - fieldTime v) + f - 1) / (2 * f))

/-- The first field whose start has not been taken and is predicted at or after `τ` (R150). -/
def firstCandidate (v : Video) (τ : Nat) : Nat :=
  v.fieldNo + max 1 (ceilDiv (τ - fieldTime v) v.outRate.nominal)

/-- The effective delay (R150). -/
def effectiveDelay (d c : Nat) : Nat := min d c

/-- The unit takes the beat record of a commit and chooses the beat's flash field (R150). DESIGN CHOICE: an aim that would
lie before show time 0 is held as 0, which chooses the same field (log 35). -/
def videoCommit (r : BeatRec) (s : State) : State :=
  let aim := r.time - effectiveDelay s.video.settings.delay s.clock.lead
  s.setVideo fun v =>
    let p : PendingFlash :=
      { field := nearestField v (firstCandidate v r.commitTime) aim, aim := aim, time := r.time,
        content := { bar := r.bar, beat := r.beat, pass := r.pass, phase := r.phase, tempo := displayedTempo r.period },
        conducted := r.mode == .conducted, before := fieldTime v, earlier := v.earlierStart,
        displays := true }
    { v with waiting := some p }

/-- A flash is late: some field that started before the commit was nearer to T − D than its own field (R151). Of those
fields the one in progress at the commit is the nearest, or, where both that one and the flash field start in one µs after
T − D, the last that started earlier. -/
def flashLate (p : PendingFlash) (start delay : Nat) : Bool :=
  let ideal : Int := (p.time : Int) - (delay : Int)
  !p.conducted && (p.before :: p.earlier.toList).any fun x =>
    decide (((x : Int) - ideal).natAbs < ((start : Int) - ideal).natAbs)

/-- The lit flash one field on, none once it is dark on both outputs (R151). -/
def litAfter : Option LitFlash → Option LitFlash
  | none => none
  | some l => if l.pit ≤ 1 ∧ l.stage ≤ 1 then none else some { pit := l.pit - 1, stage := l.stage - 1 }

/-- The pending flash starts with the field in progress (R151, R152). DESIGN CHOICE: its error and its lateness are
worked out with the D in force at this start, also where a VIDEO SET has changed D since its commit (log 29). -/
def startFlash (p : PendingFlash) (v : Video) : Video :=
  { v with
    waiting := none
    lit := some { pit := if v.settings.pit.elements.flash then v.settings.pit.length else 0
                  stage := if v.settings.stage.elements.flash then v.settings.stage.length else 0 }
    content := { v.content with displayed := if p.displays then some p.content else v.content.displayed }
    lastError := (fieldTime v : Int) - (p.time : Int) + (v.settings.delay : Int)
    lateCount := if flashLate p (fieldTime v) v.settings.delay then satInc Config.maxCount16 v.lateCount else v.lateCount }

/-- The snapshot that the field in progress is drawn from (R149). -/
def takeSnapshot (overlay : Bool) (v : Video) : Video :=
  { v with snapshot :=
      { overlay := overlay, camera := v.mode == .locked, content := v.content, banner := bannerOf v.content,
        pit := v.settings.pit, stage := v.settings.stage } }

/-- What the field in progress brings: its flash if one is pending for it, and its snapshot (R149, R151). -/
def enterField (overlay : Bool) (v : Video) : Video :=
  let lit := { v with lit := litAfter v.lit }
  takeSnapshot overlay (match v.waiting with
    | some p => if p.field = v.fieldNo then startFlash p lit else lit
    | none => lit)

/-- The count and the start of the output field that starts at `ref`, after the field in progress (R145). -/
def Video.nextField (ref : Nat) (v : Video) : Video :=
  { v with
    fieldNo := v.fieldNo + 1
    fieldStart := ref
    earlierStart := if fieldTime v = refTime ref then v.earlierStart else some (fieldTime v) }

/-- An output field starts at `ref` (R145, R149). -/
def startField (ref : Nat) (s : State) : State := s.setVideo fun v => enterField (!s.loading) (v.nextField ref)

/-- The output timing re-times to the input field that starts at `ref` (R146). -/
def retimeField (ref : Nat) (s : State) : State :=
  s.setVideo fun v =>
    let v := { v.nextField ref with mode := .locked, retime := false, outRate := v.lockedRate.getD v.outRate }
    let v := { v with waiting := v.waiting.map fun p => { p with field := nearestField v v.fieldNo p.aim } }
    enterField (!s.loading) v

/-! ## Line syncs -/

/-- The field start opens the first field after line lock was declared, and classifies nothing (R142). -/
def opensFirstField (before : Genlock) (v : Video) : Bool :=
  before == .fieldSeek && v.genlock == .fieldSeek && !v.seekPrimed

/-- A field start at `ref`: the ended field is classified (R138), unless this start opens the first field (R142); the
genlock takes it where it was in FIELD_SEEK or LOCKED before this sync and still is (log 21), and the output follows
(R145, R146). DESIGN CHOICE: a field start that itself takes the genlock out of LOCKED starts no output field and ends no
awaited re-time, the genlock coming first (log 21). DESIGN CHOICE: the last field length is the difference of the show times of
its two field starts, each rounded to nearest (log 13). -/
def takeFieldStart (before : Genlock) (ref : Nat) (s : State) : State :=
  let ended := s.video.inputField.filter fun _ => !opensFirstField before s.video
  let rate := match ended with
    | some _ => classifyLines s.video.lines
    | none => none
  let awaited := s.video.retime
  let nominal := rate.filter (acceptsRate s.video.settings.rate)
  let s := s.setVideo fun v =>
    { v with
      measured := match rate with
        | some r => some r
        | none => v.measured
      lastLength := match ended with
        | some f => some (refTime ref - refTime f)
        | none => v.lastLength
      inputField := some ref
      lines := 0 }
  let s := match before, s.video.genlock with
    | .fieldSeek, .fieldSeek => seekField nominal s
    | .locked, .locked => lockedField nominal s
    | _, _ => s
  match s.video.genlock, before with
  | .locked, .locked =>
    if awaited then retimeField ref s
    else match s.video.mode with
      | .locked => startField ref s
      | .freeRun => s
  | .locked, _ => s.setVideo fun v => { v with retime := true }
  | _, _ => s

/-- A line sync at `ref` (R138, R140, R141). -/
def takeSync (ref : Nat) (fieldStart : Bool) (s : State) : State :=
  let before := s.video.genlock
  let good := match s.video.lastSync with
    | some l => decide (Config.goodLineMin ≤ ref - l ∧ ref - l ≤ Config.goodLineMax)
    | none => false
  let s := match before with
    | .noSignal => genlockGoes .lineSeek (s.setVideo fun v => { v with goodRun := 0, badRun := 0 })
    | _ => judgeLine good s
  let s := s.setVideo fun v => { v with lastSync := some ref }
  if fieldStart then takeFieldStart before ref s else s.setVideo fun v => { v with lines := v.lines + 1 }

/-- The show time at which 100,000 µs have passed without a line sync (R140). -/
def syncLossDue (s : State) : Option Nat :=
  if s.video.genlock = .noSignal then none
  else s.video.lastSync.map fun l => refTime l + Config.syncLoss

/-- The loss of sync (R140). -/
def loseSync (s : State) : State :=
  loseOutput (genlockGoes .noSignal (s.setVideo fun v =>
    { v with goodRun := 0, badRun := 0, fieldRun := 0, fieldRate := none, nonNominal := 0, lockedRate := none }))

/-- The show time of the generator's next field start (R145). -/
def generatorDue (s : State) : Option Nat :=
  match s.video.mode with
  | .freeRun => some (refTime (s.video.fieldStart + s.video.outRate.generator))
  | .locked => none

/-- The generator starts a field; a new free-run rate takes effect (R145). -/
def generatorField (s : State) : State :=
  startField (s.video.fieldStart + s.video.outRate.generator) (s.setVideo fun v => { v with outRate := freeRunRate v })

/-- The show time at which the next input field is missed (R145). -/
def missedFieldDue (s : State) : Option Nat :=
  match s.video.mode with
  | .locked => some (predictedStart s.video (s.video.fieldNo + 1) + Config.missedField)
  | .freeRun => none

/-- An input field is missed: the generator starts the output field, and the output is re-timed at the next input
field start (R145, R146). -/
def missField (s : State) : State :=
  startField (s.now * Config.refPerMicro) (s.setVideo fun v => { v with mode := .freeRun, retime := true })

/-! ## Orders of the other blocks -/

/-- The stop state becomes STOPPED (R152): the pending flash is dropped, and a lit flash ends from the next field. -/
def videoStop (s : State) : State :=
  s.setVideo fun v => { v with waiting := none, lit := v.lit.map fun l => { pit := min l.pit 1, stage := min l.stage 1 } }

/-- A fire hands over the cue number and, where there is one, a caption (R148). -/
def videoFire (cue : CueNo) (caption : Option (List Byte)) (s : State) : State :=
  s.setVideo fun v =>
    { v with content := { v.content with cue := some cue, caption := caption.getD v.content.caption } }

/-- The standby cue, or its clearing (R148). -/
def videoStandby (cue : Option CueNo) (s : State) : State :=
  s.setVideo fun v => { v with content := { v.content with standby := cue } }

/-- RESTART SHOW in the unit (R148, R152): a pending flash stands, but no longer changes the displayed beat. -/
def videoRestart (s : State) : State :=
  s.setVideo fun v =>
    { v with content := Content.initial, lastError := 0, lateCount := 0,
             waiting := v.waiting.map fun p => { p with displays := false } }

/-- What a VIDEO SET's change of the rate setting does at once (R143). -/
def applyRateSetting (s : State) : State :=
  match s.video.genlock with
  | .locked =>
    if (s.video.lockedRate.map (acceptsRate s.video.settings.rate)).getD false then s else leaveLocked 0 none s
  | .fieldSeek =>
    if (s.video.fieldRate.map (acceptsRate s.video.settings.rate)).getD true then s
    else s.setVideo fun v => { v with fieldRun := 0, fieldRate := none }
  | _ => s

/-! ## What a field shows -/

/-- What an output draws of one element (R147, R149); bar and beat stand without a pass where it is 0. -/
inductive Drawn
  | barBeat (bar beat : Nat) (pass : Option Nat)
  | countInBeat (n : Nat)
  | cueNumber (n : CueNo)
  | tempo (bpm10 : Nat)
  | caption (chars : List Byte)
  | banner (b : Banner)
  | flash (style : FlashStyle)
deriving DecidableEq, Repr

/-- The overlay drawn on an output from a snapshot, with its profile and whether its flash is lit (R147, R149, R151);
an element that is not in the profile is not drawn. -/
def drawOutput (sn : Snapshot) (p : Profile) (lit : Bool) : List Drawn :=
  if sn.overlay then
    (match p.elements.barBeat, sn.content.displayed with
      | true, some d => match d.phase with
        | .countIn n => [.countInBeat n]
        | .inShow => [.barBeat d.bar d.beat (if 0 < d.pass then some d.pass else none)]
      | _, _ => [])
    ++ (match p.elements.cueNumber, sn.content.cue with
      | true, some n => [.cueNumber n]
      | _, _ => [])
    ++ (match p.elements.tempo, sn.content.displayed with
      | true, some d => [.tempo d.tempo]
      | _, _ => [])
    ++ (if p.elements.caption then [.caption sn.content.caption] else [])
    ++ (match sn.banner with
      | .none => []
      | .stop => [.banner .stop]
      | b => if p.elements.banner then [.banner b] else [])
    ++ (if lit && p.elements.flash then [.flash p.style] else [])
  else []

/-- The two outputs in the field in progress: PIT and STAGE (R147). -/
def outputs (s : State) : List Drawn × List Drawn :=
  let sn := s.video.snapshot
  let lit := s.video.lit.getD { pit := 0, stage := 0 }
  (drawOutput sn sn.pit (0 < lit.pit), drawOutput sn sn.stage (0 < lit.stage))

end Sys2Proof.Machine
end

