-- ==== Sys2Proof/Machine/Clock.lean ====
section
/-! DEFINITION. The Beat Clock: commits, downbeat decisions, ramps, starts, freezes, and the parts a fire hands it
(01, R1 to R25; R28, R47). -/

namespace Sys2Proof.Machine

open Sys2Proof

def State.setClock (f : BeatClock → BeatClock) (s : State) : State := { s with clock := f s.clock }

/-- What reaching a commit came to: the beat record if a beat was committed (R5), the held position if the clock froze
there (R23), and whether it reports the end of the count-in (R18). -/
structure Committed where
  beat : Option BeatRec
  held : Option HeldPosition
  countInEnd : Bool
deriving DecidableEq, Repr

/-- Nothing was committed. -/
def Committed.nothing : Committed := { beat := none, held := none, countInEnd := false }

/-- The clock counts in or runs (R28). -/
def ClockSt.beats : ClockSt → Bool
  | .countingIn | .running => true
  | .idle | .frozen => false

/-! ## Ramps -/

/-- The ramp of a record starts (R15). -/
def startRamp (r : TempoRecord) (s : State) : State :=
  match r.mode, r.ramp with
  | .conducted, _ => s
  | _, none => s
  | _, some ramp =>
    s.setClock fun c =>
      { c with ramp := some { start := markedPeriod r.bpm10, target := markedPeriod ramp.target,
                              beats := ramp.bars * r.meter, done := 0 } }

/-- The clock takes P_{i+1} at the commit of ramp beat `i`, or of the starting downbeat for i = 0 (R15, R16). -/
def takeRampPeriod (g : Governing) (r : RampRun) (i : Nat) (s : State) : State :=
  match g.record.mode with
  | .follow => followRampStep g.record.band (rampPeriod r i) (rampPeriod r (i + 1)) s
  | _ => s.setClock fun c => { c with period := some (rampPeriod r (i + 1)) }

/-- The ramp step of a SHOW commit; at ramp beat N the ramp ends and the record's marked period becomes P_t (R15). -/
def rampStep (atStart : Bool) (s : State) : State :=
  match s.clock.ramp, s.clock.gov with
  | some r, some g =>
    let i := if atStart then 0 else r.done + 1
    if i < r.beats then
      takeRampPeriod g r i (s.setClock fun c => { c with ramp := some { r with done := i } })
    else s.setClock fun c => { c with ramp := none, gov := some { g with marked := r.target } }
  | _, _ => s

/-- A hold or a stop ends a ramp, which is taken as completed (R16). -/
def endRamp (s : State) : State :=
  match s.clock.ramp, s.clock.gov with
  | some r, some g =>
    let s := s.setClock fun c => { c with ramp := none, gov := some { g with marked := r.target } }
    match g.record.mode with
    | .follow => followRampEnd g.record.band r.target s
    | _ => s.setClock fun c => { c with period := some r.target }
  | _, _ => s

/-! ## The downbeat -/

/-- An armed vamp is dropped where the committed bar lies above its last bar (R14, R21). -/
def dropAbove (bar : Nat) (v : Option Vamp) : Option Vamp := v.filter fun v => decide (bar ≤ v.last)

/-- The bar of the SHOW downbeat reached, and the vamp after it: the pending bar set; the bar of a start, where no vamp
decision is taken (R19, log 17); the vamp decision (R21); or the count (R6). -/
def decideBar (c : BeatClock) : Nat × Option Vamp :=
  match c.barSet, c.start with
  | some b, _ => (b, dropAbove b c.vamp)
  | none, some st => (st.bar, dropAbove st.bar c.vamp)
  | none, none =>
    let b := nextBar (c.lastShowBar.getD 0)
    match c.vamp with
    | none => (b, none)
    | some v =>
      if c.lastShowBar = some v.last then
        if v.release then (nextBar v.last, none)
        else (v.first, some { v with loops := satInc Config.maxCount8 v.loops })
      else (b, dropAbove b (some v))

/-- The pass of a beat: the loop count of the armed vamp, or 0 (R1). -/
def passOf (v : Option Vamp) : Nat := (v.map (·.loops)).getD 0

/-- A pending record takes effect at its downbeat (R11). -/
def takeRecord (r : TempoRecord) (s : State) : State :=
  let g : Governing := { record := r, marked := recordPeriod r }
  let s := s.setClock fun c =>
    { c with gov := some g, pendingRec := none, ramp := none
             period := if r.mode = .conducted then none else some g.marked }
  startRamp r (tellRecord false g s)

/-- The clock goes IDLE with no governing record (R12, R19). -/
def clockIdle (s : State) : State :=
  tellNone (s.setClock fun c =>
    { c with st := .idle, gov := none, ramp := none, next := none, period := none, start := none })

/-- The clock freezes, from COUNTING_IN or RUNNING: what a hold and a stop have in common (R23, R25). -/
def clockFreezes (s : State) : State :=
  followerFreeze ((endRamp s).setClock fun c =>
    { c with st := .frozen, next := none, holdArmed := false, start := none })

/-- The armed hold reaches its downbeat (R23). -/
def freezeAtDownbeat (s : State) : State × Committed :=
  let d := decideBar s.clock
  let s := clockFreezes (s.setClock fun c => { c with barSet := none, vamp := d.2 })
  (s, { Committed.nothing with held := some { bar := d.1, pass := passOf d.2 } })

/-- A pending TACET record at its downbeat (R12). -/
def tacetStop (s : State) : State × Committed :=
  let counting := s.clock.st == .countingIn
  (clockIdle (s.setClock fun c => { c with pendingRec := none }), { Committed.nothing with countInEnd := counting })

/-! ## Committing a beat -/

/-- The time of the next beat after one at `t` (R6). -/
def nextTime (g : Governing) (period : Option Nat) (t : Nat) : Option Nat :=
  match g.record.mode with
  | .conducted => none
  | _ => some (t + period.getD 0)

/-- The designation of the beat after this one (R6, R18). -/
def nextKind (meter : Nat) (start : Option StartRun) (phase : Phase) (bar beat : Nat) : BeatKind :=
  match phase with
  | .countIn n => if n < (start.map (·.beats)).getD 0 then .countIn (n + 1) else .down
  | .inShow => if beat < meter then .beat bar (beat + 1) else .down

/-- The period field of the position at a commit at `t` (R1, R13). -/
def periodField (g : Governing) (c : BeatClock) (t : Nat) : Option Nat :=
  match g.record.mode with
  | .conducted => c.spacing.map fun p => min Config.maxPeriod (t - p)
  | _ => c.period

/-- The beat record of R5. -/
def beatRecord (g : Governing) (c : BeatClock) (now t bar beat : Nat) (phase : Phase) : BeatRec :=
  { time := t, commitTime := now, bar := bar, beat := beat, pass := passOf c.vamp, phase := phase,
    meter := g.record.meter, period := periodField g c t, mode := g.record.mode, down := beat == 1 }

/-- The five parts of R4 on the clock: position, spacing reference, last show bar, the end of a count-in, next beat. -/
def writeBeat (g : Governing) (r : BeatRec) (s : State) : State :=
  s.setClock fun c =>
    { c with
      position := { cue := c.position.cue, bar := some r.bar, beat := some r.beat, pass := r.pass, phase := r.phase,
                    time := some r.time, period := r.period, clamped := s.follower.clamped,
                    coasting := s.follower.coasting }
      spacing := some r.time
      lastShowBar := if r.phase = .inShow then some r.bar else c.lastShowBar
      st := if r.phase = .inShow then .running else c.st
      start := if r.phase = .inShow then none else c.start
      next := some { time := nextTime g c.period r.time
                     kind := nextKind g.record.meter c.start r.phase r.bar r.beat } }

/-- A beat at `t` is committed and handed to the follower, the Click Generator and the Video Overlay Unit; the Cue
Sequencer takes the record from the result (R4, R5). -/
def commitAs (t bar beat : Nat) (phase : Phase) (s : State) : State × Committed :=
  match s.clock.gov with
  | none => (s, .nothing)
  | some g =>
    let r := beatRecord g s.clock s.now t bar beat phase
    let ended := s.clock.st == .countingIn && phase == .inShow
    (videoCommit r (clickCommit r (windowAccount t (writeBeat g r s))),
      { beat := some r, held := none, countInEnd := ended })

/-- The SHOW downbeat at `t` is committed: pending record, then bar set or vamp decision, then ramp step (R6). -/
def commitDown (t : Nat) (s : State) : State × Committed :=
  let fresh := s.clock.pendingRec.isSome
  let ramping := (s.clock.start.map (·.ramp)).getD false
  let s := match s.clock.pendingRec, s.clock.gov with
    | some r, _ => takeRecord r s
    | none, some g => if ramping then startRamp g.record s else s
    | none, none => s
  let d := decideBar s.clock
  let s := s.setClock fun c => { c with barSet := none, vamp := d.2 }
  commitAs t d.1 1 .inShow (rampStep (fresh || ramping) s)

/-- The clock reaches a SHOW downbeat at `t`: an armed hold freezes it (R23), a pending TACET record stops it (R12), and
otherwise it is committed. -/
def reachDown (t : Nat) (s : State) : State × Committed :=
  if s.clock.holdArmed then freezeAtDownbeat s
  else if (s.clock.pendingRec.map (·.mode)) = some .tacet then tacetStop s
  else commitDown t s

/-- The place of a count-in beat within its count-in bar (R18). -/
def countInPlace (n meter : Nat) : Nat := (n - 1) % meter + 1

/-- The clock reaches the commit of beat u, at time `t` (R4, R13). -/
def reachBeat (t : Nat) (s : State) : State × Committed :=
  match s.clock.next with
  | none => (s, .nothing)
  | some n =>
    match n.kind with
    | .down => reachDown t s
    | .beat bar beat => commitAs t bar beat .inShow (rampStep false s)
    | .countIn k =>
      commitAs t ((s.clock.start.map (·.bar)).getD 1) (countInPlace k ((s.clock.gov.map (·.record.meter)).getD 1))
        (.countIn k) s

/-- The show time T_u − C at which the scheduled beat u is due for commit (R4). -/
def commitDue (s : State) : Option Nat :=
  if s.clock.st.beats then (s.clock.next.bind (·.time)).map (· - s.clock.lead) else none

/-- Beat u is committed at its scheduled time (R4). -/
def commitScheduled (s : State) : State × Committed :=
  match s.clock.next.bind (·.time) with
  | some t => reachBeat t s
  | none => (s, .nothing)

/-- Where T_u − C is not later than the present, the commit takes place at this moment (R4). -/
def commitIfDue (s : State) : State × Committed :=
  match commitDue s with
  | some d => if d ≤ s.now then commitScheduled s else (s, .nothing)
  | none => (s, .nothing)

/-! ## Starts -/

/-- The clock starts at a bar, after `bars` bars of count-in, with a record newly taken or, where `fresh` is false, going
on under the governing record with P as it stood (R17, R19). -/
def startClock (bar bars : Nat) (g : Governing) (fresh : Bool) (s : State) : State :=
  let conducted := g.record.mode = .conducted
  let first := max (s.now + s.clock.lead) ((s.clock.spacing.map (· + Config.minSpacing)).getD 0)
  tellRecord true g (s.setClock fun c =>
    { c with
      gov := some g
      period := if conducted then none else if fresh then some g.marked else c.period
      ramp := none
      st := if bars = 0 then .running else .countingIn
      next := some { time := if conducted then none else some first
                     kind := if bars = 0 then .down else .countIn 1 }
      start := some { bar := bar, beats := bars * g.record.meter, ramp := fresh && g.record.ramp.isSome } })

/-- A record newly taken at a start (R13, R17). -/
def freshGoverning (r : TempoRecord) : Governing := { record := r, marked := recordPeriod r }

/-- The starting bar of a fire's start (R17). -/
def startingBar (c : BeatClock) : Nat :=
  match c.barSet, c.lastShowBar with
  | some b, _ => b
  | none, some b => nextBar b
  | none, none => 1

/-- A start order without a usable record: the end of the count-in is reported at once (R18, R19). -/
def noUsable (s : State) : State × Committed := (clockIdle s, { Committed.nothing with countInEnd := true })

/-- The resume start (R19). -/
def resumeStart (bar bars : Nat) (s : State) : State × Committed :=
  let r := s.clock.rebuildRec
  let s := s.setClock fun c => { c with rebuildRec := none }
  match r with
  | some r => if r.mode = .tacet then noUsable s else commitIfDue (startClock bar bars (freshGoverning r) true s)
  | none => noUsable s

/-- The hold start (R19). -/
def holdStart (bar bars : Nat) (s : State) : State × Committed :=
  match s.clock.pendingRec, s.clock.gov with
  | some r, _ =>
    let s := s.setClock fun c => { c with pendingRec := none }
    if r.mode = .tacet then noUsable s else commitIfDue (startClock bar bars (freshGoverning r) true s)
  | none, some g => commitIfDue (startClock bar bars g false s)
  | none, none => noUsable s

/-! ## The parts of a fire -/

/-- The bar set of a fire (R14). -/
def clockBarSet (b : Option Nat) (s : State) : State :=
  match b with
  | some b => s.setClock fun c => { c with barSet := some b }
  | none => s

/-- The tempo record of a fire: it starts an IDLE clock, where a TACET record is discarded, and is pending in any other
state (R11, R17, R19). The second part tells whether the clock has been started. -/
def clockTempo (r : Option TempoRecord) (s : State) : State × Bool :=
  match r with
  | none => (s, false)
  | some r =>
    if s.clock.st = .idle then
      if r.mode = .tacet then (s, false)
      else
        (startClock (startingBar s.clock) r.countIn (freshGoverning r) true
          (s.setClock fun c => { c with barSet := none }), true)
    else (s.setClock fun c => { c with pendingRec := some r }, false)

/-- The bar a newly armed vamp is tested against (R20). -/
def vampTestBar (started : Bool) (c : BeatClock) : Option Nat :=
  if started then c.start.map (·.bar) else c.position.bar

/-- The vamp of a fire, or the release of the armed one by a fire that hands none (R20, R22). -/
def clockVamp (v : Option VampBars) (started : Bool) (s : State) : State :=
  s.setClock fun c =>
    { c with vamp := match v with
        | some v =>
          let armed : Vamp := { first := v.first, last := v.last, loops := 0, release := false }
          match vampTestBar started c with
          | some b => dropAbove b (some armed)
          | none => some armed
        | none => c.vamp.map fun v => { v with release := true } }

/-- The parts one fire hands the clock, the cue number among them; a start's first beat commits last (R1, R17). -/
def clockFire (cue : CueNo) (barSet : Option Nat) (tempo : Option TempoRecord) (vamp : Option VampBars) (s : State) :
    State × Committed :=
  let s := s.setClock fun c => { c with position := { c.position with cue := some cue } }
  let r := clockTempo tempo (clockBarSet barSet s)
  let s := clockVamp vamp r.2 r.1
  if r.2 then commitIfDue s else (s, .nothing)

/-! ## Orders of the Stop Controller -/

/-- The rebuild order (R19). -/
def clockRebuild (cue : CueNo) (r : Option TempoRecord) (s : State) : State :=
  s.setClock fun c =>
    { c with position := { c.position with cue := some cue }
             rebuildRec := r, pendingRec := none, barSet := none, vamp := none, ramp := none }

/-- The hold order in RUNNING (R23). -/
def armHold (s : State) : State := s.setClock fun c => { c with holdArmed := true }

/-- The hold order in COUNTING_IN: the clock freezes at once and gives the held position (R23, log 19). -/
def freezeCountIn (s : State) : State × HeldPosition :=
  (clockFreezes s, { bar := (s.clock.start.map (·.bar)).getD 1, pass := passOf s.clock.vamp })

/-- The cancel order (R24). -/
def cancelHold (s : State) : State := s.setClock fun c => { c with holdArmed := false }

/-- The stop order (R25). -/
def clockStop (s : State) : State :=
  let s := if s.clock.st.beats then clockFreezes s else s
  s.setClock fun c => { c with holdArmed := false, vamp := c.vamp.map fun v => { v with release := false } }

/-- RESTART SHOW in the clock and the follower (R2, R29). -/
def clockRestart (s : State) : State :=
  { s with
    clock := { BeatClock.initial with spacing := s.clock.spacing, lead := s.clock.lead }
    follower := { Follower.initial with settings := s.follower.settings } }

/-! ## Pulses -/

/-- A pulse at the present (R28, R46, R47). -/
def takePulse (s : State) : State × Committed :=
  if s.clock.st.beats then
    match s.clock.gov with
    | none => (s, .nothing)
    | some g =>
      match g.record.mode with
      | .follow => commitIfDue (followPulse s.now s)
      | .fixed => (measurePulse s.now s, .nothing)
      | .conducted => if tooClose s.now s then (rejectClose s, .nothing) else reachBeat s.now (acceptConducted s)
      | .tacet => (s, .nothing)
  else (s, .nothing)

end Sys2Proof.Machine
end

