-- ==== Sys2Proof/Machine/Framer.lean ====
section
/-! DEFINITION. What the receive framers of the Show Link and of the Station Links have in common: bytes taken one by one
since a start byte, and the bytes of a failed frame examined again (R175, R176, R188). -/

namespace Sys2Proof.Machine

open Sys2Proof

/-- What one byte does to a framer: it goes on, hunting (none) or with the bytes since its start byte; or it comes to an
event, with the bytes to examine again before any other. -/
inductive Framed (ε : Type)
  | goes (got : Option (List Byte))
  | comes (e : ε) (again : List Byte)

/-- A framer takes bytes in their order, in at most so many steps: the framer after them, and what it came to. -/
def feed {ε : Type} (take : Option (List Byte) → Byte → Framed ε) :
    Nat → Option (List Byte) → List Byte → Option (List Byte) × List ε
  | 0, got, _ => (got, [])
  | _ + 1, got, [] => (got, [])
  | fuel + 1, got, b :: bs =>
    match take got b with
    | .goes g => feed take fuel g bs
    | .comes e again =>
      let r := feed take fuel none (again ++ bs)
      (r.1, e :: r.2)

/-- Enough steps for `n` bytes, those since the start byte among them: each failed frame drops its start byte. -/
def feedFuel (n : Nat) : Nat := (n + 2) * (n + 2)

end Sys2Proof.Machine
end

