-- ==== Sys2Proof/Machine/RigWire.lean ====
section
/-! DEFINITION. The bytes of the Station Links: the frames the part sends and receives, and the part's receiver
(R113, R188). -/

namespace Sys2Proof.Machine

open Sys2Proof

/-- The sum of some bytes modulo 256. -/
def byteSum (bs : List Byte) : Byte := bs.foldl (· + ·) 0

/-- A station frame: 0xA5, type, body, and the check byte that makes the sum of the last three a multiple of 256. -/
def rigFrame (type : Byte) (body : List Byte) : List Byte := 0xA5 :: type :: body ++ [-byteSum (type :: body)]

/-- The bytes of a frame that the part sends. DESIGN CHOICE: the bank of a LOAD goes most significant byte first, as a number
of a payload does by R187, since R188 gives its two bytes no order (log 32). -/
def TxFrame.bytes : TxFrame → List Byte
  | .load slot bank program => rigFrame 0x01 (natBytes 1 slot ++ natBytes 2 bank ++ natBytes 1 program)
  | .select slot => rigFrame 0x02 (natBytes 1 slot)
  | .silence => rigFrame 0x03 []
  | .query => rigFrame 0x04 []

/-- The bytes that are going out on a station's link: those of the frame being sent, back to back. -/
def Station.lineBytes (st : Station) : List Byte := (st.sending.map fun f => f.1.bytes).getD []

/-- A frame that the rig sends. -/
inductive RigFrame
  | hello (slots : Nat)
  | loaded (slot : Nat)
  | loadFailed (slot : Nat)
  | selected (slot : Nat)
deriving DecidableEq, Repr

/-- The bytes of a frame that the rig sends. -/
def RigFrame.bytes : RigFrame → List Byte
  | .hello n => rigFrame 0x81 (natBytes 1 n)
  | .loaded k => rigFrame 0x82 (natBytes 1 k)
  | .loadFailed k => rigFrame 0x83 (natBytes 1 k)
  | .selected k => rigFrame 0x84 (natBytes 1 k)

/-- The frame of a type byte and its body; none for a type that the rig does not send. -/
def readRigFrame (type : Byte) (body : Nat) : Option RigFrame :=
  if type = 0x81 then some (.hello body)
  else if type = 0x82 then some (.loaded body)
  else if type = 0x83 then some (.loadFailed body)
  else if type = 0x84 then some (.selected body)
  else none

/-- What the receiver of a station comes to: a frame, or a frame that fails its check. -/
inductive RigEvent
  | complete (f : RigFrame)
  | failed
deriving DecidableEq, Repr

/-- The bytes taken since the start byte: a type the rig does not send fails at once, any other frame at its check byte
where the sum is wrong; the bytes after the failed start byte are examined again. -/
def rigStep : List Byte → Framed RigEvent
  | [type, body, check] =>
    match readRigFrame type body.toNat with
    | some f => if byteSum [type, body, check] = 0 then .comes (.complete f) [] else .comes .failed [type, body, check]
    | none => .comes .failed [type, body, check]
  | [type] => if (readRigFrame type 0).isSome then .goes (some [type]) else .comes .failed [type]
  | g => .goes (some g)

/-- What one byte does to the receiver: hunting, it takes only the start byte. -/
def rigTake (got : Option (List Byte)) (b : Byte) : Framed RigEvent :=
  match got with
  | none => .goes (if b = 0xA5 then some [] else none)
  | some g => rigStep (g ++ [b])

/-- The receiver takes bytes in their order. -/
def rigFeed (got : Option (List Byte)) (bs : List Byte) : Option (List Byte) × List RigEvent :=
  feed rigTake (feedFuel ((got.map List.length).getD 0 + bs.length)) got bs

/-- A gap, in at most so many steps: the frame in reception fails and the bytes after its start byte are examined again; a
frame found among them has the same gap after its last byte, and fails with it. -/
def rigGapIn : Nat → Option (List Byte) → List RigEvent
  | 0, _ => []
  | _ + 1, none => []
  | fuel + 1, some g =>
    let r := rigFeed none g
    .failed :: r.2 ++ rigGapIn fuel r.1

/-- More than 52 bit times have passed since the last byte: what that comes to. The receiver is hunting afterwards. -/
def rigGap (got : Option (List Byte)) : List RigEvent := rigGapIn ((got.map List.length).getD 0 + 1) got

/-- Whether more than `n` bit times of a Station Link lie between two show times (R188). -/
def moreThanBits (n since now : Nat) : Bool := decide (n * 1000000 < (now - since) * Config.stationBaud)

/-- Whether the gap of a frame in reception passes before the first of `n` bytes that come back to back, the last of them at
show time `now` (R188). DESIGN CHOICE: the 52 bit times run from the end of one byte to the end of the next, as R177 measures
the gap of the Show Link (log 32). -/
def Reception.gapPassed (r : Reception) (n now : Nat) : Bool := moreThanBits (52 + 10 * (n - 1)) r.last now

/-- The show time at which the gap after the last byte received has passed: the first whole µs more than 52 bit times behind
it (R188, log 13). -/
def Reception.gapDue (r : Reception) : Nat := r.last + 52 * 1000000 / Config.stationBaud + 1

/-- The row of the table in which a frame of station `i`'s rig arrives at show time `t` (log 32). -/
def RigFrame.command (t : Nat) (i : Fin 6) : RigFrame → Instr
  | .hello n => .hello t i n
  | .loaded k => .loaded t i k
  | .loadFailed k => .loadFailed t i k
  | .selected k => .selected t i k

end Sys2Proof.Machine
end

