-- ==== Sys2Proof/Machine/Stations.lean ====
section
/-! DEFINITION. The Station Controller: faults, pins, victims, preloads, switches, frames and orders
(06, R109 to R136, R188). -/

namespace Sys2Proof.Machine

open Sys2Proof

/-! ## Faults and ends of switches -/

/-- A fault goes into a fault record (R136). -/
def FaultRecord.take (f : StationFault) (r : FaultRecord) : FaultRecord :=
  match r.first with
  | none => { first := some f, count := 0 }
  | some _ => { r with count := satInc Config.maxCount8 r.count }

/-- A station fault (R136). -/
def stationFault (i : Fin 6) (kind : FaultKind) (cue : Option CueNo) (patch : Option Nat) (s : State) : State :=
  raise (.stationFault i kind)
    (s.setStation i fun st =>
      { st with faults := st.faults.take { kind := kind, cue := cue, patch := patch, time := s.now } })

/-- A protocol error (R113). -/
def protocolError (i : Fin 6) (s : State) : State :=
  s.setStation i fun st => { st with protoErrors := satInc Config.maxCount16 st.protoErrors }

/-- A rebuild switch that ends DONE or MISSED is reported (R125). -/
def reportEnd (i : Fin 6) (rebuild : Bool) (outcome : SwitchEnd) (s : State) : State :=
  match rebuild, outcome with
  | true, .done => reportSwitch i true s
  | true, .missed => reportSwitch i false s
  | _, _ => s

/-- A switch that ends as it starts (R123). -/
def quickEnd (i : Fin 6) (l : LastSwitch) (rebuild : Bool) (s : State) : State :=
  reportEnd i rebuild l.outcome (s.setStation i fun st => { st with lastSwitch := some l })

/-- The switch in progress ends (R125). -/
def endSwitch (i : Fin 6) (outcome : SwitchEnd) (lateness : Option Nat) (s : State) : State :=
  match (s.station i).switch with
  | none => s
  | some w =>
    reportEnd i w.rebuild outcome (s.setStation i fun st =>
      { st with switch := none
                lastSwitch := some { cue := w.cue, patch := some w.patch, kind := w.kind, outcome := outcome,
                                     lateness := lateness } })

/-- The switch in progress ends MISSED with a fault (R126). -/
def missSwitch (i : Fin 6) (kind : FaultKind) (s : State) : State :=
  match (s.station i).switch with
  | none => s
  | some w => stationFault i kind w.cue (some w.patch) (endSwitch i .missed none s)

/-! ## Slots and pins -/

/-- Slot `k`, numbered from 1. -/
def Station.slot (st : Station) (k : Nat) : Slot := st.slots.getD (k - 1) Slot.blank

def Station.setSlot (st : Station) (k : Nat) (f : Slot → Slot) : Station :=
  { st with slots := st.slots.modify (k - 1) f }

/-- A slot carries a patch id: what its pins follow. A LOADING slot marked STALE carries its own until its answer
(R119, R120). -/
def Slot.carries (p : Nat) (sl : Slot) : Bool := sl.st != .empty && sl.patch == some p

/-- A slot holds a patch for the purposes of switches and preloads: a STALE slot is matched by none (R119). -/
def Slot.holds (p : Nat) (sl : Slot) : Bool := !sl.stale && sl.carries p

/-- The number of the first slot, from 1, that meets a test. -/
def Station.findSlot (st : Station) (f : Slot → Bool) : Option Nat := (st.slots.findIdx? f).map (· + 1)

/-- The slot is the selected slot or a candidate: the CURRENT pin (R120). -/
def Station.isCurrent (st : Station) (k : Nat) : Bool :=
  match st.selected with
  | .none => false
  | .slot j => j == k
  | .unknown c => c.contains k

/-- The slot is the target of a SELECT, held or outstanding (R120). -/
def Station.isSelectTarget (st : Station) (k : Nat) : Bool :=
  st.selectPlace == some k || (st.outSelect.map (·.slot)) == some k

/-- The slot carries the patch of a target. -/
def Slot.carriesTarget (sl : Slot) (t : Target) : Bool := (t.patch.map fun p => sl.carries p).getD false

/-- The STANDBY pin (R120). -/
def Station.isStandby (st : Station) (k : Nat) : Bool :=
  (st.standbyTarget.map (st.slot k).carriesTarget).getD false

/-- The AHEAD pin (R120). -/
def Station.isAhead (st : Station) (k : Nat) : Bool := st.ahead.any (st.slot k).carriesTarget

/-- The HOST pin (R120). -/
def Station.isHost (st : Station) (k : Nat) : Bool := st.hostPins.any fun p => (st.slot k).carries p

/-- The slot may be taken from the victim search (R121). -/
def Station.qualifies (preload : Bool) (st : Station) (k : Nat) : Bool :=
  (st.slot k).st != .loading && !st.isCurrent k && !st.isStandby k && !st.isHost k && !st.isSelectTarget k
    && !(preload && st.isAhead k)

/-- The slots in the order of the search: from the victim pointer upward, wrapping from n to 1 (R121). -/
def Station.searchOrder (st : Station) : List Nat :=
  (List.range st.slots.length).map fun j => (st.victim - 1 + j) % st.slots.length + 1

/-- The victim of a LOAD, with the victim pointer after the choice (R121). -/
def Station.chooseVictim (preload : Bool) (st : Station) : Option (Nat × Nat) :=
  match st.findSlot fun sl => sl.st == .empty with
  | some k => some (k, st.victim)
  | none => (st.searchOrder.find? (st.qualifies preload)).map fun k => (k, k % st.slots.length + 1)

/-! ## Preloads -/

/-- The preload candidates in their order, each with the cue it is for (R122). -/
def Station.candidates (st : Station) : List (Option CueNo × Option Nat) :=
  (st.standbyTarget.toList.map fun t => (some t.cue, t.patch)) ++ (st.ahead.map fun t => (some t.cue, t.patch))
    ++ (st.hostPins.map fun p => (none, some p))

/-- The preload: the first candidate that is not skipped (R122). -/
def preloadOf (map : List MapEntry) (i : Fin 6) (st : Station) : Option (Option CueNo × Nat) :=
  st.candidates.findSome? fun c =>
    match c.2 with
    | none => none
    | some p =>
      if (findMap map (i.val + 1) p).isNone || st.failed.contains p || st.slots.any (Slot.holds p)
          || st.loadPlace == some p then none
      else some (c.1, p)

/-- A deferral: it raises PRESSURE where the episode was closed, and opens it (R122). -/
def deferPreload (i : Fin 6) (c : Option CueNo × Nat) (s : State) : State :=
  if (s.station i).pressure then s.setStation i fun st => { st with preload := false }
  else stationFault i .pressure c.1 (some c.2)
    (s.setStation i fun st => { st with preload := false, pressure := true })

/-- The choice of the preload, once failed preloads are as the recompute wants them (R122). -/
def choosePreload (i : Fin 6) (s : State) : State :=
  let st := s.station i
  match preloadOf s.map i st with
  | none => s.setStation i fun st => { st with preload := false, pressure := false }
  | some c =>
    if st.outLoad.isSome || st.loadPlace.isSome then s.setStation i fun st => { st with preload := false }
    else match st.chooseVictim true with
      | some _ => s.setStation i fun st => { st with preload := true }
      | none => deferPreload i c s

/-- A preload recompute (R122). -/
def recompute (keepFailed : Bool) (i : Fin 6) (s : State) : State :=
  if (s.station i).serves then
    choosePreload i (if keepFailed then s else s.setStation i fun st => { st with failed := [] })
  else s

/-! ## Switches -/

/-- The switch in progress becomes a cold load in the LOAD place (R115, R119, log 23). -/
def becomeCold (i : Fin 6) (s : State) : State :=
  s.setStation i fun st =>
    { st with
      selectPlace := none
      loadPlace := st.switch.map (·.patch)
      preload := false
      switch := st.switch.map fun w => { w with kind := .cold, stage := .coldHeld } }

/-- The SELECT of a switch for slot `k`: it goes to the SELECT place, or waits for the outstanding SELECT of the same
slot (R123). -/
def Station.queueSelect (k : Nat) (w : Switch) (st : Station) : Station :=
  if (st.outSelect.map (·.slot)) = some k then { st with switch := some { w with stage := .selecting k } }
  else { st with selectPlace := some k, switch := some { w with stage := .selectHeld k } }

/-- The known selected slot holds the patch and no SELECT is outstanding: HOT (R123). -/
def Station.isHot (p : Nat) (st : Station) : Bool :=
  match st.selected with
  | .slot k => (st.slot k).holds p && st.outSelect.isNone
  | _ => false

/-- A switch that takes time starts WARM, WAIT or COLD (R123). -/
def beginSwitch (i : Fin 6) (cue : Option CueNo) (p : Nat) (fireTime : Option Nat) (rebuild : Bool) (s : State) :
    State :=
  let w : Switch := { patch := p, cue := cue, fireTime := fireTime, kind := .cold, stage := .coldHeld,
                      rebuild := rebuild }
  s.setStation i fun st =>
    match st.findSlot fun sl => sl.holds p && sl.st == .resident, st.findSlot fun sl => sl.holds p with
    | some k, _ => st.queueSelect k { w with kind := .warm }
    | none, some k => { st with switch := some { w with kind := .wait, stage := .loading k } }
    | none, none => { st with loadPlace := some p, preload := false, switch := some w }

/-- A switch target on a station with no switch in progress is classified (R123). -/
def classifySwitch (i : Fin 6) (cue : Option CueNo) (target : Option Nat) (fireTime : Option Nat) (rebuild : Bool)
    (s : State) : State :=
  match target with
  | none => quickEnd i { cue := cue, patch := none, kind := .none, outcome := .done, lateness := none } rebuild s
  | some p =>
    if (findMap s.map (i.val + 1) p).isNone then
      stationFault i .unmapped cue (some p)
        (quickEnd i { cue := cue, patch := some p, kind := .unmapped, outcome := .missed, lateness := none } rebuild s)
    else if (s.station i).isHot p then
      quickEnd i { cue := cue, patch := some p, kind := .hot, outcome := .done, lateness := fireTime.map fun _ => 0 }
        rebuild s
    else beginSwitch i cue p fireTime rebuild s

/-- The switch in progress ends SUPERSEDED, and its unsent SELECT and cold load leave their places (R124). -/
def supersede (i : Fin 6) (s : State) : State :=
  (endSwitch i .superseded none s).setStation i fun st => { st with selectPlace := none, loadPlace := none }

/-- The new switch takes over the stage of one to the same patch (R124). -/
def takeOver (i : Fin 6) (cue : Option CueNo) (fireTime : Option Nat) (rebuild : Bool) (w : Switch) (s : State) :
    State :=
  (endSwitch i .superseded none s).setStation i fun st =>
    { st with switch := some { w with cue := cue, fireTime := fireTime, rebuild := rebuild } }

/-- A switch target reaches a station; one that does not serve ignores it (R123, R124). -/
def startSwitch (i : Fin 6) (cue : Option CueNo) (target : Option Nat) (fireTime : Option Nat) (rebuild : Bool)
    (s : State) : State :=
  if (s.station i).serves then
    match (s.station i).switch with
    | none => classifySwitch i cue target fireTime rebuild s
    | some w =>
      if target = some w.patch then takeOver i cue fireTime rebuild w s
      else classifySwitch i cue target fireTime rebuild (supersede i s)
  else s

/-- The late threshold of a station, in µs (R125). -/
def lateThreshold (i : Fin 6) (s : State) : Nat :=
  ((s.station i).lateOverride.getD s.seq.settings.lateThreshold) * 1000

/-- The switch in progress is confirmed (R125). -/
def confirmSwitch (i : Fin 6) (w : Switch) (s : State) : State :=
  let lateness := w.fireTime.map (s.now - ·)
  let late := decide (lateThreshold i s < lateness.getD 0)
  let s := endSwitch i .done lateness s
  if late then stationFault i .late w.cue (some w.patch) s else s

/-! ## Answers of the rig -/

/-- LOADED for the outstanding LOAD (R115). -/
def takeLoaded (i : Fin 6) (o : OutLoad) (s : State) : State :=
  let st := s.station i
  let sl := st.slot o.slot
  let waits := (st.switch.map (·.stage)) == some (.loading o.slot)
  let s := s.setStation i fun st =>
    { (st.setSlot o.slot fun sl =>
        if sl.flush then Slot.blank
        else if sl.stale then { st := .resident, patch := none, stale := true, flush := false }
        else { sl with st := .resident }) with outLoad := none }
  let s := if waits then
      if sl.stale || sl.flush then becomeCold i s
      else s.setStation i fun st => match st.switch with
        | some w => st.queueSelect o.slot w
        | none => st
    else s
  recompute true i s

/-- The outstanding LOAD fails, by LOAD_FAILED or by its timeout (R115). DESIGN CHOICE: the failed preloads stand in the order
in which they failed, as STATION GET lists them (R135, log 10). -/
def failLoad (i : Fin 6) (kind : FaultKind) (o : OutLoad) (s : State) : State :=
  let waiting := (s.station i).switch.filter fun w => w.stage == .loading o.slot
  let s := s.setStation i fun st =>
    { (st.setSlot o.slot fun _ => Slot.blank) with
      outLoad := none
      failed := if st.failed.contains o.patch then st.failed else st.failed ++ [o.patch] }
  let s := match waiting with
    | some w => stationFault i kind w.cue (some o.patch) (endSwitch i .missed none s)
    | none => stationFault i kind o.cue (some o.patch) s
  recompute true i s

/-- SELECTED for the outstanding SELECT (R116). -/
def takeSelected (i : Fin 6) (k : Nat) (s : State) : State :=
  let s := s.setStation i fun st => { st with selected := .slot k, outSelect := none }
  let s := match (s.station i).switch with
    | some w => if w.stage = .selecting k then confirmSwitch i w s else s
    | none => s
  recompute true i s

/-- The selection after a SELECT for slot `k` has timed out (R116). -/
def Selected.timedOut (k : Nat) : Selected → Selected
  | .none => .unknown [k]
  | .slot j => if j = k then .slot j else .unknown [j, k]
  | .unknown c => .unknown (if c.contains k then c else c ++ [k])

/-- The outstanding SELECT for slot `k` times out (R116). -/
def failSelect (i : Fin 6) (k : Nat) (s : State) : State :=
  let s := s.setStation i fun st => { st with selected := st.selected.timedOut k, outSelect := none }
  let s := match (s.station i).switch with
    | some w => if w.stage = .selecting k then missSwitch i .selectTimeout s else s
    | none => s
  recompute true i s

/-! ## Sending -/

/-- A frame goes out on a station's link. -/
def sendFrame (i : Fin 6) (f : TxFrame) (s : State) : State :=
  s.setStation i fun st => { st with sending := some (f, s.now) }

/-- A LOAD for patch `p` is sent into slot `k`; the victim pointer becomes `v` (R115, R121). -/
def sendLoad (i : Fin 6) (e : MapEntry) (cue : Option CueNo) (k v : Nat) (s : State) : State :=
  sendFrame i (.load k e.bank e.program) (s.setStation i fun st =>
    { (st.setSlot k fun _ => { st := .loading, patch := some e.patch, stale := false, flush := false }) with
      victim := v
      outLoad := some { slot := k, patch := e.patch, cue := cue, sent := s.now,
                        limit := (e.load + Config.loadMargin) * 1000, due := none } })

/-- A SELECT for slot `k` leaves the SELECT place (R114, R116). -/
def sendSelect (i : Fin 6) (k : Nat) (s : State) : State :=
  sendFrame i (.select k) (s.setStation i fun st =>
    { st with
      selectPlace := none
      outSelect := some { slot := k, sent := s.now, due := none }
      switch := st.switch.map fun w => if w.stage = .selectHeld k then { w with stage := .selecting k } else w })

/-- The cold load of the LOAD place is to be sent (R114, R121, R126). -/
def sendCold (i : Fin 6) (p : Nat) (s : State) : State :=
  let st := s.station i
  match findMap s.map (i.val + 1) p, st.chooseVictim false with
  | some e, some (k, v) =>
    (sendLoad i e (st.switch.bind (·.cue)) k v (s.setStation i fun st => { st with loadPlace := none })).setStation i
      fun st => { st with switch := st.switch.map fun w => { w with stage := .loading k } }
  | _, _ => missSwitch i .pressure (s.setStation i fun st => { st with loadPlace := none })

/-- The preload, chosen at this moment (R114, R122). -/
def sendPreload (i : Fin 6) (s : State) : State :=
  let st := s.station i
  match preloadOf s.map i st with
  | none => s.setStation i fun st => { st with preload := false, pressure := false }
  | some c =>
    match findMap s.map (i.val + 1) c.2, st.chooseVictim true with
    | some e, some (k, v) =>
      sendLoad i e c.1 k v (s.setStation i fun st => { st with preload := false, pressure := false })
    | _, _ => deferPreload i c s

/-- The link of a station is free and sends from the first place that has a frame ready (R114). -/
def sendNext (i : Fin 6) (s : State) : State :=
  let st := s.station i
  if st.excluded || st.sending.isSome then s
  else if st.silence then sendFrame i .silence (s.setStation i fun st => { st with silence := false })
  else
    match st.selectPlace.filter fun _ => st.outSelect.isNone, st.loadPlace.filter fun _ => st.outLoad.isNone with
    | some k, _ => sendSelect i k s
    | none, some p => sendCold i p s
    | none, none =>
      if st.preload && st.outLoad.isNone then sendPreload i s
      else if st.link == .greeting && st.queryDue then
        sendFrame i .query (s.setStation i fun st => { st with queryDue := false })
      else s

/-- The show time at which the frame being sent ends (R188). -/
def frameEndDue (i : Fin 6) (s : State) : Option Nat :=
  (s.station i).sending.map fun f => f.2 + bitTimes (10 * f.1.bytes.length) Config.stationBaud

/-- The frame has ended: the timeouts and the QUERY repeat run from here (R111, R114, R116). -/
def frameEnds (i : Fin 6) (s : State) : State :=
  s.setStation i fun st =>
    let st' := { st with sending := none }
    match st.sending with
    | some (.load _ _ _, _) => { st' with outLoad := st.outLoad.map fun o => { o with due := some (s.now + o.limit) } }
    | some (.select _, _) =>
      { st' with outSelect := st.outSelect.map fun o => { o with due := some (s.now + Config.selectTimeout) } }
    | some (.query, _) =>
      { st' with queryAt := if st.link = .greeting then some (s.now + Config.queryRepeat) else none }
    | _ => st'

/-- The instant of the next QUERY of a station in GREETING that is not excluded (R111). -/
def queryRepeatDue (i : Fin 6) (s : State) : Option Nat :=
  let st := s.station i
  if st.link = .greeting ∧ st.excluded = false then st.queryAt else none

/-- The repeat of QUERY comes due (R111). -/
def queryComesDue (i : Fin 6) (s : State) : State :=
  s.setStation i fun st => { st with queryDue := true, queryAt := none }

/-! ## Link states -/

/-- Every slot EMPTY, and nothing outstanding or held but the SILENCE flag: what the losses of an adapter have in common. -/
def Station.emptied (st : Station) : Station :=
  { st with slots := st.slots.map fun _ => Slot.blank, selected := .none, selectPlace := none, loadPlace := none,
            outLoad := none, outSelect := none, preload := false, queryDue := false, queryAt := none }

/-- Entering GREETING: QUERY is due at once, unless the station is excluded (R111). -/
def Station.greet (st : Station) : Station :=
  { st with link := .greeting, queryDue := !st.excluded, queryAt := none }

/-- The station goes OFFLINE; the Stop Controller is told afterwards (R110). -/
def stationOffline (i : Fin 6) (s : State) : State :=
  let st := s.station i
  let s := s.setStation i fun st =>
    { st.emptied with present := false, link := .offline, silence := false, pressure := false }
  let s := endSwitch i .missed none s
  if st.excluded then s else stationFault i .offline (st.switch.bind (·.cue)) (st.switch.map (·.patch)) s

/-- The slot table of a HELLO with `n` slots (R111). -/
def Station.sized (n : Nat) (st : Station) : Station :=
  { st.emptied with slots := List.replicate n Slot.blank, victim := 1, link := .online }

/-- A HELLO with 2–8 slots, up to the word to the Stop Controller (R111). -/
def stationOnline (i : Fin 6) (n : Nat) (s : State) : State :=
  missSwitch i .missed (s.setStation i (Station.sized n))

/-- A resync (R129). -/
def resync (i : Fin 6) (s : State) : State :=
  let target := s.seq.current.bind fun n => (trackedPatch s.store.cues n i).map (·.1)
  recompute false i (startSwitch i s.seq.current target none s.stop.st.rebuilds s)

/-- A station is set excluded; the Stop Controller is told afterwards (R112). -/
def excludeStation (i : Fin 6) (s : State) : State :=
  endSwitch i .dropped none (s.setStation i fun st =>
    { st with excluded := true, silence := false, selectPlace := none, loadPlace := none, preload := false,
              queryDue := false, queryAt := none })

/-- A station is set included again, the Stop Controller having been told: what its link state asks for (R112). -/
def includeStation (i : Fin 6) (s : State) : State :=
  match (s.station i).link with
  | .online => resync i s
  | .greeting => s.setStation i Station.greet
  | .offline => s

/-- STATION RESET (R133). -/
def resetStation (i : Fin 6) (s : State) : State :=
  endSwitch i .dropped none (s.setStation i fun st =>
    let st := { st.emptied with silence := false, victim := 1, pressure := false, failed := [] }
    if st.present then st.greet else { st with link := .offline })

/-! ## Map changes -/

/-- A slot at a map-changed notice for the patch `p` (R119). -/
def noticedSlot (st : Station) (p k : Nat) (sl : Slot) : Slot :=
  if sl.holds p then
    match sl.st with
    | .loading => { sl with stale := true }
    | _ =>
      if st.isCurrent k || (st.outSelect.map (·.slot)) == some k then { sl with stale := true, patch := none }
      else Slot.blank
  else sl

/-- The station takes a map-changed notice for its patch `p` (R119). -/
def stationMapChanged (i : Fin 6) (p : Nat) (deleted : Bool) (s : State) : State :=
  let s := s.setStation i fun st => { st with slots := st.slots.mapIdx fun j sl => noticedSlot st p (j + 1) sl }
  let s := match (s.station i).switch.filter fun w => w.patch == p with
    | none => s
    | some _ =>
      if deleted then
        missSwitch i .unmapped (s.setStation i fun st => { st with selectPlace := none, loadPlace := none })
      else becomeCold i s
  recompute false i s

/-! ## Orders -/

/-- The stop order on one station (R127). -/
def stationStop (i : Fin 6) (s : State) : State :=
  if (s.station i).serves then
    endSwitch i .dropped none (s.setStation i fun st =>
      { st with silence := true, selectPlace := none, loadPlace := none })
  else s

/-- RESTART SHOW on one station (R130). -/
def stationRestart (i : Fin 6) (s : State) : State :=
  endSwitch i .dropped none (s.setStation i fun st =>
    { st with silence := st.silence || st.serves, selectPlace := none, loadPlace := none, failed := [] })

/-- The look-ahead hand-over as one station takes it (R104, R120, R122). -/
def takeAhead (set : List CueNo) (latch : Option CueNo) (i : Fin 6) (s : State) : State :=
  let target (n : CueNo) : Target := { cue := n, patch := (trackedPatch s.store.cues n i).map (·.1) }
  recompute false i (s.setStation i fun st =>
    { st with ahead := set.map target, standbyTarget := latch.map target })

/-- The load of the show image has ended: a station whose PRESENT is asserted enters GREETING (R109). -/
def greetPresent (i : Fin 6) (s : State) : State :=
  s.setStation i fun st => if st.present then st.greet else st

/-! ## Flush -/

/-- STATION FLUSH empties this slot (R132). -/
def Station.flushes (st : Station) (k : Nat) : Bool :=
  (st.slot k).st == .resident && !st.isCurrent k && !st.isSelectTarget k

/-- STATION FLUSH: the slot table after it (R132). -/
def Station.flushed (st : Station) : Station :=
  { st with slots := st.slots.mapIdx fun j sl =>
      if st.flushes (j + 1) then Slot.blank
      else if sl.st == .loading then { sl with flush := true } else sl }

/-- How many slots a STATION FLUSH empties, and whether it marks one (R132). -/
def Station.flushCount (st : Station) : Nat × Bool :=
  (((List.range st.slots.length).filter fun j => st.flushes (j + 1)).length, st.slots.any fun sl => sl.st == .loading)

end Sys2Proof.Machine
end

