-- ==== Sys2Proof/Machine/Sequencer.lean ====
section
/-! DEFINITION. The Cue Sequencer: next cue, latch, look-ahead set, follow timer, fires, triggers, orders
(05, R91 to R106). -/

namespace Sys2Proof.Machine

open Sys2Proof

def State.setSeq (f : Sequencer → Sequencer) (s : State) : State := { s with seq := f s.seq }

/-- The cue after a current cue, the first cue where there is none (R91). -/
def afterCurrent (cues : List Cue) : Option CueNo → Option CueNo
  | none => cues.head?.map (·.number)
  | some n => successor cues n

/-- The next cue (R91). -/
def nextCue (s : State) : Option CueNo :=
  match s.seq.pointer with
  | some m => some m
  | none => afterCurrent s.store.cues s.seq.current

/-- The look-ahead set (R104). -/
def lookAhead (s : State) : List CueNo :=
  match nextCue s with
  | none => []
  | some n => ((s.store.cues.filter fun c => cueLe n c.number).map (·.number)).take s.seq.settings.lookAhead

/-- The look-ahead set is worked out afresh and handed to the Station Controller with the standby targets (R104). -/
def handOver (s : State) : State :=
  let s := s.setSeq fun q => { q with ahead := lookAhead s }
  eachStation (takeAhead s.seq.ahead s.seq.latch) s

/-- The standby latch is cleared, and the Video Overlay Unit is told so (R94). -/
def clearLatch (s : State) : State := videoStandby none (s.setSeq fun q => { q with latch := none })

/-- The latch takes a cue (R93). -/
def setLatch (n : CueNo) (s : State) : State :=
  handOver (videoStandby (some n) (s.setSeq fun q => { q with latch := some n }))

/-- What a standby request comes to: the cue, or the reason it is refused (R93). -/
def standbyTest (s : State) : Except GoReason CueNo :=
  if s.stop.st = .stopped ∨ s.stop.st.rebuilds then .error .wrongState
  else match nextCue s with
    | none => .error .endOfList
    | some n => .ok n

/-- A latch that was set is cleared and its standby targets are withdrawn (R94). -/
def withdrawLatch (s : State) : State :=
  match s.seq.latch with
  | some _ => handOver (clearLatch s)
  | none => s

/-- An accepted JUMP (R92). -/
def takeJump (n : CueNo) (s : State) : State :=
  handOver (clearLatch (s.setSeq fun q => { q with pointer := some n, timer := .idle }))

/-! ## Fires -/

/-- The follow timer of a next cue, after a fire at `now` (R99). -/
def timerFor (cues : List Cue) (next : Option CueNo) (now : Nat) : FollowTimer :=
  match next.bind (findCue cues) with
  | some c => match c.trigger with
    | .follow delay => .running c.number (now + delay * 1000)
    | _ => .idle
  | none => .idle

/-- The switch target of a fire for one station (R101). -/
def fireTarget (tracked : Bool) (c : Cue) (i : Fin 6) (s : State) : State :=
  if tracked then
    startSwitch i (some c.number) ((trackedPatch s.store.cues c.number i).map (·.1)) (some s.now) false s
  else match cuePatch i c with
    | some p => startSwitch i (some c.number) (some p) (some s.now) false s
    | none => s

/-- The tracked caption, empty where no cue has one (R80). -/
def captionAt (cues : List Cue) (n : CueNo) : List Byte := ((trackedCaption cues n).map (·.1)).getD []

/-- The parts of a fire for the Click Generator, the Video Overlay Unit and the Station Controller (R101, R102). -/
def fireRigs (tracked : Bool) (c : Cue) (s : State) : State :=
  let s := if tracked then clickTracked c.number s else clickFire c s
  let s := videoFire c.number (if tracked then some (captionAt s.store.cues c.number) else c.caption) s
  eachStation (fireTarget tracked c) s

/-- The tempo record a fire hands the clock (R101, R102). -/
def fireTempo (tracked : Bool) (cues : List Cue) (c : Cue) : Option TempoRecord :=
  if tracked then (trackedTempo cues c.number).map (·.1) else c.tempo

/-- The fire is tracked: the cue is not the one after the current cue (R101). -/
def firesTracked (c : Cue) (s : State) : Bool := afterCurrent s.store.cues s.seq.current != some c.number

/-- A cue fires (R101): the Sequencer's five steps, the parts of the Beat Clock last (log 18). -/
def fireCue (c : Cue) (source : FireSource) (s : State) : State × Committed :=
  let tracked := firesTracked c s
  let s := clearLatch (s.setSeq fun q => { q with current := some c.number, pointer := none, timer := .idle })
  let s := fireRigs tracked c s
  let s := handOver (s.setSeq fun q => { q with timer := timerFor s.store.cues (nextCue s) s.now })
  let s := raise (.cueFired c.number source) (s.setSeq fun q =>
    { q with lastFire := some { cue := c.number, source := source, time := s.now, tracked := tracked } })
  clockFire c.number c.barSet (fireTempo tracked s.store.cues c) c.vamp s

/-- The AT_BAR test of a commit (R98): the cue it fires. -/
def atBarCue (r : BeatRec) (s : State) : Option Cue :=
  if r.phase = .inShow ∧ s.stop.st.fires then
    ((nextCue s).bind (findCue s.store.cues)).filter fun c => c.trigger == .atBar r.bar r.beat
  else none

/-- The Cue Sequencer takes the beat record of a commit. The clock is not IDLE at a SHOW commit, so what such a fire
hands it starts nothing (R11, R98). -/
def takeBeat (r : BeatRec) (s : State) : State :=
  match atBarCue r s with
  | some c => (fireCue c .atBar s).1
  | none => s

/-- A cue fires by its number; a start's first beat, if it commits at once, is tested for AT_BAR (R98). -/
def fire (n : CueNo) (source : FireSource) (s : State) : State :=
  match findCue s.store.cues n with
  | none => s
  | some c =>
    let r := fireCue c source s
    match r.2.beat with
    | some b => takeBeat b r.1
    | none => r.1

/-! ## List changes and orders -/

/-- What a list-changed notice is about (R77). -/
inductive ListChange
  | inserted
  | replaced (n : CueNo)
  | deleted
deriving DecidableEq, Repr

/-- The cue of a follow timer. -/
def FollowTimer.cue : FollowTimer → Option CueNo
  | .idle => none
  | .running n _ => some n
  | .deferred n => some n

/-- The timer's cue has been replaced by a record whose trigger is not FOLLOW (R100). -/
def timerSpoiled (cues : List Cue) (change : ListChange) (timer : FollowTimer) : Bool :=
  match change with
  | .replaced n =>
    timer.cue == some n && ((findCue cues n).map fun c => match c.trigger with
      | .follow _ => false
      | _ => true).getD true
  | _ => false

/-- The Sequencer takes a list-changed notice; `before` is the next cue before the edit (R105). -/
def sequencerListChanged (before : Option CueNo) (change : ListChange) (s : State) : State :=
  let s := s.setSeq fun q => { q with pointer := q.pointer.filter fun n => (findCue s.store.cues n).isSome }
  let next := nextCue s
  let s := if next = before then
      s.setSeq fun q => { q with timer := if timerSpoiled s.store.cues change q.timer then .idle else q.timer }
    else (clearLatch s).setSeq fun q => { q with timer := if q.timer.cue = next then q.timer else .idle }
  handOver s

/-- The stop order (R106). -/
def sequencerStop (s : State) : State := withdrawLatch (s.setSeq fun q => { q with timer := .idle })

/-- The rebuild order (R106). -/
def sequencerRebuild (n : CueNo) (s : State) : State :=
  handOver (clearLatch (s.setSeq fun q => { q with current := some n, pointer := none, timer := .idle }))

/-- The restart order (R90, R106). -/
def sequencerRestart (s : State) : State :=
  handOver (s.setSeq fun q => { Sequencer.initial with settings := q.settings })

/-- The show time at which the follow timer expires (R99). -/
def timerDue (s : State) : Option Nat :=
  match s.seq.timer with
  | .running _ expiry => some expiry
  | _ => none

/-- The follow timer expires (R99). -/
def timerExpires (s : State) : State :=
  match s.seq.timer with
  | .running n _ =>
    if s.stop.st.fires then fire n .follow (s.setSeq fun q => { q with timer := .idle })
    else match s.stop.st with
      | .held | .countIn _ => s.setSeq fun q => { q with timer := .deferred n }
      | _ => s
  | _ => s

end Sys2Proof.Machine
end

