-- ==== Sys2Proof/Machine/StopControl.lean ====
section
/-! DEFINITION. The Stop Controller: holds, stops, rebuilds and resumes; and what the reports of a commit and the
words of the stations bring about (08, R155 to R170). -/

namespace Sys2Proof.Machine

open Sys2Proof

def State.setStopCtl (f : StopController → StopController) (s : State) : State := { s with stop := f s.stop }

/-! ## Entering RUN, and the reports of the clock -/

/-- The stop state enters RUN, and a DEFERRED follow timer's cue fires (R99, R170). -/
def enterRun (s : State) : State :=
  let s := setStop .run s
  match s.seq.timer with
  | .deferred n => fire n .follow (s.setSeq fun q => { q with timer := .idle })
  | _ => s

/-- The freeze of a hold is reported: the held position is recorded, and the drain begins or is already over (R159). -/
def completeHold (p : HeldPosition) (s : State) : State :=
  let s := s.setStopCtl fun c => { c with held := some p }
  setStop (if drained s then .held else .holding .draining) s

/-- The end of a count-in is reported; in RUN it changes nothing (R169, R170). -/
def countInEnds (s : State) : State :=
  match s.stop.st with
  | .countIn _ => enterRun s
  | _ => s

/-- The reports of a commit: a freeze to the Stop Controller, the end of a count-in to it, and then the beat to the Cue
Sequencer, which tests it in RUN (R156). -/
def afterCommit (r : State × Committed) : State :=
  let s := match r.2.held with
    | some p => completeHold p r.1
    | none => r.1
  let s := if r.2.countInEnd then countInEnds s else s
  match r.2.beat with
  | some b => takeBeat b s
  | none => s

/-! ## Holding -/

/-- The hold order by the clock's state, in RUN and COUNT_IN (R23, R158). -/
def holdByClock (s : State) : State :=
  match s.clock.st with
  | .running => setStop (.holding .armed) (armHold s)
  | .countingIn =>
    let r := freezeCountIn s
    completeHold r.2 r.1
  | .idle | .frozen => setStop .held ((cancelClicks s).setStopCtl fun c => { c with held := none })

/-- A hold request (R158): the state after it, and whether it was taken. -/
def takeHold (s : State) : State × Bool :=
  match s.stop.st with
  | .run | .countIn _ => (holdByClock s, true)
  | .holding _ | .held => (s, true)
  | .stopped | .rebuilding | .ready => (s, false)

/-- GO in DRAINING or HELD starts the hold count-in (R161). DESIGN CHOICE: with a count-in of 0 the clock starts, with a first
beat that is due at once, before the stop state enters RUN and a DEFERRED timer's cue fires (R99, log 37). -/
def holdCountIn (s : State) : State :=
  let bars := s.seq.settings.holdCountIn
  let bar := (s.stop.held.map (·.bar)).getD 1
  if bars = 0 then
    let r := holdStart bar bars s
    afterCommit (enterRun r.1, r.2)
  else afterCommit (holdStart bar bars (setStop (.countIn .hold) s))

/-- GO in READY starts the resume count-in (R169). -/
def resumeCountIn (s : State) : State :=
  let bars := s.seq.settings.resumeCountIn
  let bar := (s.stop.resume.map (·.bar)).getD 1
  let s := s.setStopCtl fun c => { c with account := c.account.map fun _ => .notCounted }
  if bars = 0 then
    let r := resumeStart bar bars s
    afterCommit (enterRun r.1, r.2)
  else afterCommit (resumeStart bar bars (setStop (.countIn .resume) s))

/-! ## GO -/

/-- What a GO did (R96). -/
inductive GoDone
  | fired (n : CueNo)
  | holdCancelled
  | holdCountIn
  | resumeCountIn
deriving DecidableEq, Repr

/-- GO in RUN (R97). -/
def goInRun (source : FireSource) (s : State) : State × Except GoReason GoDone :=
  match nextCue s with
  | none => (s, .error .endOfList)
  | some n =>
    if s.seq.settings.standbyRequired && s.seq.latch.isNone then (s, .error .noStandby)
    else (fire n source s, .ok (.fired n))

/-- GO, by the stop state (R96, R160, R161, R169). -/
def takeGo (source : FireSource) (s : State) : State × Except GoReason GoDone :=
  match s.stop.st with
  | .run => goInRun source s
  | .holding .armed =>
    if s.clock.holdArmed then (enterRun (cancelHold s), .ok .holdCancelled) else (holdCountIn s, .ok .holdCountIn)
  | .holding .draining | .held => (holdCountIn s, .ok .holdCountIn)
  | .ready => if s.desk.stop then (s, .error .stopAsserted) else (resumeCountIn s, .ok .resumeCountIn)
  | .stopped | .rebuilding | .countIn _ => (s, .error .wrongState)

/-! ## Stopping -/

/-- The stop position read from the show position (R163). -/
def stopPositionOf (p : Position) : StopPosition :=
  match p.bar, p.phase with
  | none, ph => { cue := p.cue, bar := none, beat := none, pass := 0, phase := ph }
  | some b, .inShow => { cue := p.cue, bar := some b, beat := p.beat, pass := p.pass, phase := .inShow }
  | some b, .countIn n => { cue := p.cue, bar := some b, beat := some 1, pass := 0, phase := .countIn n }

/-- The default resume point (R163). -/
def defaultResume (p : Option StopPosition) : Option ResumePoint :=
  p.bind fun p => p.cue.map fun n => { cue := n, bar := p.bar.getD 1 }

/-- The empty stop position. -/
def StopPosition.empty : StopPosition :=
  { cue := none, bar := none, beat := none, pass := 0, phase := .inShow }

/-- The stop orders that R162 gives the blocks, and SHOW_STOP. DESIGN CHOICE: the stations take theirs before the Cue Sequencer
withdraws a set latch, so that the preload recompute of that hand-over finds the cold loads dropped (log 39). -/
def stopOrders (source : Source) (s : State) : State :=
  let s := videoStop (setStop .stopped s)
  let s := sequencerStop (eachStation stationStop (cancelClicks (clockStop s)))
  raise (.showStop source (s.stop.position.getD StopPosition.empty)) s

/-- A stop request (R162, R164). -/
def takeStop (source : Source) (s : State) : State :=
  match s.stop.st with
  | .run | .holding _ | .held | .countIn _ =>
    stopOrders source (s.setStopCtl fun c =>
      { c with held := none, source := some source, position := some (stopPositionOf s.clock.position),
               resume := none })
  | .stopped => sequencerStop (eachStation stationStop s)
  | .rebuilding | .ready =>
    stopOrders source (s.setStopCtl fun c =>
      { c with source := some source, resume := none, account := c.account.map fun _ => .notCounted })

/-! ## Rebuilding -/

/-- A station's first entry in the account of a fresh rebuild (R166). -/
def accountOf (w : StationWords) : Account := if w.online && !w.excluded then .waiting else .notCounted

/-- The rebuild order on one station (R128). -/
def stationRebuild (n : CueNo) (i : Fin 6) (s : State) : State :=
  startSwitch i (some n) ((trackedPatch s.store.cues n i).map (·.1)) none true s

/-- A fresh rebuild (R166). -/
def freshRebuild (s : State) : State :=
  match s.stop.resume with
  | none => s
  | some r =>
    let n := r.cue
    let s := setStop .rebuilding (s.setStopCtl fun c => { c with account := c.words.map accountOf })
    let s := clockRebuild n ((trackedTempo s.store.cues n).map (·.1)) s
    let s := videoFire n (some (captionAt s.store.cues n)) (clickTracked n s)
    evaluateReady (sequencerRebuild n (eachStation (stationRebuild n) s))

/-- An event of R168 is taken: a fresh rebuild in REBUILDING and READY. -/
def rebuildAgain (s : State) : State := if s.stop.st.rebuilds then freshRebuild s else s

/-- The bar of a resume point (R165). -/
def resumeBar (bar : Option Nat) (c : Cue) (s : State) : Nat :=
  match bar with
  | some b => b
  | none =>
    match (defaultResume s.stop.position).filter fun r => r.cue == c.number with
    | some r => r.bar
    | none =>
      match c.trigger, c.barSet with
      | .atBar b _, _ => b
      | _, some b => b
      | _, none => 1

/-- An accepted RESUME POINT (R165). -/
def takeResumePoint (bar : Option Nat) (c : Cue) (s : State) : State :=
  freshRebuild (s.setStopCtl fun k => { k with resume := some { cue := c.number, bar := resumeBar bar c s } })

/-! ## The words of the stations (R167) -/

/-- The station has gone ONLINE. -/
def wordOnline (i : Fin 6) (s : State) : State :=
  let s := setWords i (fun w => { w with online := true }) s
  if (s.words i).excluded then s else rebuildAgain s

/-- The station has gone OFFLINE. -/
def wordOffline (i : Fin 6) (s : State) : State :=
  setAccount i (fun _ => .notCounted) (setWords i (fun w => { w with online := false }) s)

/-- The station has been excluded. -/
def wordExcluded (i : Fin 6) (s : State) : State :=
  setAccount i (fun _ => .notCounted) (setWords i (fun w => { w with excluded := true }) s)

/-- The station has been included. -/
def wordIncluded (i : Fin 6) (s : State) : State :=
  let s := setWords i (fun w => { w with excluded := false }) s
  if (s.words i).online then setAccount i (fun _ => .waiting) s else s

/-- PRESENT is deasserted (R110). -/
def takeDeparture (i : Fin 6) (s : State) : State := wordOffline i (stationOffline i s)

/-- A HELLO (R111). -/
def takeHello (i : Fin 6) (n : Nat) (s : State) : State :=
  if (s.station i).link = .offline ∨ n < 2 ∨ 8 < n then protocolError i s
  else
    let s := wordOnline i (stationOnline i n s)
    let s := s.setStation i fun st => { st with pressure := false }
    if (s.station i).excluded then s else resync i s

/-- The excluded setting is changed (R112). -/
def changeExcluded (i : Fin 6) (excluded : Bool) (s : State) : State :=
  if (s.station i).excluded = excluded then s
  else if excluded then wordExcluded i (excludeStation i s)
  else includeStation i (wordIncluded i (s.setStation i fun st => { st with excluded := false }))

/-- A map-changed notice for a key: the station first, then the Stop Controller (R119, R168). -/
def mapChanged (i : Fin 6) (p : Nat) (deleted : Bool) (s : State) : State :=
  rebuildAgain (stationMapChanged i p deleted s)

/-- A list-changed notice (R77, R105, R168). DESIGN CHOICE: the Cue Sequencer takes it before the Stop Controller, which R77
lets act independently (log 34). -/
def listChanged (before : Option CueNo) (change : ListChange) (s : State) : State :=
  rebuildAgain (sequencerListChanged before change s)

/-- RESTART SHOW in the Stop Controller (R173). -/
def stopRestart (s : State) : State :=
  setStop .run (s.setStopCtl fun c => { StopController.initial with words := c.words })

end Sys2Proof.Machine
end

