-- ==== Sys2Proof/Machine/Replies.lean ====
section
/-! DEFINITION. What the replies carry: the items of each rule, in the order it lists them, each with the bytes that
R187 gives its range (log 10). -/

namespace Sys2Proof.Machine

open Sys2Proof

/-! ## Places in the lists of names (R187) -/

def modePlace : TempoMode → Nat
  | .fixed => 0 | .follow => 1 | .conducted => 2 | .tacet => 3

def ClockSt.place : ClockSt → Nat
  | .idle => 0 | .countingIn => 1 | .running => 2 | .frozen => 3

def FollowerSt.place : FollowerSt → Nat
  | .free => 0 | .seeking => 1 | .locked => 2 | .coasting => 3

def windowPlace : LockedWindow → Nat
  | .normal => 0 | .narrow => 1

def constantPlace : TimeConstant → Nat
  | .slow => 0 | .normal => 1 | .fast => 2 | .adaptive => 3

def ActiveConstant.place : ActiveConstant → Nat
  | .slow => 0 | .normal => 1 | .fast => 2

def Rejection.place : Rejection → Nat
  | .double => 0 | .outside => 1 | .close => 2

def accentPlace : AccentMode → Nat
  | .downbeat => 0 | .none => 1 | .all => 2

def Override.place : Override → Nat
  | .none => 0 | .forcedOn => 1 | .forcedOff => 2

def protectPlace : ProtectMode → Nat
  | .none => 0 | .range => 1 | .all => 2

def ImageResult.place : ImageResult → Nat
  | .none => 0 | .ok => 1 | .failed => 2 | .invalid => 3

def FireSource.place : FireSource → Nat
  | .deskGo => 0 | .hostGo => 1 | .atBar => 2 | .follow => 3

def LinkSt.place : LinkSt → Nat
  | .offline => 0 | .greeting => 1 | .online => 2

def SlotSt.place : SlotSt → Nat
  | .empty => 0 | .loading => 1 | .resident => 2

def SwitchKind.place : SwitchKind → Nat
  | .none => 0 | .unmapped => 1 | .hot => 2 | .warm => 3 | .wait => 4 | .cold => 5

/-- The stages in the order R124 lists them: held SELECT, wait on a LOADING slot, cold load, outstanding SELECT. -/
def SwitchStage.place : SwitchStage → Nat
  | .selectHeld _ => 0 | .loading _ => 1 | .coldHeld => 2 | .selecting _ => 3

def SwitchEnd.place : SwitchEnd → Nat
  | .done => 0 | .superseded => 1 | .missed => 2 | .dropped => 3

def FaultKind.place : FaultKind → Nat
  | .loadFailed => 0 | .loadTimeout => 1 | .selectTimeout => 2 | .unmapped => 3 | .late => 4 | .missed => 5
  | .offline => 6 | .pressure => 7

def StopSt.place : StopSt → Nat
  | .run => 0 | .holding _ => 1 | .held => 2 | .stopped => 3 | .rebuilding => 4 | .ready => 5 | .countIn _ => 6

def Source.place : Source → Nat
  | .desk => 0 | .host => 1

def Account.place : Account → Nat
  | .notCounted => 0 | .waiting => 1 | .satisfied => 2 | .failed => 3

def Rate.place : Rate → Nat
  | .r50 => 0 | .r59 => 1

def Genlock.place : Genlock → Nat
  | .noSignal => 0 | .lineSeek => 1 | .fieldSeek => 2 | .locked => 3

def OutputMode.place : OutputMode → Nat
  | .freeRun => 0 | .locked => 1

def rateSettingPlace : RateSetting → Nat
  | .auto => 0 | .forced50 => 1 | .forced59 => 2

def lineConstantPlace : LineConstant → Nat
  | .slow => 0 | .normal => 1 | .fast => 2

def stylePlace : FlashStyle → Nat
  | .border => 0 | .corner => 1

def GoReason.place : GoReason → Nat
  | .noStandby => 0 | .endOfList => 1 | .wrongState => 2 | .stopAsserted => 3

def GoLine.place : GoLine → Nat
  | .stby => 0 | .go => 1

def LinkCount.place : LinkCount → Nat
  | .gap => 0 | .crc => 1 | .length => 2 | .overflow => 3 | .break_ => 4

def StoreResult.place : StoreResult → Nat
  | .ok => 0 | .failed => 1 | .invalid => 2

/-- The place of a line rate in the table of R174. -/
def LineRate.place : LineRate → Nat
  | .b115200 => 0 | .b230400 => 1 | .b460800 => 2 | .b921600 => 3

/-! ## Shared items -/

/-- A show time, which may be absent: 40 bits. -/
def timeItem (t : Option Nat) : Item := .opt 5 t

/-- SHOW, or COUNT_IN with its number (R1). -/
def phaseItems : Phase → List Item
  | .inShow => [.num 1 0, .opt 1 none]
  | .countIn n => [.num 1 1, .opt 1 (some n)]

/-- The stop state of the stop record, with its hold stage and its count-in kind (R155, R172). -/
def stopStateItems (st : StopSt) : List Item :=
  let stage : Option Nat := match st with
    | .holding .armed => some 0
    | .holding .draining => some 1
    | _ => none
  let kind : Option Nat := match st with
    | .countIn .resume => some 0
    | .countIn .hold => some 1
    | _ => none
  [.num 1 st.place, .opt 1 stage, .opt 1 kind]

/-- A list: a count byte followed by its items (R187). -/
def listItems {α : Type} (f : α → List Item) (l : List α) : List Item := .num 1 l.length :: l.flatMap f

/-! ## Cues (R78, R79, R81, R187) -/

/-- The trigger of a cue: kind, word and beat (R187). -/
def triggerItems : Trigger → List Item
  | .manual => [.num 1 0, .num 2 0, .num 1 0]
  | .atBar bar beat => [.num 1 1, .num 2 bar, .num 1 beat]
  | .follow delay => [.num 1 2, .num 2 delay, .num 1 0]

/-- The presence byte of a cue record (R187). -/
def presenceOf (c : Cue) : Nat :=
  c.tempo.isSome.toNat + 2 * (c.tempo.bind (·.ramp)).isSome.toNat + 4 * c.barSet.isSome.toNat
    + 8 * c.vamp.isSome.toNat + 16 * c.caption.isSome.toNat

/-- A tempo record, with its ramp behind it where it has one (R187). -/
def tempoItems (r : TempoRecord) : List Item :=
  [.num 1 (modePlace r.mode), .num 2 r.bpm10, .num 1 r.meter, .num 1 r.band, .num 1 r.countIn]
    ++ (match r.ramp with
      | some ramp => [.num 2 ramp.target, .num 1 ramp.bars]
      | none => [])

/-- The layout of a cue record (R187). -/
def cueItems (c : Cue) : List Item :=
  .cue (some c.number) :: triggerItems c.trigger ++ [.num 1 (presenceOf c)]
    ++ (c.tempo.map tempoItems).getD []
    ++ (c.barSet.map fun b => [Item.num 2 b]).getD []
    ++ (c.vamp.map fun v => [Item.num 2 v.first, Item.num 2 v.last]).getD []
    ++ (c.caption.map fun x => [Item.text x]).getD []
    ++ listItems (fun p => [.num 1 p.station, .num 2 p.patch]) c.patches
    ++ listItems (fun a => [.num 1 a.channel, .flag a.on, .num 1 (a.sub.getD 0)]) c.clicks

/-- The OWN view (R78). -/
def ownItems (cues : List Cue) (c : Cue) : List Item :=
  cueItems c ++ [.num 1 (cueEntries c), .cue (predecessor cues c.number), .cue (successor cues c.number)]

/-- The tracked tempo record of R81, always of nine bytes: with none, or without a ramp, the bytes that are not there are
absent values (R187, log 10). -/
def trackedTempoItems (r : Option TempoRecord) : List Item :=
  let ramp := r.bind (·.ramp)
  [.opt 1 (r.map fun r => modePlace r.mode), .opt 2 (r.map (·.bpm10)), .opt 1 (r.map (·.meter)),
    .opt 1 (r.map (·.band)), .opt 1 (r.map (·.countIn)), .opt 2 (ramp.map (·.target)), .opt 1 (ramp.map (·.bars))]

/-- The TRACKED view, in the order R81 lists it. -/
def trackedItems (cues : List Cue) (n : CueNo) : List Item :=
  let tempo := trackedTempo cues n
  let caption := trackedCaption cues n
  .flag (findCue cues n).isSome ::
    (allStations.flatMap fun i =>
      let p := trackedPatch cues n i
      [.opt 2 (p.map (·.1)), .cue (p.map (·.2))])
    ++ (allChannels.flatMap fun i =>
      let on := trackedOn cues n i
      let sub := trackedSub cues n i
      [.flag ((on.map (·.1)).getD false), .num 1 ((sub.map (·.1)).getD 1), .cue (on.map (·.2)), .cue (sub.map (·.2))])
    ++ trackedTempoItems (tempo.map (·.1)) ++ [.cue (tempo.map (·.2))]
    ++ [.text ((caption.map (·.1)).getD []), .cue (caption.map (·.2))]

/-- The summary of a cue in CUE LIST (R79); the parts present are the presence byte of a cue record and the tempo
record's mode, absent without one (log 10). -/
def summaryItems (c : Cue) : List Item :=
  .cue (some c.number) :: triggerItems c.trigger
    ++ [.num 1 (presenceOf c), .opt 1 (c.tempo.map fun r => (modePlace r.mode)), .num 1 c.patches.length,
        .num 1 c.clicks.length, .num 1 (cueEntries c)]

/-! ## Settings and states of the blocks -/

/-- PROTECT GET (R84). -/
def protectItems (s : State) : List Item :=
  let p := s.store.protect
  [.num 1 (protectPlace p.mode), .cue (p.range.map (·.1)), .cue (p.range.map (·.2)), .flag p.keyLock, .flag s.desk.key,
    .flag (s.desk.key && p.keyLock), .flag s.storing, .num 1 s.store.lastImage.place]

/-- The five show settings (R107). -/
def showItems (x : ShowSettings) : List Item :=
  [.flag x.standbyRequired, .num 1 x.lookAhead, .num 2 x.lateThreshold, .num 1 x.resumeCountIn, .num 1 x.holdCountIn]

/-- The follow timer (R108). -/
def timerItems (now : Nat) : FollowTimer → List Item
  | .idle => [.num 1 0, .cue none, .opt 4 none]
  | .running n expiry => [.num 1 1, .cue (some n), .opt 4 (some (expiry - now))]
  | .deferred n => [.num 1 2, .cue (some n), .opt 4 none]

/-- SHOW GET (R108). -/
def showGetItems (s : State) : List Item :=
  showItems s.seq.settings
    ++ [.cue s.seq.current, .cue (nextCue s), .num 1 s.seq.pointer.isSome.toNat, .cue s.seq.latch]
    ++ timerItems s.now s.seq.timer
    ++ listItems (fun n => [.cue (some n)]) s.seq.ahead
    ++ (match s.seq.lastFire with
      | none => [.cue none, .opt 1 none, timeItem none, .opt 1 none]
      | some f => [.cue (some f.cue), .num 1 f.source.place, timeItem (some f.time), .flag f.tracked])

/-- The three follower settings (R49). -/
def followItems (x : FollowSettings) : List Item :=
  [.num 1 (windowPlace x.window), .num 1 (constantPlace x.constant), .num 1 x.m]

/-- FOLLOW GET (R50). DESIGN CHOICE: the active time constant is NORMAL or SLOW, as R36, R40 and R41 set it, also while
fast remaining is above 0 and FAST is in force (log 30). -/
def followGetItems (s : State) : List Item :=
  let f := s.follower
  followItems f.settings
    ++ [.num 1 f.st.place, .opt 3 s.clock.period, .opt 3 (f.band.map (·.1)), .opt 3 (f.band.map (·.2)),
        .num 3 (windowWidth s), .num 1 f.active.place, .num 1 f.fastLeft, .num 3 f.jitter, .num 1 f.good,
        .num 1 f.rejectedRun, .num 1 f.missedRun, .signed 5 f.lastError, .flag f.clamped, .flag f.coasting,
        .num 2 f.accepted, .num 2 f.rejected, .num 2 f.missed, .opt 1 (f.lastRejection.map Rejection.place)]

/-- POSITION GET (R26). DEDUCED: the stop state is its name alone, in one byte. DESIGN CHOICE: the item flags is sent as two
set or clear bytes, CLAMPED and then COASTING, and not as a set in one byte; R187 allows either (log 10). -/
def positionItems (s : State) : List Item :=
  let p := s.clock.position
  [.cue p.cue, .opt 2 p.bar, .opt 1 p.beat, .num 1 p.pass] ++ phaseItems p.phase
    ++ [timeItem p.time, .opt 3 p.period, .flag p.clamped, .flag p.coasting, .num 1 s.clock.st.place,
        .num 1 ((s.clock.gov.map (·.record.meter)).getD 0), .num 1 s.follower.st.place, .signed 5 s.follower.lastError,
        .num 2 (displayedTempo p.period), .num 1 s.stop.st.place]

/-- CHANNEL GET (R66). An onset frame before frame 0 is sent as 0 (log 10). -/
def channelItems (i : Fin 16) (s : State) : List Item :=
  let c := s.channel i
  let x := c.settings
  [.num 1 (i.val + 1), .num 1 (accentPlace x.accent), .signed 1 (-(x.down : Int)), .num 3 x.lead, .flag x.countIn,
    .num 1 x.toneSet, .num 1 c.override.place, .flag c.trackedOn, .num 1 c.trackedSub, .flag (channelSounds .inShow c),
    .num 3 (effectiveLead x.lead s.clock.lead), .num 1 c.bursts.length, .opt 5 (c.bursts.head?.map (·.onset.toNat)),
    .num 2 c.lateCount]

/-- A set of elements (R147, R187). -/
def elementsNumber (e : Elements) : Nat :=
  e.barBeat.toNat + 2 * e.cueNumber.toNat + 4 * e.tempo.toNat + 8 * e.caption.toNat + 16 * e.flash.toNat
    + 32 * e.banner.toNat

/-- The nine video settings (R153). -/
def videoItems (x : VideoSettings) : List Item :=
  [.num 1 (rateSettingPlace x.rate), .num 1 (lineConstantPlace x.constant), .num 3 x.delay,
    .num 1 (elementsNumber x.pit.elements), .num 1 (elementsNumber x.stage.elements), .num 1 (stylePlace x.pit.style),
    .num 1 (stylePlace x.stage.style), .num 1 x.pit.length, .num 1 x.stage.length]

/-- A banner: its place in R149's list, with its number and its cue. DESIGN CHOICE: none is the fifth place, 4, of that list and
not the largest value that R187 gives a none value (log 10). -/
def bannerItems : Banner → List Item
  | .stop => [.num 1 0, .opt 1 none, .cue none]
  | .hold => [.num 1 1, .opt 1 none, .cue none]
  | .countIn n => [.num 1 2, .opt 1 n, .cue none]
  | .standby n => [.num 1 3, .opt 1 none, .cue (some n)]
  | .none => [.num 1 4, .opt 1 none, .cue none]

/-- VIDEO GET (R154); the field run goes with the rate it shares (R140). DESIGN CHOICE: the last field length, a difference of
show times, takes five bytes, and an output field number four, which hold the fields of 40 bits of show time (log 10). -/
def videoGetItems (s : State) : List Item :=
  let v := s.video
  [.num 1 v.genlock.place, .opt 1 (v.measured.map Rate.place), .opt 5 v.lastLength, .opt 1 (v.lockedRate.map Rate.place),
    .opt 1 (v.lastLocked.map Rate.place), .num 1 v.goodRun, .num 1 v.badRun, .num 1 v.fieldRun,
    .opt 1 (v.fieldRate.map Rate.place), .num 1 v.nonNominal,
    .num 1 v.mode.place, .num 1 v.outRate.place, .num 4 v.fieldNo]
    ++ videoItems v.settings
    ++ [.num 3 (effectiveDelay v.settings.delay s.clock.lead)]
    ++ bannerItems v.snapshot.banner
    ++ (match v.content.displayed with
      | none => [.opt 2 none, .opt 1 none, .opt 1 none, .opt 1 none, .opt 1 none]
      | some d => [.num 2 d.bar, .num 1 d.beat, .num 1 d.pass] ++ phaseItems d.phase)
    ++ [.opt 4 (v.waiting.map (·.field)), timeItem (v.waiting.map (·.aim)), .signed 5 v.lastError, .num 2 v.lateCount]

/-! ## Stop record (R172) -/

/-- A stop position; the phase is SHOW or COUNT_IN, without a number (R155). -/
def stopPositionItems (p : StopPosition) : List Item :=
  [.cue p.cue, .opt 2 p.bar, .opt 1 p.beat, .num 1 p.pass, .num 1 (match p.phase with
    | .inShow => 0
    | .countIn _ => 1)]

/-- A resume point, or none. -/
def resumeItems (r : Option ResumePoint) : List Item := [.cue (r.map (·.cue)), .opt 2 (r.map (·.bar))]

/-- The stop record (R172). -/
def stopItems (s : State) : List Item :=
  let c := s.stop
  stopStateItems c.st
    ++ [.opt 2 (c.held.map (·.bar)), .opt 1 (c.held.map fun _ => 1), .opt 1 (c.held.map (·.pass)),
        .opt 1 (c.source.map Source.place)]
    ++ (match c.position with
      | none => [.cue none, .opt 2 none, .opt 1 none, .opt 1 none, .opt 1 none]
      | some p => stopPositionItems p)
    ++ resumeItems (defaultResume c.position) ++ resumeItems c.resume
    ++ (c.account.map fun a => Item.num 1 a.place) ++ [.flag s.desk.stop]

/-! ## Stations (R135, R137) -/

/-- The pins of a slot, as a set: CURRENT, STANDBY, AHEAD, HOST in the order R120 lists them. -/
def pinNumber (st : Station) (k : Nat) : Nat :=
  (st.isCurrent k).toNat + 2 * (st.isStandby k).toNat + 4 * (st.isAhead k).toNat + 8 * (st.isHost k).toNat

/-- A slot (R135). -/
def slotItems (st : Station) (k : Nat) : List Item :=
  let sl := st.slot k
  [.num 1 sl.st.place, .opt 2 sl.patch, .flag sl.stale, .flag sl.flush, .num 1 (pinNumber st k)]

/-- The selected slot (R135). DESIGN CHOICE: a code, 0 none, 1 a slot, 2 UNKNOWN, and then a list of the slots that it names:
none, the one, or the candidates, in the order in which they joined (log 10). -/
def selectedItems : Selected → List Item
  | .none => [.num 1 0, .num 1 0]
  | .slot k => [.num 1 1, .num 1 1, .num 1 k]
  | .unknown c => .num 1 2 :: listItems (fun k => [.num 1 k]) c

/-- The three outgoing places (R135). -/
def placesItems (st : Station) : List Item :=
  let w := st.switch
  [.flag st.silence, .opt 1 st.selectPlace, .cue ((st.selectPlace.bind fun _ => w).bind (·.cue)), .opt 2 st.loadPlace,
    .cue ((st.loadPlace.bind fun _ => w).bind (·.cue))]

/-- The µs to a timeout that runs to `due`; up to 32,000,000 for a LOAD (R115, R117) and 200,000 for a SELECT (R116). DESIGN
CHOICE: absent while the frame is still being sent, when no timeout runs yet (R135, log 10). -/
def leftItem (bytes now : Nat) (due : Option Nat) : Item := .opt bytes (due.map (· - now))

/-- The outstanding frames (R135). -/
def outstandingItems (now : Nat) (st : Station) : List Item :=
  [.opt 1 (st.outLoad.map (·.slot)), .opt 2 (st.outLoad.map (·.patch)), leftItem 4 now (st.outLoad.bind (·.due)),
    .opt 1 (st.outSelect.map (·.slot)), leftItem 3 now (st.outSelect.bind (·.due))]

/-- The switch in progress and the last switch (R135). DESIGN CHOICE: a lateness (R125), a difference of show times, takes five
bytes (log 10). -/
def switchItems (st : Station) : List Item :=
  let w := st.switch
  let l := st.lastSwitch
  [.opt 2 (w.map (·.patch)), .cue (w.bind (·.cue)), .opt 1 (w.map fun w => w.kind.place),
    .opt 1 (w.map fun w => w.stage.place), .opt 1 (w.map fun w => w.rebuild.toNat),
    .cue (l.bind (·.cue)), .opt 2 (l.bind (·.patch)), .opt 1 (l.map fun l => l.kind.place),
    .opt 1 (l.map fun l => l.outcome.place), timeItem (l.bind (·.lateness))]

/-- The two fields of STATION SET (R134). -/
def stationFields (st : Station) : List Item := [.flag st.excluded, .opt 2 st.lateOverride]

/-- The pressure episode (R109): DEDUCED, its place in the list open, closed (R187, log 10). -/
def pressurePlace (isOpen : Bool) : Nat := if isOpen then 0 else 1

/-- STATION GET (R135). DESIGN CHOICE: the slot records stand without a count byte of their own, since the slot count n goes
before them (log 10). -/
def stationItems (i : Fin 6) (s : State) : List Item :=
  let st := s.station i
  [.flag st.present, .num 1 st.link.place] ++ stationFields st ++ [.num 1 st.slots.length, .num 1 st.victim]
    ++ ((List.range st.slots.length).flatMap fun j => slotItems st (j + 1)) ++ selectedItems st.selected
    ++ placesItems st ++ outstandingItems s.now st ++ switchItems st
    ++ listItems (fun p => [.num 2 p]) st.hostPins ++ listItems (fun p => [.num 2 p]) st.failed
    ++ [.num 1 (pressurePlace st.pressure), .num 2 st.protoErrors]

/-- A fault record (R137). -/
def faultItems (r : FaultRecord) : List Item :=
  (match r.first with
    | none => [.opt 1 none, .cue none, .opt 2 none, timeItem none]
    | some f => [.num 1 f.kind.place, .cue f.cue, .opt 2 f.patch, timeItem (some f.time)])
  ++ [.num 1 r.count]

/-! ## Attention conditions (R192, R193) -/

/-- The record of a condition (R189). -/
def recordItems : CondRecord → List Item
  | .showStop source p => .num 1 source.place :: stopPositionItems p
  | .stationFault i kind => [.num 1 (i.val + 1), .num 1 kind.place]
  | .resumeReady cue bar => [.cue (some cue), .num 2 bar]
  | .beatLock st => [.num 1 st.place]
  | .videoLock st => [.num 1 st.place]
  | .goRefused reason line => [.num 1 reason.place, .num 1 line.place]
  | .cueFired cue source => [.cue (some cue), .num 1 source.place]
  | .linkError count => [.num 1 count.place]
  | .storeDone result => [.num 1 result.place]

/-- A record behind its show time, or none (log 10). -/
def keptRecord : Option (CondRecord × Nat) → List Item
  | none => [timeItem none]
  | some (r, t) => timeItem (some t) :: recordItems r

/-- ATTENTION PEEK (R193). -/
def peekItems (s : State) : List Item :=
  (s.attention.flatMap fun c => [.flag c.isPending, .flag c.enabled, .num 1 c.count] ++ keptRecord c.record)
    ++ [.flag (attnLine s)]

/-! ## Identity (R184) -/

/-- IDENTIFY (R184). -/
def identifyItems (s : State) : List Item :=
  let l := s.link
  [.text Config.vendor, .text Config.partName, .num 1 1, .num 1 0, .num 2 Config.maxCues, .num 2 Config.maxPool,
    .num 2 Config.maxMap, .num 1 6, .num 1 16, .num 1 Config.maxQueue, .num 1 Config.maxPayload, .num 1 l.rate.place,
    .num 1 (if s.loading then 0 else 1), .num 2 l.gaps, .num 2 l.crcs, .num 2 l.lengths, .num 2 l.overflows,
    .num 2 l.breaks]

end Sys2Proof.Machine
end

