-- ==== Sys2Proof/Machine/Attention.lean ====
section
/-! DEFINITION. The commands of the Attention Unit (10, R192 to R194). -/

namespace Sys2Proof.Machine

open Sys2Proof

/-- The entry of the condition of priority `k`, from 1 (R189). -/
def State.condition (s : State) (k : Nat) : Condition := s.attention.getD (k - 1) Condition.initial

/-- The condition of priority `k` is cleared (R189). -/
def clearCondition (k : Nat) (s : State) : State :=
  { s with attention := s.attention.modify (k - 1) Condition.cleared }

/-- The reply of ATTENTION QUERY about the condition of priority `k` (R192). -/
def queryItems (k : Nat) (s : State) : List Item :=
  let c := s.condition k
  [.num 1 k, .flag c.isPending, .num 1 c.count] ++ keptRecord c.record

/-- The condition reported and cleared (R192). -/
def queryCondition (k : Nat) (s : State) : State × Answer := (clearCondition k s, okWith (queryItems k s))

/-- ATTENTION QUERY (R192). DESIGN CHOICE: an empty query that finds nothing reports condition 0 as not pending, with the
count 0 and no record (log 10). -/
def reqAttentionQuery (n : Option Nat) (s : State) : State × Answer :=
  match n with
  | some k => if 1 ≤ k ∧ k ≤ 9 then queryCondition k s else (s, refuse .range)
  | none =>
    match attentionSummary s with
    | 0 => (s, okWith ([.num 1 0, .flag false, .num 1 0] ++ keptRecord none))
    | k => queryCondition k s

/-- ATTENTION PEEK (R193). -/
def reqAttentionPeek (s : State) : State × Answer := (s, okWith (peekItems s))

/-- ATTENTION ENABLE (R194). -/
def reqAttentionEnable (mask : Nat) (s : State) : State × Answer :=
  if mask < 512 then
    ({ s with attention := s.attention.mapIdx fun k c => { c with enabled := mask.testBit k } }, okWith [.num 2 mask])
  else (s, refuse .range)

/-- RESTART SHOW in the unit (R190). -/
def attentionRestart (s : State) : State := { s with attention := s.attention.map Condition.restarted }

/-! ## The commands -/

def execAttentionQuery (t : Nat) (n : Option Nat) (s : State) : Host.Outcome State Fault Refusal :=
  request t true (reqAttentionQuery n) s

def execAttentionPeek (t : Nat) (s : State) : Host.Outcome State Fault Refusal := request t true reqAttentionPeek s

def execAttentionEnable (t mask : Nat) (s : State) : Host.Outcome State Fault Refusal :=
  request t false (reqAttentionEnable mask) s

end Sys2Proof.Machine
end

