-- ==== Sys2Proof/Machine/Cues.lean ====
section
/-! DEFINITION. The Cue Store: edits, reads, protection, the store, the power-on load; and the commands that are its
own (04, R70 to R89; R118). -/

namespace Sys2Proof.Machine

open Sys2Proof

def State.setStore (f : CueStore → CueStore) (s : State) : State := { s with store := f s.store }

/-! ## Protection -/

/-- A cue number lies in the protection (R82). -/
def protectsCue (p : Protect) (n : CueNo) : Bool :=
  match p.mode, p.range with
  | .none, _ => false
  | .all, _ => true
  | .range, some (lo, hi) => cueLe lo n && cueLe n hi
  | .range, none => false

/-- The patch map lies in the protection (R82). -/
def protectsMap (p : Protect) : Bool := p.mode == .all

/-! ## Edits of the list -/

/-- A record placed in the list, in number order, in place of the cue of its number (R74). -/
def placeCue (c : Cue) : List Cue → List Cue
  | [] => [c]
  | d :: ds =>
    if d.number = c.number then c :: ds
    else if cueLt c.number d.number then c :: d :: ds
    else d :: placeCue c ds

/-- The list without the cue of a number (R76). -/
def removeCue (n : CueNo) (cues : List Cue) : List Cue := cues.filter fun c => c.number != n

/-- The cue count and the pool used (R70). -/
def countItems (s : State) : List Item := [.num 2 s.store.cueCount, .num 2 s.store.poolUsed]

/-- The pool used after a put (R71, R75). -/
def poolAfterPut (c : Cue) (s : State) : Nat :=
  s.store.poolUsed - ((findCue s.store.cues c.number).map cueEntries).getD 0 + cueEntries c

/-- The refusal of a put of a cue within its ranges, if any (R73, R75). -/
def putRefusal (c : Cue) (s : State) : Option Status :=
  if protectsCue s.store.protect c.number then some .isProtected
  else if (findCue s.store.cues c.number).isNone ∧ Config.maxCues ≤ s.store.cueCount then some .tableFull
  else if Config.maxPool < poolAfterPut c s then some .poolFull
  else none

/-- The edit of an accepted put, before its notice (R74). -/
def putCue (c : Cue) (s : State) : State :=
  s.setStore fun x =>
    { x with
      cues := placeCue c x.cues
      cueCount := if (findCue x.cues c.number).isSome then x.cueCount else x.cueCount + 1
      poolUsed := poolAfterPut c s }

/-- CUE PUT (R73 to R75). -/
def reqCuePut (r : RawCue) (s : State) : State × Answer :=
  if s.storing then (s, refuse .busy)
  else match readCue r with
    | none => (s, refuse .range)
    | some c =>
      match putRefusal c s with
      | some .poolFull => (s, { status := .poolFull, body := [.num 2 s.store.poolUsed, .num 1 (cueEntries c)] })
      | some why => (s, refuse why)
      | none =>
        let old := (findCue s.store.cues c.number).isSome
        let done := putCue c s
        (listChanged (nextCue s) (if old then .replaced c.number else .inserted) done,
          okWith (countItems done ++ [.num 1 old.toNat]))

/-- The edit of an accepted delete, before its notice (R76). -/
def deleteCue (c : Cue) (s : State) : State :=
  s.setStore fun x =>
    { x with cues := removeCue c.number x.cues, cueCount := x.cueCount - 1, poolUsed := x.poolUsed - cueEntries c }

/-- CUE DELETE (R73, R76). -/
def reqCueDelete (n : CueNo) (s : State) : State × Answer :=
  if s.storing then (s, refuse .busy)
  else if !cueNoOk n then (s, refuse .range)
  else if protectsCue s.store.protect n then (s, refuse .isProtected)
  else match findCue s.store.cues n with
    | none => (s, refuse .notFound)
    | some c =>
      let done := deleteCue c s
      (listChanged (nextCue s) .deleted done, okWith (countItems done))

/-! ## Reads -/

/-- CUE GET (R78, R81); the view is OWN (0) or TRACKED (1). -/
def reqCueGet (view : Nat) (n : CueNo) (s : State) : State × Answer :=
  (s,
    if 1 < view ∨ cueNoOk n = false then refuse .range
    else if view = 1 then okWith (trackedItems s.store.cues n)
    else match findCue s.store.cues n with
      | none => refuse .notFound
      | some c => okWith (ownItems s.store.cues c))

/-- The cues of CUE LIST from a number on, INCLUSIVE (0) or AFTER (1) (R79). -/
def listFrom (cues : List Cue) (n : CueNo) (start : Nat) : List Cue :=
  cues.filter fun c => if start = 0 then cueLe n c.number else cueLt n c.number

/-- CUE LIST (R79). -/
def reqCueList (n : CueNo) (start count : Nat) (s : State) : State × Answer :=
  (s,
    if cueNoOk n = false ∨ 1 < start ∨ count < 1 ∨ 8 < count then refuse .range
    else
      let l := listFrom s.store.cues n start
      okWith (listItems summaryItems (l.take count) ++ [.flag (decide (count < l.length))] ++ countItems s))

/-! ## The patch map (R118) -/

/-- The table without a key. -/
def removeMap (station patch : Nat) (map : List MapEntry) : List MapEntry :=
  map.filter fun e => !(e.station == station && e.patch == patch)

/-- The table with an entry created, or replaced whole in its place. -/
def placeMap (e : MapEntry) (map : List MapEntry) : List MapEntry :=
  if (findMap map e.station e.patch).isSome then
    map.map fun d => if d.station = e.station ∧ d.patch = e.patch then e else d
  else map ++ [e]

/-- The Cue Store's refusals of a map edit: BUSY, RANGE on the key, PROTECTED (R73, R118). -/
def mapEditRefusal (station patch : Nat) (s : State) : Option Status :=
  if s.storing then some .busy
  else if !(stationOk station && patchOk patch) then some .range
  else if protectsMap s.store.protect then some .isProtected
  else none

/-- MAP PUT (R118). -/
def reqMapPut (station patch bank program load : Nat) (s : State) : State × Answer :=
  match mapEditRefusal station patch s, readStation station with
  | some why, _ => (s, refuse why)
  | none, none => (s, refuse .range)
  | none, some i =>
    let e : MapEntry := { station := station, patch := patch, bank := bank, program := program, load := load }
    if !mapEntryOk e then (s, refuse .range)
    else if (findMap s.map station patch).isNone ∧ Config.maxMap ≤ s.map.length then (s, refuse .tableFull)
    else
      let s := { s with map := placeMap e s.map }
      (mapChanged i patch false s, okWith [.num 2 s.map.length])

/-- MAP DELETE (R118). -/
def reqMapDelete (station patch : Nat) (s : State) : State × Answer :=
  match mapEditRefusal station patch s, readStation station with
  | some why, _ => (s, refuse why)
  | none, none => (s, refuse .range)
  | none, some i =>
    if (findMap s.map station patch).isNone then (s, refuse .notFound)
    else
      let s := { s with map := removeMap station patch s.map }
      (mapChanged i patch true s, okWith [.num 2 s.map.length])

/-- MAP GET (R118). -/
def reqMapGet (station patch : Nat) (s : State) : State × Answer :=
  (s,
    if !(stationOk station && patchOk patch) then refuse .range
    else match findMap s.map station patch with
      | none => refuse .notFound
      | some e => okWith [.num 2 e.bank, .num 1 e.program, .num 2 e.load])

/-! ## Protection requests -/

/-- PROTECT SET (R83). -/
def reqProtectSet (mode : Nat) (lo hi : CueNo) (keyLock : Nat) (s : State) : State × Answer :=
  if s.storing then (s, refuse .busy)
  else if s.desk.key && s.store.protect.keyLock then (s, refuse .keyLocked)
  else match readProtect mode lo hi keyLock with
    | none => (s, refuse .range)
    | some p => (s.setStore fun x => { x with protect := p }, okWith [])

/-- PROTECT GET (R84). -/
def reqProtectGet (s : State) : State × Answer := (s, okWith (protectItems s))

/-! ## The store (R85, R86) -/

/-- What the show image holds at this moment (R85). -/
def imageOf (s : State) : ShowImage :=
  { cues := s.store.cues, map := s.map, protect := s.store.protect, lead := s.clock.lead,
    follow := s.follower.settings, channels := s.channels.map (·.settings), video := s.video.settings,
    settings := s.seq.settings }

/-- STORE (R85): the erase begins, and with it the marker goes. -/
def reqStore (s : State) : State × Answer :=
  if s.storing then (s, refuse .busy)
  else
    ({ s with
        flash := FlashArea.blank
        store := { s.store with job := some { image := imageOf s, taken := s.now, stage := .erase } } }, okWith [])

/-- The store in progress, where it stands at a stage. -/
def jobAt (stage : StoreStage) (s : State) : Option StoreJob := s.store.job.filter fun j => j.stage == stage

/-- The store goes on to its next stage. -/
def goStage (stage : StoreStage) (s : State) : State :=
  s.setStore fun x => { x with job := x.job.map fun j => { j with stage := stage } }

/-- The store ends (R86). -/
def endStore (ok : Bool) (s : State) : State :=
  raise (.storeDone (if ok then .ok else .failed))
    (s.setStore fun x => { x with job := none, lastImage := if ok then .ok else .failed })

/-- The erase stage has ended (R85). -/
def eraseDone (s : State) : State :=
  match jobAt .erase s with
  | some _ => goStage .program s
  | none => s

/-- The program stage has ended: the body and its CRC are written (R85). -/
def programDone (s : State) : State :=
  match jobAt .program s with
  | some j => goStage .verify { s with flash := { marker := false, body := some j.image, crcMatches := true } }
  | none => s

/-- The verify stage has ended (R85, R86). -/
def verifyDone (crcMatches : Bool) (s : State) : State :=
  match jobAt .verify s with
  | some _ =>
    if crcMatches then goStage .mark s
    else endStore false { s with flash := { s.flash with crcMatches := false } }
  | none => s

/-- The mark stage has ended (R85, R86). -/
def markDone (readsBack : Bool) (s : State) : State :=
  match jobAt .mark s with
  | some _ => if readsBack then endStore true { s with flash := { s.flash with marker := true } } else endStore false s
  | none => s

/-- The flash reports an error (R86). -/
def flashFails (s : State) : State := if s.storing then endStore false s else s

/-- The show time at which a store has run too long (R86). -/
def storeDue (s : State) : Option Nat := s.store.job.map fun j => j.taken + Config.storeLimit

/-! ## The power-on load (R88, R89) -/

/-- What the read of the image area finds (log 7). -/
def areaRead (flash : FlashArea) : FlashAnswer → FlashArea
  | .noAnswer => flash
  | .asLeft => flash
  | .written a => a

/-- The image the load accepts, if any: a flash that does not answer gives none (R88). -/
def imageRead (flash : FlashArea) : FlashAnswer → Option ShowImage
  | .noAnswer => none
  | .asLeft => acceptedImage flash
  | .written a => acceptedImage a

/-- An accepted image is installed and handed to the blocks (R88); the list keeps the actions of every record in the
order of R68. -/
def installImage (i : ShowImage) (s : State) : State :=
  { s with
    store := { s.store with cues := i.cues.map orderedCue, cueCount := i.cues.length, poolUsed := poolOf i.cues, protect := i.protect,
                            lastImage := .none }
    map := i.map
    clock := { s.clock with lead := i.lead }
    follower := { s.follower with settings := i.follow }
    channels := List.zipWith (fun c x => { c with settings := x }) s.channels i.channels
    video := { s.video with settings := i.video }
    seq := { s.seq with settings := i.settings } }

/-- An image that is not accepted: an empty show and default settings (R89). -/
def installNothing (s : State) : State :=
  raise (.storeDone .invalid)
    { s with
      store := { s.store with cues := [], cueCount := 0, poolUsed := 0, protect := Protect.initial,
                              lastImage := .invalid }
      map := []
      clock := { s.clock with lead := Config.defaultLead }
      follower := { s.follower with settings := FollowSettings.initial }
      channels := s.channels.map fun c => { c with settings := ChannelSettings.initial }
      video := { s.video with settings := VideoSettings.initial }
      seq := { s.seq with settings := ShowSettings.initial } }

/-- The load ends: the look-ahead set is worked out from the loaded list (R90), and stations whose PRESENT is asserted
enter GREETING (R109). -/
def endLoad (answer : FlashAnswer) (s : State) : State :=
  if s.loading then
    let image := imageRead s.flash answer
    let s := { s with flash := areaRead s.flash answer }
    let s := match image with
      | some i => installImage i s
      | none => installNothing s
    eachStation greetPresent (handOver { s with loading := false })
  else s

/-! ## The commands -/

def execCuePut (t : Nat) (r : RawCue) (s : State) : Host.Outcome State Fault Refusal := request t false (reqCuePut r) s

def execCueDelete (t : Nat) (n : CueNo) (s : State) : Host.Outcome State Fault Refusal :=
  request t false (reqCueDelete n) s

def execCueGet (t view : Nat) (n : CueNo) (s : State) : Host.Outcome State Fault Refusal :=
  request t false (reqCueGet view n) s

def execCueList (t : Nat) (n : CueNo) (start count : Nat) (s : State) : Host.Outcome State Fault Refusal :=
  request t false (reqCueList n start count) s

def execMapPut (t station patch bank program load : Nat) (s : State) : Host.Outcome State Fault Refusal :=
  request t false (reqMapPut station patch bank program load) s

def execMapDelete (t station patch : Nat) (s : State) : Host.Outcome State Fault Refusal :=
  request t false (reqMapDelete station patch) s

def execMapGet (t station patch : Nat) (s : State) : Host.Outcome State Fault Refusal :=
  request t false (reqMapGet station patch) s

def execProtectSet (t mode : Nat) (lo hi : CueNo) (keyLock : Nat) (s : State) : Host.Outcome State Fault Refusal :=
  request t false (reqProtectSet mode lo hi keyLock) s

def execProtectGet (t : Nat) (s : State) : Host.Outcome State Fault Refusal := request t false reqProtectGet s

def execStore (t : Nat) (s : State) : Host.Outcome State Fault Refusal := request t false reqStore s

def execFlashEraseDone (t : Nat) (s : State) : Host.Outcome State Fault Refusal := event t eraseDone s

def execFlashProgramDone (t : Nat) (s : State) : Host.Outcome State Fault Refusal := event t programDone s

def execFlashVerifyDone (t : Nat) (crcMatches : Bool) (s : State) : Host.Outcome State Fault Refusal :=
  event t (verifyDone crcMatches) s

def execFlashMarkDone (t : Nat) (readsBack : Bool) (s : State) : Host.Outcome State Fault Refusal :=
  event t (markDone readsBack) s

def execFlashError (t : Nat) (s : State) : Host.Outcome State Fault Refusal := event t flashFails s

def execStoreTimeout (s : State) : Host.Outcome State Fault Refusal := selfTimed storeDue (endStore false) s

def execImageLoadEnd (t : Nat) (answer : FlashAnswer) (s : State) : Host.Outcome State Fault Refusal :=
  event t (endLoad answer) s

/-- The desk KEY line has held a new level (R83). -/
def execKeyLevelChange (t : Nat) (asserted : Bool) (held : Nat) (s : State) : Host.Outcome State Fault Refusal :=
  event t (fun s => if s.hasHeld Config.deskDebounce held then { s with desk := { s.desk with key := asserted } } else s) s

end Sys2Proof.Machine
end

