-- ==== Sys2Proof/Machine/Outputs.lean ====
section
/-! DEFINITION. The commands of the Click Generator and of the Video Overlay Unit (03, R53, R58, R65, R66; 07, R138 to
R154). -/

namespace Sys2Proof.Machine

open Sys2Proof

/-! ## Click Generator -/

/-- An accepted CHANNEL SET on one channel: FORCED_OFF removes the bursts not started (R65). -/
def writeChannel (x : ChannelSettings) (o : Override) (c : Channel) : Channel :=
  { c with settings := x, override := o, bursts := if o = .forcedOff then [] else c.bursts }

/-- CHANNEL SET (R65, R87). -/
def reqChannelSet (channel : Nat) (f : RawChannelSet) (s : State) : State × Answer :=
  match readChannel channel with
  | none => (s, refuse (if s.storing ∧ RawChannelSet.selectsStored f then .busy else .range))
  | some i =>
    let c := s.channel i
    if s.storing ∧ RawChannelSet.selectsStored f then (s, { status := .busy, body := channelItems i s })
    else match readChannelSet f c.settings c.override with
      | none => (s, { status := .range, body := channelItems i s })
      | some (x, o) =>
        let s := drainReport (s.setChannel i (writeChannel x o))
        (s, okWith (channelItems i s))

/-- CHANNEL GET (R66). -/
def reqChannelGet (channel : Nat) (s : State) : State × Answer :=
  (s, match readChannel channel with
    | none => refuse .range
    | some i => okWith (channelItems i s))

/-! ## Video Overlay Unit -/

/-- VIDEO SET (R153, R87). -/
def reqVideoSet (f : RawVideoSet) (s : State) : State × Answer :=
  if s.storing ∧ RawVideoSet.selects f then (s, { status := .busy, body := videoItems s.video.settings })
  else match readVideoSet f s.video.settings with
    | none => (s, { status := .range, body := videoItems s.video.settings })
    | some x =>
      let done := s.setVideo fun v => { v with settings := x }
      (if x.rate = s.video.settings.rate then done else applyRateSetting done, okWith (videoItems x))

/-- VIDEO GET (R154). -/
def reqVideoGet (s : State) : State × Answer := (s, okWith (videoGetItems s))

/-! ## The commands -/

def execChannelSet (t channel : Nat) (f : RawChannelSet) (s : State) : Host.Outcome State Fault Refusal :=
  request t false (reqChannelSet channel f) s

def execChannelGet (t channel : Nat) (s : State) : Host.Outcome State Fault Refusal :=
  request t false (reqChannelGet channel) s

def execBurstStart (i : Fin 16) (s : State) : Host.Outcome State Fault Refusal :=
  selfTimed (burstStartDue i) (burstStarts i) s

def execBurstEnd (i : Fin 16) (s : State) : Host.Outcome State Fault Refusal := selfTimed (burstEndDue i) (burstEnds i) s

def execVideoSet (t : Nat) (f : RawVideoSet) (s : State) : Host.Outcome State Fault Refusal :=
  request t false (reqVideoSet f) s

def execVideoGet (t : Nat) (s : State) : Host.Outcome State Fault Refusal := request t false reqVideoGet s

/-- A line sync, `sub` reference periods after show time `t`; none is taken during the power-on load (R138, R140). -/
def execLineSync (t sub : Nat) (fieldStart : Bool) (s : State) : Host.Outcome State Fault Refusal :=
  event t (unlessLoading (takeSync (t * Config.refPerMicro + sub) fieldStart)) s

def execSyncLossTimeout (s : State) : Host.Outcome State Fault Refusal := selfTimed syncLossDue loseSync s

def execGeneratorFieldStart (s : State) : Host.Outcome State Fault Refusal := selfTimed generatorDue generatorField s

def execMissedInputField (s : State) : Host.Outcome State Fault Refusal := selfTimed missedFieldDue missField s

end Sys2Proof.Machine
end

