-- ==== Sys2Proof/Machine/Rigs.lean ====
section
/-! DEFINITION. The commands of the Station Controller: its requests, PRESENT, the station frames, the timeouts and the
links (06, R110 to R137, R188). -/

namespace Sys2Proof.Machine

open Sys2Proof

/-- A station request: a number outside 1–6 is refused with RANGE before any other test (06 section 6.7). -/
def stationRequest (station : Nat) (f : Fin 6 → State → State × Answer) (s : State) : State × Answer :=
  match readStation station with
  | none => (s, refuse .range)
  | some i => f i s

/-! ## Requests -/

/-- STATION SET (R134). -/
def reqStationSet (x : RawStationSet) (i : Fin 6) (s : State) : State × Answer :=
  let st := s.station i
  match masked readFlag st.excluded x.excluded, masked readLateOverride st.lateOverride x.lateOverride with
  | some e, some l =>
    let s := changeExcluded i e (s.setStation i fun st => { st with lateOverride := l })
    (s, okWith (stationFields (s.station i)))
  | _, _ => (s, refuse .range)

/-- STATION GET (R135). -/
def reqStationGet (i : Fin 6) (s : State) : State × Answer := (s, okWith (stationItems i s))

/-- STATION PIN (R131). -/
def reqStationPin (patch : Nat) (i : Fin 6) (s : State) : State × Answer :=
  let pins := (s.station i).hostPins
  if !patchOk patch then (s, refuse .range)
  else if pins.contains patch then (s, okWith [])
  else if Config.maxPins ≤ pins.length then (s, refuse .tableFull)
  else (recompute false i (s.setStation i fun st => { st with hostPins := st.hostPins ++ [patch] }), okWith [])

/-- STATION UNPIN (R131). -/
def reqStationUnpin (patch : Nat) (i : Fin 6) (s : State) : State × Answer :=
  let pins := (s.station i).hostPins
  if !patchOk patch then (s, refuse .range)
  else if !pins.contains patch then (s, refuse .notFound)
  else
    (recompute false i (s.setStation i fun st => { st with hostPins := st.hostPins.filter fun p => p != patch }),
      okWith [])

/-- STATION FLUSH (R132). -/
def reqStationFlush (i : Fin 6) (s : State) : State × Answer :=
  let n := (s.station i).flushCount
  (s.setStation i Station.flushed, okWith [.num 1 n.1, .flag n.2])

/-- STATION RESET (R133). -/
def reqStationReset (i : Fin 6) (s : State) : State × Answer := (resetStation i s, okWith [])

/-- FAULT GET (R137). -/
def reqFaultGet (i : Fin 6) (s : State) : State × Answer := (s, okWith (faultItems (s.station i).faults))

/-- FAULT CLEAR (R137). -/
def reqFaultClear (i : Fin 6) (s : State) : State × Answer :=
  (s.setStation i fun st => { st with faults := { first := none, count := 0 } },
    okWith (faultItems (s.station i).faults))

/-! ## PRESENT -/

/-- PRESENT is asserted: the station enters GREETING, during the power-on load when it ends (R109, R110). -/
def presentRises (i : Fin 6) (s : State) : State :=
  if (s.station i).present then s
  else if s.loading then s.setStation i fun st => { st with present := true }
  else s.setStation i fun st => Station.greet { st with present := true }

/-- PRESENT is deasserted (R110). -/
def presentFalls (i : Fin 6) (s : State) : State := if (s.station i).present then takeDeparture i s else s

/-- A PRESENT line has held a new level for 8,000 µs (R110). -/
def presentChange (held : Nat) (f : State → State) (s : State) : State :=
  if s.hasHeld Config.presentDebounce held then f s else s

/-! ## Frames of the rig -/

/-- An answer for slot `k` to the outstanding LOAD, or an unexpected frame (R113, R115). -/
def answerLoad (k : Nat) (f : OutLoad → State → State) (i : Fin 6) (s : State) : State :=
  match (s.station i).outLoad with
  | some o => if o.slot = k then f o s else protocolError i s
  | none => protocolError i s

/-- SELECTED for slot `k`, or an unexpected frame (R113, R116). -/
def answerSelect (k : Nat) (i : Fin 6) (s : State) : State :=
  match (s.station i).outSelect with
  | some o => if o.slot = k then takeSelected i k s else protocolError i s
  | none => protocolError i s

/-- A frame of the rig is taken (R113). -/
def takeRigFrame (i : Fin 6) (f : RigFrame) (s : State) : State :=
  match f with
  | .hello n => takeHello i n s
  | .loaded k => answerLoad k (takeLoaded i) i s
  | .loadFailed k => answerLoad k (failLoad i .loadFailed) i s
  | .selected k => answerSelect k i s

/-- An event of the receiver: a frame is taken, or one that fails its check is counted (R113, R188). -/
def takeRigEvent (i : Fin 6) (s : State) (e : RigEvent) : State :=
  match e with
  | .complete f => takeRigFrame i f s
  | .failed => protocolError i s

/-- The receiver of a station comes to some events, in their order, and is left hunting, or with the bytes given since a start
byte, the last of them received now (R188). -/
def receiverComes (i : Fin 6) (r : Option (List Byte) × List RigEvent) (s : State) : State :=
  r.2.foldl (takeRigEvent i)
    (s.setStation i fun st => { st with receiver := r.1.map fun g => { bytes := g, last := s.now } })

/-- The gap of a frame in reception has passed: the frame fails, and the receiver hunts (R188). -/
def gapFails (i : Fin 6) (r : Reception) (s : State) : State := receiverComes i (none, rigGap (some r.bytes)) s

/-- What has come of the gap of a frame in reception before the first of `n` bytes that come back to back, the last of them now
(R188). -/
def passGap (i : Fin 6) (n : Nat) (s : State) : State :=
  match (s.station i).receiver with
  | some r => if r.gapPassed n s.now then gapFails i r s else s
  | none => s

/-- The receiver of a station completes a frame of four bytes, and hunts for the next. DESIGN CHOICE: a frame that was in
reception without its gap having passed is dropped (R188, log 32). -/
def frameComes (i : Fin 6) (f : RigFrame) (s : State) : State := receiverComes i (none, [.complete f]) (passGap i 4 s)

/-- The receiver of a station takes some bytes in its present state. -/
def takeBytes (i : Fin 6) (bytes : List Byte) (s : State) : State :=
  receiverComes i (rigFeed ((s.station i).receiver.map (·.bytes)) bytes) s

/-- Some bytes arrive at the receiver of a station, back to back (R188, log 32). -/
def bytesCome (input : RigBytes) (s : State) : State :=
  match input.bytes with
  | [] => passGap input.station 0 s
  | bs => takeBytes input.station bs (passGap input.station bs.length s)

/-- No byte follows at the receiver of a station until more than 52 bit times have passed (R188). -/
def gapComes (i : Fin 6) (s : State) : State :=
  match (s.station i).receiver with
  | some r => gapFails i r (s.goTo r.gapDue)
  | none => s

/-- The show time at which the outstanding LOAD times out (R115). -/
def loadDue (i : Fin 6) (s : State) : Option Nat := (s.station i).outLoad.bind (·.due)

/-- The show time at which the outstanding SELECT times out (R116). -/
def selectDue (i : Fin 6) (s : State) : Option Nat := (s.station i).outSelect.bind (·.due)

/-- The outstanding LOAD times out. -/
def loadTimesOut (i : Fin 6) (s : State) : State :=
  match (s.station i).outLoad with
  | some o => failLoad i .loadTimeout o s
  | none => s

/-- The outstanding SELECT times out. -/
def selectTimesOut (i : Fin 6) (s : State) : State :=
  match (s.station i).outSelect with
  | some o => failSelect i o.slot s
  | none => s

/-! ## The commands -/

def execStationSet (t station : Nat) (x : RawStationSet) (s : State) : Host.Outcome State Fault Refusal :=
  request t false (stationRequest station (reqStationSet x)) s

def execStationGet (t station : Nat) (s : State) : Host.Outcome State Fault Refusal :=
  request t false (stationRequest station reqStationGet) s

def execStationPin (t station patch : Nat) (s : State) : Host.Outcome State Fault Refusal :=
  request t false (stationRequest station (reqStationPin patch)) s

def execStationUnpin (t station patch : Nat) (s : State) : Host.Outcome State Fault Refusal :=
  request t false (stationRequest station (reqStationUnpin patch)) s

def execStationFlush (t station : Nat) (s : State) : Host.Outcome State Fault Refusal :=
  request t false (stationRequest station reqStationFlush) s

def execStationReset (t station : Nat) (s : State) : Host.Outcome State Fault Refusal :=
  request t false (stationRequest station reqStationReset) s

def execFaultGet (t station : Nat) (s : State) : Host.Outcome State Fault Refusal :=
  request t false (stationRequest station reqFaultGet) s

def execFaultClear (t station : Nat) (s : State) : Host.Outcome State Fault Refusal :=
  request t false (stationRequest station reqFaultClear) s

def execPresentAsserted (t : Nat) (i : Fin 6) (held : Nat) (s : State) : Host.Outcome State Fault Refusal :=
  event t (presentChange held (presentRises i)) s

def execPresentDeasserted (t : Nat) (i : Fin 6) (held : Nat) (s : State) : Host.Outcome State Fault Refusal :=
  event t (presentChange held (presentFalls i)) s

def execQueryRepeat (i : Fin 6) (s : State) : Host.Outcome State Fault Refusal :=
  selfTimed (queryRepeatDue i) (queryComesDue i) s

def execHello (t : Nat) (i : Fin 6) (slots : Nat) (s : State) : Host.Outcome State Fault Refusal :=
  event t (unlessLoading (frameComes i (.hello slots))) s

def execLoaded (t : Nat) (i : Fin 6) (slot : Nat) (s : State) : Host.Outcome State Fault Refusal :=
  event t (unlessLoading (frameComes i (.loaded slot))) s

def execLoadFailed (t : Nat) (i : Fin 6) (slot : Nat) (s : State) : Host.Outcome State Fault Refusal :=
  event t (unlessLoading (frameComes i (.loadFailed slot))) s

def execSelected (t : Nat) (i : Fin 6) (slot : Nat) (s : State) : Host.Outcome State Fault Refusal :=
  event t (unlessLoading (frameComes i (.selected slot))) s

/-- A frame that fails its check (R113, R188), by the bytes that bring it to fail. -/
def execStationFrameBad (t : Nat) (input : RigBytes) (s : State) : Host.Outcome State Fault Refusal :=
  event t (unlessLoading (bytesCome input)) s

/-- More than 52 bit times between two bytes of a frame (R113, R188): the bytes before the gap, if any, and the gap, at the
instant at which it has passed. -/
def execStationFrameGap (t : Nat) (input : RigBytes) (s : State) : Host.Outcome State Fault Refusal :=
  event t (unlessLoading fun s => gapComes input.station (bytesCome input s)) s

def execLoadTimeout (i : Fin 6) (s : State) : Host.Outcome State Fault Refusal := selfTimed (loadDue i) (loadTimesOut i) s

def execSelectTimeout (i : Fin 6) (s : State) : Host.Outcome State Fault Refusal :=
  selfTimed (selectDue i) (selectTimesOut i) s

def execStationSend (t : Nat) (i : Fin 6) (s : State) : Host.Outcome State Fault Refusal :=
  event t (unlessLoading (sendNext i)) s

def execStationFrameSent (i : Fin 6) (s : State) : Host.Outcome State Fault Refusal :=
  selfTimed (frameEndDue i) (frameEnds i) s

end Sys2Proof.Machine
end

