-- ==== Sys2Proof/Machine/Show.lean ====
section
/-! DEFINITION. The commands of the show: standby, GO, hold, stop and resume from host and desk, the clock's and the
follower's commands and their settings (01, 02, 05, 08). -/

namespace Sys2Proof.Machine

open Sys2Proof

/-- The status of a refused GO or STANDBY (R182). -/
def GoReason.status : GoReason → Status
  | .noStandby => .noStandby
  | .endOfList => .endOfList
  | .wrongState => .wrongState
  | .stopAsserted => .stopAsserted

/-! ## Requests of the Cue Sequencer -/

/-- STANDBY (R93). -/
def reqStandby (s : State) : State × Answer :=
  match standbyTest s with
  | .error why => (s, refuse why.status)
  | .ok n =>
    (setLatch n s,
      okWith (.cue (some n) :: ((findCue s.store.cues n).map fun c => triggerItems c.trigger).getD []))

/-- CANCEL STANDBY (R94). -/
def reqCancelStandby (s : State) : State × Answer :=
  (withdrawLatch s, okWith [.flag s.seq.latch.isSome, .cue s.seq.latch])

/-- The items of an accepted GO (R96). -/
def goItems : GoDone → List Item
  | .fired n => [.num 1 0, .cue (some n)]
  | .holdCancelled => [.num 1 1, .cue none]
  | .holdCountIn => [.num 1 2, .cue none]
  | .resumeCountIn => [.num 1 3, .cue none]

/-- The answer to a host GO (R96). -/
def goAnswer : Except GoReason GoDone → Answer
  | .error why => refuse why.status
  | .ok d => okWith (goItems d)

/-- Host GO (R96). -/
def reqGo (s : State) : State × Answer :=
  let r := takeGo .hostGo s
  (r.1, goAnswer r.2)

/-- JUMP is taken in RUN, HOLDING and HELD (R92). -/
def jumpAllowed (s : State) : Bool := s.stop.st.fires || s.stop.st == .held

/-- JUMP (R92). -/
def reqJump (n : CueNo) (s : State) : State × Answer :=
  if !cueNoOk n then (s, refuse .range)
  else if !jumpAllowed s then (s, refuse .wrongState)
  else if (findCue s.store.cues n).isNone then (s, refuse .notFound)
  else
    let s := takeJump n s
    (s, okWith [.cue (nextCue s), .cue s.seq.current])

/-- SHOW SET (R107). -/
def reqShowSet (f : RawShowSet) (s : State) : State × Answer :=
  if s.storing ∧ RawShowSet.selects f then (s, { status := .busy, body := showItems s.seq.settings })
  else match readShowSet f s.seq.settings with
    | none => (s, { status := .range, body := showItems s.seq.settings })
    | some x =>
      let done := s.setSeq fun q => { q with settings := x }
      (if x.lookAhead = s.seq.settings.lookAhead then done else handOver done, okWith (showItems x))

/-- SHOW GET (R108). -/
def reqShowGet (s : State) : State × Answer := (s, okWith (showGetItems s))

/-! ## Requests of the Stop Controller -/

/-- Host HOLD (R158). -/
def reqHold (s : State) : State × Answer :=
  let r := takeHold s
  (r.1, { status := if r.2 then .ok else .wrongState, body := stopItems r.1 })

/-- Host STOP (R162, R164). -/
def reqStop (s : State) : State × Answer :=
  let s := takeStop .host s
  (s, okWith (stopItems s))

/-- RESUME POINT (R165). -/
def reqResumePoint (n : CueNo) (bar : Option Nat) (s : State) : State × Answer :=
  if !cueNoOk n || !(bar.map barOk).getD true then (s, { status := .range, body := stopItems s })
  else if !(s.stop.st == .stopped || s.stop.st.rebuilds) then (s, { status := .wrongState, body := stopItems s })
  else match findCue s.store.cues n with
    | none => (s, { status := .notFound, body := stopItems s })
    | some c =>
      let s := takeResumePoint bar c s
      (s, okWith (stopItems s))

/-! ## Requests of the Beat Clock -/

/-- VAMP RELEASE (R22). -/
def reqVampRelease (s : State) : State × Answer :=
  match s.clock.vamp with
  | none => (s, refuse .notFound)
  | some v => (s.setClock fun c => { c with vamp := some { v with release := true } }, okWith [])

/-- The C now in force (R7). -/
def leadItems (s : State) : List Item := [.num 3 s.clock.lead]

/-- An accepted CLOCK SET: beat u commits at once where its commit time is past (R7). -/
def setLead (lead : Nat) (s : State) : State := afterCommit (commitIfDue (s.setClock fun c => { c with lead := lead }))

/-- CLOCK SET (R7, R87). -/
def reqClockSet (lead : Option Nat) (s : State) : State × Answer :=
  match lead with
  | none => (s, okWith (leadItems s))
  | some c =>
    if s.storing then (s, refuse .busy)
    else if Config.maxLead < c then (s, refuse .range)
    else (setLead c s, okWith [.num 3 c])

/-- POSITION GET (R26). -/
def reqPositionGet (s : State) : State × Answer := (s, okWith (positionItems s))

/-! ## Requests of the Conductor Follower -/

/-- What a write of the time constant does besides (R49). -/
def adaptiveChange (old new : TimeConstant) (f : Follower) : Follower :=
  if old = new then f
  else if new = .adaptive then { f with active := .normal, fastLeft := 0, push := none }
  else if old = .adaptive then { f with fastLeft := 0, push := none }
  else f

/-- FOLLOW SET (R49, R87). -/
def reqFollowSet (x : RawFollowSet) (s : State) : State × Answer :=
  if s.storing ∧ RawFollowSet.selects x then (s, { status := .busy, body := followItems s.follower.settings })
  else match readFollowSet x s.follower.settings with
    | none => (s, { status := .range, body := followItems s.follower.settings })
    | some new =>
      (judgeWindow (s.setFollower fun f =>
        { adaptiveChange f.settings.constant new.constant f with settings := new }), okWith (followItems new))

/-- FOLLOW GET (R50). -/
def reqFollowGet (s : State) : State × Answer := (s, okWith (followGetItems s))

/-! ## Desk -/

/-- A desk line takes a level (R95, R157). -/
def State.setDesk (f : Desk → Desk) (s : State) : State := { s with desk := f s.desk }

/-- The debounced level of a desk line (R95, R157). -/
def Desk.level (d : Desk) : DeskLine → Bool
  | .stby => d.stby
  | .go => d.go
  | .hold => d.hold
  | .stop => d.stop

/-- A desk line takes a debounced level. -/
def Desk.take (level : Bool) (line : DeskLine) (d : Desk) : Desk :=
  match line with
  | .stby => { d with stby := level }
  | .go => { d with go := level }
  | .hold => { d with hold := level }
  | .stop => { d with stop := level }

/-- A desk line has been asserted: once it has held that for 10,000 µs its debounced level is asserted. A change to that
level is an asserting edge, ignored during the power-on load; a line whose level was asserted already gives none (R95,
R157). -/
def deskEdge (line : DeskLine) (held : Nat) (f : State → State) (s : State) : State :=
  if s.hasHeld Config.deskDebounce held && !s.desk.level line then unlessLoading f (s.setDesk (Desk.take true line))
  else s

/-- A refused desk edge raises GO_REFUSED (R103). -/
def goRefused (line : GoLine) (why : GoReason) (s : State) : State := raise (.goRefused why line) s

/-- Desk STBY (R93, R95). -/
def deskStandby (s : State) : State :=
  match standbyTest s with
  | .error why => goRefused .stby why s
  | .ok n => setLatch n s

/-- Desk GO (R96). -/
def deskGo (s : State) : State :=
  let r := takeGo .deskGo s
  match r.2 with
  | .error why => goRefused .go why r.1
  | .ok _ => r.1

/-! ## The commands -/

def execStandby (t : Nat) (s : State) : Host.Outcome State Fault Refusal := request t false reqStandby s

def execCancelStandby (t : Nat) (s : State) : Host.Outcome State Fault Refusal := request t false reqCancelStandby s

def execGo (t : Nat) (s : State) : Host.Outcome State Fault Refusal := request t false reqGo s

def execJump (t : Nat) (n : CueNo) (s : State) : Host.Outcome State Fault Refusal := request t false (reqJump n) s

def execHold (t : Nat) (s : State) : Host.Outcome State Fault Refusal := request t false reqHold s

def execStop (t : Nat) (s : State) : Host.Outcome State Fault Refusal := request t false reqStop s

def execResumePoint (t : Nat) (n : CueNo) (bar : Option Nat) (s : State) : Host.Outcome State Fault Refusal :=
  request t false (reqResumePoint n bar) s

def execVampRelease (t : Nat) (s : State) : Host.Outcome State Fault Refusal := request t false reqVampRelease s

def execShowSet (t : Nat) (f : RawShowSet) (s : State) : Host.Outcome State Fault Refusal :=
  request t false (reqShowSet f) s

def execShowGet (t : Nat) (s : State) : Host.Outcome State Fault Refusal := request t false reqShowGet s

def execFollowSet (t : Nat) (f : RawFollowSet) (s : State) : Host.Outcome State Fault Refusal :=
  request t false (reqFollowSet f) s

def execFollowGet (t : Nat) (s : State) : Host.Outcome State Fault Refusal := request t false reqFollowGet s

def execClockSet (t : Nat) (lead : Option Nat) (s : State) : Host.Outcome State Fault Refusal :=
  request t false (reqClockSet lead) s

def execPositionGet (t : Nat) (s : State) : Host.Outcome State Fault Refusal := request t false reqPositionGet s

def execDeskStbyEdge (t held : Nat) (s : State) : Host.Outcome State Fault Refusal :=
  event t (deskEdge .stby held deskStandby) s

def execDeskGoEdge (t held : Nat) (s : State) : Host.Outcome State Fault Refusal :=
  event t (deskEdge .go held deskGo) s

/-- Desk HOLD; one that is ignored raises nothing (R158). -/
def execDeskHoldEdge (t held : Nat) (s : State) : Host.Outcome State Fault Refusal :=
  event t (deskEdge .hold held fun s => (takeHold s).1) s

def execDeskStopEdge (t held : Nat) (s : State) : Host.Outcome State Fault Refusal :=
  event t (deskEdge .stop held (takeStop .desk)) s

def execDeskLineRelease (t : Nat) (line : DeskLine) (held : Nat) (s : State) : Host.Outcome State Fault Refusal :=
  event t (fun s => if s.hasHeld Config.deskDebounce held then s.setDesk (Desk.take false line) else s) s

/-- An asserting edge of BEAT is a pulse after 2,000 µs of deassertion, counted from the internal reset at the earliest
(R27). -/
def execBeatPulse (t quiet : Nat) (s : State) : Host.Outcome State Fault Refusal :=
  event t (fun s => if s.hasHeld Config.beatDebounce quiet then afterCommit (takePulse s) else s) s

def execBeatCommit (s : State) : Host.Outcome State Fault Refusal :=
  selfTimed commitDue (fun s => afterCommit (commitScheduled s)) s

def execWindowClose (s : State) : Host.Outcome State Fault Refusal := selfTimed windowCloseDue closeWindow s

def execFollowTimerExpiry (s : State) : Host.Outcome State Fault Refusal := selfTimed timerDue timerExpires s

end Sys2Proof.Machine
end

