-- ==== Sys2Proof/Machine/Wire.lean ====
section
/-! DEFINITION. The bytes of the Show Link: items of a reply, the CRC, reply frames, and the layouts of the request
payloads (R175, R181 to R183, R187). -/

namespace Sys2Proof.Machine

open Sys2Proof

/-! ## Replies -/

/-- The bytes of an item (R187): an absent value is the largest its bytes can hold, a cue number of none has the whole
part 0. DESIGN CHOICE: it has the point part 0 too, which R187 leaves open (log 10). -/
def Item.bytes : Item → List Byte
  | .num w v => natBytes w v
  | .opt w none => List.replicate w 0xFF
  | .opt w (some v) => natBytes w v
  | .signed w v => intBytes w v
  | .flag b => [if b then 1 else 0]
  | .cue none => [0, 0, 0]
  | .cue (some n) => natBytes 2 n.whole ++ natBytes 1 n.point
  | .text chars => natBytes 1 chars.length ++ chars

/-- The value of a status (R182). -/
def Status.code : Status → Nat
  | .ok => 0 | .badKind => 1 | .badLength => 2 | .range => 3 | .notFound => 4 | .isProtected => 5 | .keyLocked => 6
  | .busy => 7 | .wrongState => 8 | .noStandby => 9 | .endOfList => 10 | .poolFull => 11 | .tableFull => 12
  | .stopAsserted => 13

/-- One bit of the CRC register: x^16 + x^12 + x^5 + 1, most significant bit first (R175). -/
def crcBit (c : BitVec 16) : BitVec 16 := if c.msb then (c <<< 1) ^^^ 0x1021#16 else c <<< 1

/-- The CRC register after one byte: its eight bits are taken in turn (R175). -/
def crcByte (c : BitVec 16) (b : Byte) : BitVec 16 := crcBit^[8] (c ^^^ (b.zeroExtend 16 <<< 8))

/-- The CRC over some bytes, from 0xFFFF (R175). -/
def crc (bs : List Byte) : BitVec 16 := bs.foldl crcByte 0xFFFF#16

/-- A frame around a payload: start byte, length, tag, kind, payload, CRC (R175). -/
def frameBytes (tag kind : Byte) (payload : List Byte) : List Byte :=
  let covered := natBytes 2 payload.length ++ [tag, kind] ++ payload
  (0x7E : Byte) :: covered ++ natBytes 2 (crc covered).toNat

/-- The payload of a reply: status, attention summary, body (R182). -/
def Reply.payload (r : Reply) : List Byte :=
  natBytes 1 r.status.code ++ natBytes 1 r.summary ++ r.body.flatMap Item.bytes

/-- The frame of the reply to a request: the same tag, the kind plus 0x80 modulo 256 (R181). -/
def replyBytes (f : Frame) (r : Reply) : List Byte := frameBytes f.tag (f.kind + 0x80) r.payload

/-! ## Request payloads -/

/-- A reader of a payload: what it read and the rest, or none where the bytes run out (R187). -/
abbrev Reader (α : Type) := StateT (List Byte) Option α

/-- A number of `w` bytes. -/
def readNum (w : Nat) : Reader Nat := fun bs =>
  if bs.length < w then none else some (bytesNat (bs.take w), bs.drop w)

/-- A number of `w` bytes whose largest value stands for its absence. -/
def readOpt (w : Nat) : Reader (Option Nat) := do
  let n ← readNum w
  return if n = 256 ^ w - 1 then none else some n

/-- A level in two's complement. -/
def readSigned : Reader Int := do
  let n ← readNum 1
  return byteInt (BitVec.ofNat 8 n)

def readCueNo : Reader CueNo := do
  let whole ← readNum 2
  let point ← readNum 1
  return { whole, point }

/-- Characters behind a count byte. -/
def readText : Reader (List Byte) := do
  let n ← readNum 1
  fun bs => if bs.length < n then none else some (bs.take n, bs.drop n)

/-- `n` items in a row. -/
def readMany {α : Type} (r : Reader α) : Nat → Reader (List α)
  | 0 => return []
  | n + 1 => do
    let a ← r
    let l ← readMany r n
    return a :: l

/-- A list behind a count byte. -/
def readList {α : Type} (r : Reader α) : Reader (List α) := do
  let n ← readNum 1
  readMany r n

/-- A part that is there when its presence bit is set. -/
def readIf {α : Type} (there : Bool) (r : Reader α) : Reader (Option α) := do
  if there then
    let a ← r
    return some a
  else return none

def readTempoPart : Reader RawTempo := do
  let mode ← readNum 1
  let bpm10 ← readNum 2
  let meter ← readNum 1
  let band ← readNum 1
  let countIn ← readNum 1
  return { mode, bpm10, meter, band, countIn }

def readRampPart : Reader Ramp := do
  let target ← readNum 2
  let bars ← readNum 1
  return { target, bars }

def readVampPart : Reader VampBars := do
  let first ← readNum 2
  let last ← readNum 2
  return { first, last }

def readPatchPart : Reader PatchAction := do
  let station ← readNum 1
  let patch ← readNum 2
  return { station, patch }

def readClickPart : Reader RawClick := do
  let channel ← readNum 1
  let on ← readNum 1
  let sub ← readNum 1
  return { channel, on, sub }

/-- A cue record (R187). -/
def readCueRecord : Reader RawCue := do
  let number ← readCueNo
  let kind ← readNum 1
  let word ← readNum 2
  let beat ← readNum 1
  let presence ← readNum 1
  let tempo ← readIf (presence.testBit 0) readTempoPart
  let ramp ← readIf (presence.testBit 1) readRampPart
  let barSet ← readIf (presence.testBit 2) (readNum 2)
  let vamp ← readIf (presence.testBit 3) readVampPart
  let caption ← readIf (presence.testBit 4) readText
  let patches ← readList readPatchPart
  let clicks ← readList readClickPart
  return { number, kind, word, beat, presence, tempo, ramp, barSet, vamp, caption, patches, clicks }

/-- A field of a masked request: present where its mask bit is set (00 section 3.7). -/
def fieldAt {α : Type} (mask k : Nat) (a : α) : Option α := if mask.testBit k then some a else none

def readShowFields : Reader RawShowSet := do
  let mask ← readNum 1
  let a ← readNum 1
  let b ← readNum 1
  let c ← readNum 2
  let d ← readNum 1
  let e ← readNum 1
  return { standbyRequired := fieldAt mask 0 a, lookAhead := fieldAt mask 1 b, lateThreshold := fieldAt mask 2 c,
           resumeCountIn := fieldAt mask 3 d, holdCountIn := fieldAt mask 4 e }

def readFollowFields : Reader RawFollowSet := do
  let mask ← readNum 1
  let a ← readNum 1
  let b ← readNum 1
  let c ← readNum 1
  return { window := fieldAt mask 0 a, constant := fieldAt mask 1 b, m := fieldAt mask 2 c }

def readChannelFields : Reader RawChannelSet := do
  let mask ← readNum 1
  let a ← readNum 1
  let b ← readSigned
  let c ← readNum 3
  let d ← readNum 1
  let e ← readNum 1
  let f ← readNum 1
  return { accent := fieldAt mask 0 a, level := fieldAt mask 1 b, lead := fieldAt mask 2 c,
           countIn := fieldAt mask 3 d, toneSet := fieldAt mask 4 e, override := fieldAt mask 5 f }

def readVideoFields : Reader RawVideoSet := do
  let mask ← readNum 2
  let a ← readNum 1
  let b ← readNum 1
  let c ← readNum 3
  let d ← readNum 1
  let e ← readNum 1
  let f ← readNum 1
  let g ← readNum 1
  let h ← readNum 1
  let i ← readNum 1
  return { rate := fieldAt mask 0 a, constant := fieldAt mask 1 b, delay := fieldAt mask 2 c,
           pitElements := fieldAt mask 3 d, stageElements := fieldAt mask 4 e, pitStyle := fieldAt mask 5 f,
           stageStyle := fieldAt mask 6 g, pitLength := fieldAt mask 7 h, stageLength := fieldAt mask 8 i }

def readStationFields : Reader RawStationSet := do
  let mask ← readNum 1
  let a ← readNum 1
  let b ← readOpt 2
  return { excluded := fieldAt mask 0 a, lateOverride := fieldAt mask 1 b }

/-- A payload that may be empty, or holds one number of `w` bytes. -/
def readMaybe (w : Nat) : Reader (Option Nat) := fun bs =>
  if bs.isEmpty then some (none, bs) else (do let n ← readNum w; return some n : Reader (Option Nat)) bs

/-- The layout of the payload of each request kind, as the request it spells at show time `t`; none for a kind that no
request has (R183). -/
def kindReader (t : Nat) : Nat → Option (Reader Instr)
  | 0x01 => some (return .identify t)
  | 0x02 => some (return .restartShow t)
  | 0x10 => some (do let c ← readCueRecord; return .cuePut t c)
  | 0x11 => some (do let n ← readCueNo; return .cueDelete t n)
  | 0x12 => some (do let v ← readNum 1; let n ← readCueNo; return .cueGet t v n)
  | 0x13 => some (do let n ← readCueNo; let m ← readNum 1; let c ← readNum 1; return .cueList t n m c)
  | 0x18 => some (do
      let st ← readNum 1
      let p ← readNum 2
      let b ← readNum 2
      let g ← readNum 1
      let l ← readNum 2
      return .mapPut t st p b g l)
  | 0x19 => some (do let st ← readNum 1; let p ← readNum 2; return .mapDelete t st p)
  | 0x1A => some (do let st ← readNum 1; let p ← readNum 2; return .mapGet t st p)
  | 0x1C => some (do
      let m ← readNum 1
      let lo ← readCueNo
      let hi ← readCueNo
      let k ← readNum 1
      return .protectSet t m lo hi k)
  | 0x1D => some (return .protectGet t)
  | 0x1E => some (return .store t)
  | 0x20 => some (return .standby t)
  | 0x21 => some (return .cancelStandby t)
  | 0x22 => some (return .go t)
  | 0x23 => some (do let n ← readCueNo; return .jump t n)
  | 0x24 => some (return .hold t)
  | 0x25 => some (return .stop t)
  | 0x26 => some (do let n ← readCueNo; let b ← readOpt 2; return .resumePoint t n b)
  | 0x27 => some (return .vampRelease t)
  | 0x30 => some (do let f ← readShowFields; return .showSet t f)
  | 0x31 => some (return .showGet t)
  | 0x32 => some (do let f ← readFollowFields; return .followSet t f)
  | 0x33 => some (return .followGet t)
  | 0x34 => some (do let c ← readMaybe 3; return .clockSet t c)
  | 0x35 => some (return .positionGet t)
  | 0x38 => some (do let ch ← readNum 1; let f ← readChannelFields; return .channelSet t ch f)
  | 0x39 => some (do let ch ← readNum 1; return .channelGet t ch)
  | 0x3C => some (do let f ← readVideoFields; return .videoSet t f)
  | 0x3D => some (return .videoGet t)
  | 0x40 => some (do let st ← readNum 1; let f ← readStationFields; return .stationSet t st f)
  | 0x41 => some (do let st ← readNum 1; return .stationGet t st)
  | 0x42 => some (do let st ← readNum 1; let p ← readNum 2; return .stationPin t st p)
  | 0x43 => some (do let st ← readNum 1; let p ← readNum 2; return .stationUnpin t st p)
  | 0x44 => some (do let st ← readNum 1; return .stationFlush t st)
  | 0x45 => some (do let st ← readNum 1; return .stationReset t st)
  | 0x46 => some (do let st ← readNum 1; return .faultGet t st)
  | 0x47 => some (do let st ← readNum 1; return .faultClear t st)
  | 0x50 => some (do let n ← readMaybe 1; return .attentionQuery t n)
  | 0x51 => some (return .attentionPeek t)
  | 0x52 => some (do let m ← readNum 2; return .attentionEnable t m)
  | _ => none

/-- The request a frame spells, or the refusal of R181's first two tests. -/
def readRequest (t : Nat) (f : Frame) : Except Status Instr :=
  match kindReader t f.kind.toNat with
  | none => .error .badKind
  | some r =>
    match r f.payload with
    | some (i, []) => .ok i
    | _ => .error .badLength

/-! ## The receive framer (R175, R176) -/

/-- What the framer comes to at a byte. -/
inductive FrameEvent
  | complete (f : Frame)
  | crcDiscard
  | lengthDiscard
deriving DecidableEq, Repr

/-- The bytes taken since the start byte, with one more (R175, R176). -/
def frameStep (g : List Byte) : Framed FrameEvent :=
  let len := bytesNat (g.take 2)
  if g.length < 2 then .goes (some g)
  else if Config.maxPayload < len then .comes .lengthDiscard g
  else if g.length < len + 6 then .goes (some g)
  else if (crc (g.take (len + 4))).toNat = bytesNat (g.drop (len + 4)) then
    .comes (.complete { tag := g.getD 2 0, kind := g.getD 3 0, payload := (g.drop 4).take len }) []
  else .comes .crcDiscard g

/-- What one byte does in the framer's present state: in HUNT only a start byte is taken (R175). -/
def takeOne (got : Option (List Byte)) (b : Byte) : Framed FrameEvent :=
  match got with
  | none => .goes (if b = 0x7E then some [] else none)
  | some g => frameStep (g ++ [b])

/-- The framer takes one received byte. -/
def feedByte (got : Option (List Byte)) (b : Byte) : Option (List Byte) × List FrameEvent :=
  feed takeOne (feedFuel ((got.map List.length).getD 0 + 1)) got [b]

end Sys2Proof.Machine
end

