-- ==== Sys2Proof/Machine/Link.lean ====
section
/-! DEFINITION. The Show Link Interface: the line, the framer, breaks, the request queue, requests taken from it and
replies, IDENTIFY and RESTART SHOW; power (09, R174 to R186; R86). -/

namespace Sys2Proof.Machine

open Sys2Proof

def State.setLink (f : Link → Link) (s : State) : State := { s with link := f s.link }

/-- One of the five counts rises by 1 (R180). -/
def Link.count (c : LinkCount) (l : Link) : Link :=
  match c with
  | .gap => { l with gaps := satInc Config.maxCount16 l.gaps }
  | .crc => { l with crcs := satInc Config.maxCount16 l.crcs }
  | .length => { l with lengths := satInc Config.maxCount16 l.lengths }
  | .overflow => { l with overflows := satInc Config.maxCount16 l.overflows }
  | .break_ => { l with breaks := satInc Config.maxCount16 l.breaks }

/-- An event that raises a count raises LINK_ERROR (R180, R195). -/
def linkError (c : LinkCount) (s : State) : State := raise (.linkError c) (s.setLink (Link.count c))

/-- A complete, intact frame arrives (R179). -/
def arrive (f : Frame) (s : State) : State :=
  if s.link.queue.length < Config.maxQueue then s.setLink fun l => { l with queue := l.queue ++ [f] }
  else linkError .overflow s

/-- What the framer has come to (R175, R176). -/
def takeFrameEvent (s : State) : FrameEvent → State
  | .complete f => arrive f s
  | .crcDiscard => linkError .crc s
  | .lengthDiscard => linkError .length s

/-- A byte is received; during a break none is (R175, R178). -/
def receiveByte (b : Byte) (s : State) : State :=
  if s.link.inBreak then s
  else
    let r := feedByte s.link.got b
    r.2.foldl takeFrameEvent (s.setLink fun l => { l with got := r.1, lastByte := s.now })

/-- A whole frame has been received with a good CRC (R175, R176). DESIGN CHOICE: a frame that was in reception is dropped
uncounted, its bytes not examined again (log 38). -/
def receiveFrame (f : Frame) (s : State) : State :=
  if s.link.inBreak then s
  else
    let s := s.setLink fun l => { l with got := none, lastByte := s.now }
    if f.payload.length ≤ Config.maxPayload then arrive f s else linkError .length s

/-- The show time at which the gap of a frame in reception expires (R177). -/
def gapDue (s : State) : Option Nat := s.link.got.map fun _ => s.link.lastByte + bitTimes 52 s.link.rate.baud

/-- The gap expires (R177). -/
def gapExpires (s : State) : State := linkError .gap (s.setLink fun l => { l with got := none })

/-- A break is declared; it counts once however long it lasts (R178). -/
def declareBreak (s : State) : State :=
  if s.link.inBreak then s
  else linkError .break_ (s.setLink fun l => { l with got := none, queue := [], inBreak := true })

/-- The line has returned to the mark level (R178). -/
def endBreak (s : State) : State := s.setLink fun l => { l with inBreak := false }

/-! ## RESTART SHOW and IDENTIFY -/

/-- IDENTIFY (R184). -/
def reqIdentify (s : State) : State × Answer := (s, okWith (identifyItems s))

/-- RESTART SHOW (R185): the Station Controller before the Cue Sequencer, and the Attention Unit last, so that the
restarts of the other blocks leave no condition raised (R190, log 20). -/
def restartShow (s : State) : State :=
  let s := clockRestart (stopRestart s)
  let s := videoRestart { s with channels := s.channels.map restartChannel }
  attentionRestart (sequencerRestart (eachStation stationRestart s))

/-- RESTART SHOW. -/
def reqRestartShow (s : State) : State × Answer := (restartShow s, okWith [])

/-! ## Requests taken from the queue -/

/-- The request that a command spells: whether it is served during the power-on load, and its owning block's answer
(R181, R183). -/
def requestOf : Instr → Option (Bool × (State → State × Answer))
  | .identify _ => some (true, reqIdentify)
  | .restartShow _ => some (false, reqRestartShow)
  | .cuePut _ c => some (false, reqCuePut c)
  | .cueDelete _ n => some (false, reqCueDelete n)
  | .cueGet _ v n => some (false, reqCueGet v n)
  | .cueList _ n m c => some (false, reqCueList n m c)
  | .mapPut _ st p b g l => some (false, reqMapPut st p b g l)
  | .mapDelete _ st p => some (false, reqMapDelete st p)
  | .mapGet _ st p => some (false, reqMapGet st p)
  | .protectSet _ m lo hi k => some (false, reqProtectSet m lo hi k)
  | .protectGet _ => some (false, reqProtectGet)
  | .store _ => some (false, reqStore)
  | .standby _ => some (false, reqStandby)
  | .cancelStandby _ => some (false, reqCancelStandby)
  | .go _ => some (false, reqGo)
  | .jump _ n => some (false, reqJump n)
  | .hold _ => some (false, reqHold)
  | .stop _ => some (false, reqStop)
  | .resumePoint _ n b => some (false, reqResumePoint n b)
  | .vampRelease _ => some (false, reqVampRelease)
  | .showSet _ f => some (false, reqShowSet f)
  | .showGet _ => some (false, reqShowGet)
  | .followSet _ f => some (false, reqFollowSet f)
  | .followGet _ => some (false, reqFollowGet)
  | .clockSet _ c => some (false, reqClockSet c)
  | .positionGet _ => some (false, reqPositionGet)
  | .channelSet _ ch f => some (false, reqChannelSet ch f)
  | .channelGet _ ch => some (false, reqChannelGet ch)
  | .videoSet _ f => some (false, reqVideoSet f)
  | .videoGet _ => some (false, reqVideoGet)
  | .stationSet _ st f => some (false, stationRequest st (reqStationSet f))
  | .stationGet _ st => some (false, stationRequest st reqStationGet)
  | .stationPin _ st p => some (false, stationRequest st (reqStationPin p))
  | .stationUnpin _ st p => some (false, stationRequest st (reqStationUnpin p))
  | .stationFlush _ st => some (false, stationRequest st reqStationFlush)
  | .stationReset _ st => some (false, stationRequest st reqStationReset)
  | .faultGet _ st => some (false, stationRequest st reqFaultGet)
  | .faultClear _ st => some (false, stationRequest st reqFaultClear)
  | .attentionQuery _ n => some (true, reqAttentionQuery n)
  | .attentionPeek _ => some (true, reqAttentionPeek)
  | .attentionEnable _ m => some (false, reqAttentionEnable m)
  | _ => none

/-- A taken frame is tested (R181) and answered by its owning block. -/
def answerFrame (f : Frame) (s : State) : State × Answer :=
  match readRequest s.now f with
  | .error why => (s, refuse why)
  | .ok i =>
    match requestOf i with
    | some r => takeRequest r.1 r.2 s
    | none => (s, refuse .badKind)

/-- A formed reply is given to the transmitter, which begins to send it as soon as it is free (R179). -/
def giveReply (bytes : List Byte) (s : State) : State :=
  s.setLink fun l =>
    match l.sending with
    | none => { l with sending := some (bytes, s.now) }
    | some _ => { l with waiting := some bytes }

/-- The oldest frame is taken and answered (R179, R181, R182). -/
def takeFrame (f : Frame) (s : State) : State :=
  let r := answerFrame f s
  giveReply (replyBytes f (formReply r.2 r.1)) (keepReply r)

/-- A request is taken when no formed reply is waiting (R179). -/
def takeOldest (s : State) : State :=
  match s.link.waiting, s.link.queue with
  | none, f :: fs => takeFrame f (s.setLink fun l => { l with queue := fs })
  | _, _ => s

/-- The show time at which the reply being sent has ended (R174). -/
def replyDue (s : State) : Option Nat :=
  s.link.sending.map fun r => r.2 + bitTimes (10 * r.1.length) s.link.rate.baud

/-- The reply being sent has ended; one that waits begins to be sent (R179). -/
def replyEnds (s : State) : State :=
  s.setLink fun l => { l with sending := l.waiting.map fun b => (b, s.now), waiting := none }

/-! ## Power -/

/-- The part at power-on: what the flash holds, and the commands still to come, stay (R186). -/
def powerOn (lrate1 lrate0 : Bool) (s : State) : State :=
  State.leavingReset s.pending s.flash (lineRate lrate1 lrate0)

/-- The image area when power is lost: a store in progress leaves the marker absent, unless it had been written (R86). -/
def flashAtLoss (markerWritten : Bool) (s : State) : FlashArea :=
  match s.store.job with
  | none => s.flash
  | some j => if j.stage = .mark ∧ markerWritten then { s.flash with marker := true } else { s.flash with marker := false }

/-- Power is lost: nothing but the flash is kept (R86). -/
def losePower (markerWritten : Bool) (s : State) : State :=
  { State.leavingReset s.pending (flashAtLoss markerWritten s) s.link.rate with powered := false }

/-! ## The commands -/

def execPowerOn (lrate1 lrate0 : Bool) (s : State) : Host.Outcome State Fault Refusal := .next (powerOn lrate1 lrate0 s)

def execPowerLost (markerWritten : Bool) (s : State) : Host.Outcome State Fault Refusal :=
  whenPowered (losePower markerWritten) s

def execRequestFrameReceived (t : Nat) (tag kind : Byte) (payload : List Byte) (s : State) :
    Host.Outcome State Fault Refusal :=
  event t (receiveFrame { tag := tag, kind := kind, payload := payload }) s

def execReceivedByte (t : Nat) (b : Byte) (s : State) : Host.Outcome State Fault Refusal := event t (receiveByte b) s

def execGapTimeout (s : State) : Host.Outcome State Fault Refusal := selfTimed gapDue gapExpires s

def execBreakDeclared (t : Nat) (s : State) : Host.Outcome State Fault Refusal := event t declareBreak s

def execLineReturnedToMark (t : Nat) (s : State) : Host.Outcome State Fault Refusal := event t endBreak s

def execRequestTaken (t : Nat) (s : State) : Host.Outcome State Fault Refusal := event t takeOldest s

def execReplySent (s : State) : Host.Outcome State Fault Refusal := selfTimed replyDue replyEnds s

def execIdentify (t : Nat) (s : State) : Host.Outcome State Fault Refusal := request t true reqIdentify s

def execRestartShow (t : Nat) (s : State) : Host.Outcome State Fault Refusal := request t false reqRestartShow s

end Sys2Proof.Machine
end

