-- ==== Sys2Proof/Machine/Dispatch.lean ====
section
/-! DEFINITION. The dispatch of the commands: one arm for each row of spec/opcode_table.json. -/

namespace Sys2Proof.Machine

open Sys2Proof

def exec (i : Instr) (s : State) : Host.Outcome State Fault Refusal :=
  match i with
  | .powerOn lrate1 lrate0 => Sys2Proof.Machine.execPowerOn lrate1 lrate0 s
  | .imageLoadEnd t answer => Sys2Proof.Machine.execImageLoadEnd t answer s
  | .requestFrameReceived t tag kind payload => Sys2Proof.Machine.execRequestFrameReceived t tag kind payload s
  | .gapTimeout => Sys2Proof.Machine.execGapTimeout s
  | .breakDeclared t => Sys2Proof.Machine.execBreakDeclared t s
  | .requestTaken t => Sys2Proof.Machine.execRequestTaken t s
  | .replySent => Sys2Proof.Machine.execReplySent s
  | .identify t => Sys2Proof.Machine.execIdentify t s
  | .restartShow t => Sys2Proof.Machine.execRestartShow t s
  | .cuePut t cue => Sys2Proof.Machine.execCuePut t cue s
  | .cueDelete t n => Sys2Proof.Machine.execCueDelete t n s
  | .cueGet t view n => Sys2Proof.Machine.execCueGet t view n s
  | .cueList t n start count => Sys2Proof.Machine.execCueList t n start count s
  | .mapPut t station patch bank program load => Sys2Proof.Machine.execMapPut t station patch bank program load s
  | .mapDelete t station patch => Sys2Proof.Machine.execMapDelete t station patch s
  | .mapGet t station patch => Sys2Proof.Machine.execMapGet t station patch s
  | .protectSet t mode lo hi keyLock => Sys2Proof.Machine.execProtectSet t mode lo hi keyLock s
  | .protectGet t => Sys2Proof.Machine.execProtectGet t s
  | .store t => Sys2Proof.Machine.execStore t s
  | .flashEraseDone t => Sys2Proof.Machine.execFlashEraseDone t s
  | .flashProgramDone t => Sys2Proof.Machine.execFlashProgramDone t s
  | .flashVerifyDone t crcMatches => Sys2Proof.Machine.execFlashVerifyDone t crcMatches s
  | .flashMarkDone t readsBack => Sys2Proof.Machine.execFlashMarkDone t readsBack s
  | .flashError t => Sys2Proof.Machine.execFlashError t s
  | .storeTimeout => Sys2Proof.Machine.execStoreTimeout s
  | .standby t => Sys2Proof.Machine.execStandby t s
  | .cancelStandby t => Sys2Proof.Machine.execCancelStandby t s
  | .go t => Sys2Proof.Machine.execGo t s
  | .jump t n => Sys2Proof.Machine.execJump t n s
  | .hold t => Sys2Proof.Machine.execHold t s
  | .stop t => Sys2Proof.Machine.execStop t s
  | .resumePoint t n bar => Sys2Proof.Machine.execResumePoint t n bar s
  | .vampRelease t => Sys2Proof.Machine.execVampRelease t s
  | .showSet t fields => Sys2Proof.Machine.execShowSet t fields s
  | .showGet t => Sys2Proof.Machine.execShowGet t s
  | .followSet t fields => Sys2Proof.Machine.execFollowSet t fields s
  | .followGet t => Sys2Proof.Machine.execFollowGet t s
  | .clockSet t lead => Sys2Proof.Machine.execClockSet t lead s
  | .positionGet t => Sys2Proof.Machine.execPositionGet t s
  | .channelSet t channel fields => Sys2Proof.Machine.execChannelSet t channel fields s
  | .channelGet t channel => Sys2Proof.Machine.execChannelGet t channel s
  | .videoSet t fields => Sys2Proof.Machine.execVideoSet t fields s
  | .videoGet t => Sys2Proof.Machine.execVideoGet t s
  | .stationSet t station fields => Sys2Proof.Machine.execStationSet t station fields s
  | .stationGet t station => Sys2Proof.Machine.execStationGet t station s
  | .stationPin t station patch => Sys2Proof.Machine.execStationPin t station patch s
  | .stationUnpin t station patch => Sys2Proof.Machine.execStationUnpin t station patch s
  | .stationFlush t station => Sys2Proof.Machine.execStationFlush t station s
  | .stationReset t station => Sys2Proof.Machine.execStationReset t station s
  | .faultGet t station => Sys2Proof.Machine.execFaultGet t station s
  | .faultClear t station => Sys2Proof.Machine.execFaultClear t station s
  | .attentionQuery t condition => Sys2Proof.Machine.execAttentionQuery t condition s
  | .attentionPeek t => Sys2Proof.Machine.execAttentionPeek t s
  | .attentionEnable t mask => Sys2Proof.Machine.execAttentionEnable t mask s
  | .deskStbyEdge t held => Sys2Proof.Machine.execDeskStbyEdge t held s
  | .deskGoEdge t held => Sys2Proof.Machine.execDeskGoEdge t held s
  | .deskHoldEdge t held => Sys2Proof.Machine.execDeskHoldEdge t held s
  | .deskStopEdge t held => Sys2Proof.Machine.execDeskStopEdge t held s
  | .deskLineRelease t line held => Sys2Proof.Machine.execDeskLineRelease t line held s
  | .keyLevelChange t asserted held => Sys2Proof.Machine.execKeyLevelChange t asserted held s
  | .beatPulse t quiet => Sys2Proof.Machine.execBeatPulse t quiet s
  | .beatCommit => Sys2Proof.Machine.execBeatCommit s
  | .windowClose => Sys2Proof.Machine.execWindowClose s
  | .followTimerExpiry => Sys2Proof.Machine.execFollowTimerExpiry s
  | .burstStart channel => Sys2Proof.Machine.execBurstStart channel s
  | .burstEnd channel => Sys2Proof.Machine.execBurstEnd channel s
  | .lineSync t sub fieldStart => Sys2Proof.Machine.execLineSync t sub fieldStart s
  | .syncLossTimeout => Sys2Proof.Machine.execSyncLossTimeout s
  | .generatorFieldStart => Sys2Proof.Machine.execGeneratorFieldStart s
  | .missedInputField => Sys2Proof.Machine.execMissedInputField s
  | .presentAsserted t station held => Sys2Proof.Machine.execPresentAsserted t station held s
  | .presentDeasserted t station held => Sys2Proof.Machine.execPresentDeasserted t station held s
  | .queryRepeat station => Sys2Proof.Machine.execQueryRepeat station s
  | .hello t station slots => Sys2Proof.Machine.execHello t station slots s
  | .loaded t station slot => Sys2Proof.Machine.execLoaded t station slot s
  | .loadFailed t station slot => Sys2Proof.Machine.execLoadFailed t station slot s
  | .selected t station slot => Sys2Proof.Machine.execSelected t station slot s
  | .stationFrameBad t input => Sys2Proof.Machine.execStationFrameBad t input s
  | .stationFrameGap t input => Sys2Proof.Machine.execStationFrameGap t input s
  | .loadTimeout station => Sys2Proof.Machine.execLoadTimeout station s
  | .selectTimeout station => Sys2Proof.Machine.execSelectTimeout station s
  | .stationSend t station => Sys2Proof.Machine.execStationSend t station s
  | .stationFrameSent station => Sys2Proof.Machine.execStationFrameSent station s
  | .receivedByte t b => Sys2Proof.Machine.execReceivedByte t b s
  | .lineReturnedToMark t => Sys2Proof.Machine.execLineReturnedToMark t s
  | .powerLost markerWritten => Sys2Proof.Machine.execPowerLost markerWritten s

end Sys2Proof.Machine
end

