-- ==== Sys2Proof/Machine/Line.lean ====
section
/-! DEFINITION. The serial lines bit by bit: the Show Link's LTXD and LRXD, and what goes out on the Station Links (R174,
R178, R188). A level is true for mark, at which a line idles, and false for space (log 38). -/

namespace Sys2Proof.Machine

open Sys2Proof

/-! ## Sending -/

/-- The ten bits of a byte: the start bit, the data bits from the least significant on, the stop bit (R174). -/
def byteBits (b : Byte) : List Bool := false :: (List.range 8).map b.getLsbD ++ [true]

/-- The bits of some bytes that go out back to back (R174, R188). -/
def lineBits (bytes : List Byte) : List Bool := bytes.flatMap byteBits

/-- The level at show time `t` of a line on which some bytes go out from show time `start` on; the line rests at its idle
level outside them (R174). -/
def lineLevel (baud t : Nat) : Option (List Byte × Nat) → Bool
  | some (bytes, start) => if t < start then true else (lineBits bytes).getD ((t - start) * baud / 1000000) true
  | none => true

/-- The level of LTXD at show time `t` (R174). -/
def ltxd (s : State) (t : Nat) : Bool := lineLevel s.link.rate.baud t s.link.sending

/-- The level at show time `t` of the line on which the part sends to a station (R188). -/
def Station.txLevel (st : Station) (t : Nat) : Bool :=
  lineLevel Config.stationBaud t (st.sending.map fun f => (f.1.bytes, f.2))

/-! ## Receiving -/

/-- The number that some bits spell, the least significant first. -/
def bitsNat : List Bool → Nat
  | [] => 0
  | b :: bs => b.toNat + 2 * bitsNat bs

/-- What LRXD brings: a byte, a break, the return to mark after a break. -/
inductive LineEvent
  | byte (b : Byte)
  | break_
  | toMark
deriving DecidableEq, Repr

/-- The receiver of LRXD, bit time by bit time: the line is at mark; a byte is in reception, with its data bits so far; the
line has stayed at space for `n` bit times through the stop bit of a byte, which is still to be taken where `whole` says that
its start bit began the space; a break has been declared (R174, R178). -/
inductive LineRx
  | atMark
  | inByte (bits : List Bool)
  | atSpace (n : Nat) (whole : Bool)
  | inBreak
deriving DecidableEq, Repr

/-- One bit time of LRXD. A stop bit at space changes nothing of its byte, unless the byte begins a break, which is declared
20 bit times after the line went to space (R174, R178). DESIGN CHOICE: after a stop bit at space the next start bit is the
first fall from mark to space (log 38). -/
def LineRx.take (r : LineRx) (level : Bool) : LineRx × List LineEvent :=
  match r with
  | .atMark => (if level then .atMark else .inByte [], [])
  | .inByte bits =>
    if bits.length < 8 then (.inByte (bits ++ [level]), [])
    else
      let byte := LineEvent.byte (BitVec.ofNat 8 (bitsNat bits))
      let run := (bits.reverse.takeWhile fun b => !b).length
      if level then (.atMark, [byte])
      else if run = bits.length then (.atSpace (run + 2) true, [])
      else (.atSpace (run + 1) false, [byte])
  | .atSpace n whole =>
    if level then (.atMark, if whole then [.byte 0] else [])
    else if n + 1 < 20 then (.atSpace (n + 1) whole, [])
    else (.inBreak, [.break_])
  | .inBreak => if level then (.atMark, [.toMark]) else (.inBreak, [])

/-- What LRXD brings in some bit times, in their order, and the receiver after them. -/
def readLevels (r : LineRx) : List Bool → LineRx × List LineEvent
  | [] => (r, [])
  | level :: levels =>
    let now := r.take level
    let later := readLevels now.1 levels
    (later.1, now.2 ++ later.2)

/-- The row of the table in which LRXD brings an event at show time `t` (R175, R178). -/
def LineEvent.command (t : Nat) : LineEvent → Instr
  | .byte b => .receivedByte t b
  | .break_ => .breakDeclared t
  | .toMark => .lineReturnedToMark t

/-! ## Receiving on a Station Link -/

/-- What SRXn brings: a byte, or the end of 52 bit times after a byte without another. -/
inductive SrxEvent
  | byte (b : Byte)
  | silence
deriving DecidableEq, Repr

/-- The place of the receiver of SRXn within a byte: the line is at mark; a byte is in reception, with its data bits so far;
the line is still at space behind a stop bit at space (R188). -/
inductive SrxPlace
  | atMark
  | inByte (bits : List Bool)
  | atSpace
deriving DecidableEq, Repr

/-- One bit time of SRXn: where the receiver goes, and the byte whose stop bit it is. DESIGN CHOICE: the stop bit is not
examined, and after one at space the next start bit is the first fall from mark to space (log 38). -/
def SrxPlace.take (r : SrxPlace) (level : Bool) : SrxPlace × Option Byte :=
  match r with
  | .atMark => (if level then .atMark else .inByte [], none)
  | .inByte bits =>
    if bits.length < 8 then (.inByte (bits ++ [level]), none)
    else (if level then .atMark else .atSpace, some (BitVec.ofNat 8 (bitsNat bits)))
  | .atSpace => (if level then .atMark else .atSpace, none)

/-- The receiver of SRXn: its place, and the bit times since the end of the last byte until they are 52. -/
structure SrxRx where
  place : SrxPlace
  quiet : Option Nat
deriving DecidableEq, Repr

/-- The receiver of SRXn on a line at its idle level, before any byte. -/
def SrxRx.idle : SrxRx := { place := .atMark, quiet := none }

/-- The receiver of SRXn as a byte has just ended. -/
def SrxRx.afterByte : SrxRx := { place := .atMark, quiet := some 0 }

/-- One bit time of SRXn: the byte that ends with it, or the end of 52 bit times without one (R188). -/
def SrxRx.take (r : SrxRx) (level : Bool) : SrxRx × Option SrxEvent :=
  let p := r.place.take level
  match p.2, r.quiet with
  | some b, _ => ({ place := p.1, quiet := some 0 }, some (.byte b))
  | none, some n =>
    if n + 1 < 52 then ({ place := p.1, quiet := some (n + 1) }, none)
    else ({ place := p.1, quiet := none }, some .silence)
  | none, none => ({ place := p.1, quiet := none }, none)

/-- What SRXn brings in some bit times, in their order, each with the number of the bit time that it ends with, where `k` have
passed before; and the receiver after them. -/
def readSrx (k : Nat) (r : SrxRx) : List Bool → SrxRx × List (Nat × SrxEvent)
  | [] => (r, [])
  | level :: levels =>
    let now := r.take level
    let later := readSrx (k + 1) now.1 levels
    (later.1, (now.2.map fun e => (k + 1, e)).toList ++ later.2)

/-- The row of the table in which SRXn of station `i` brings what ends with bit time `x.1` of a line read from show time
`start` on: each byte as a row of its own at the show time of its end, and the silence after one as a gap (R188, log 32). -/
def srxCommand (i : Fin 6) (start : Nat) (x : Nat × SrxEvent) : Instr :=
  match x.2 with
  | .byte b => .stationFrameBad (start + bitTimes x.1 Config.stationBaud) { station := i, bytes := [b] }
  | .silence => .stationFrameGap (start + bitTimes x.1 Config.stationBaud) { station := i, bytes := [] }

/-- The rows that SRXn of station `i` brings in some bit times from show time `start` on, the line being idle before. -/
def srxCommands (i : Fin 6) (start : Nat) (levels : List Bool) : List Instr :=
  (readSrx 0 SrxRx.idle levels).2.map (srxCommand i start)

end Sys2Proof.Machine
end

