-- ==== Sys2Proof/Safety.lean ====
section
/-! DEFINITION. What a safe state of the part is: the properties that the rules promise of every state, each kept by
every step, and the shorthands the statements share. -/

namespace Sys2Proof.Machine

open Sys2Proof

/-- The part has power and its power-on load has ended: requests are served (R186). -/
def State.Serving (s : State) : Prop := s.powered = true ∧ s.loading = false

/-- The state after a reply of the given status and body, formed last. -/
def State.replied (status : Status) (body : List Item) (s : State) : State :=
  { s with link := { s.link with lastReply := some { status := status, summary := attentionSummary s, body := body } } }

/-- The records the part keeps one of for each station, channel and condition (R51, R109, R155, R189). -/
def State.Sized (s : State) : Prop :=
  s.stations.length = 6 ∧ s.channels.length = 16 ∧ s.attention.length = 9 ∧ s.stop.words.length = 6
    ∧ s.stop.account.length = 6

/-- The list is in strictly increasing number order and within its capacity, every record passes R72, and the count and
the pool used are those of the list (R67, R70 to R72, R88). -/
def State.StoreSound (s : State) : Prop :=
  increasing s.store.cues = true ∧ s.store.cues.all cueOk = true ∧ s.store.cues.all cueInOrder = true
    ∧ s.store.cueCount = s.store.cues.length
    ∧ s.store.cueCount ≤ Config.maxCues ∧ s.store.poolUsed = poolOf s.store.cues ∧ s.store.poolUsed ≤ Config.maxPool

/-- The patch map holds at most 512 entries within their ranges, no key twice (R117). -/
def State.MapSound (s : State) : Prop :=
  s.map.length ≤ Config.maxMap ∧ s.map.all mapEntryOk = true
    ∧ (s.map.map fun e => (e.station, e.patch)).Nodup

/-- The settings and the protection that the show image stores lie within their ranges (R82, R85, R88). -/
def State.SettingsSound (s : State) : Prop :=
  protectOk s.store.protect = true ∧ settingsOk (imageOf s) = true

/-- What several blocks are handed agrees: the current cue, the stop state, the standby cue (R90, R94, R148, R155). -/
def State.CopiesAgree (s : State) : Prop :=
  s.clock.position.cue = s.seq.current ∧ s.video.content.cue = s.seq.current
    ∧ s.video.content.stopState = s.stop.st ∧ s.video.content.standby = s.seq.latch

/-- An EXPLICIT pointer names a cue of the list, a set latch holds the next cue, and during the power-on load there is
neither (R90, R91, R94). -/
def State.PointerSound (s : State) : Prop :=
  (∀ n, s.seq.pointer = some n → (findCue s.store.cues n).isSome = true)
    ∧ (∀ n, s.seq.latch = some n → nextCue s = some n)
    ∧ (s.loading = true → s.seq.pointer = none ∧ s.seq.latch = none)

/-- The stop states in which no beat is committed and no click starts (R156). -/
def StopSt.quiet : StopSt → Bool
  | .held | .stopped | .rebuilding | .ready => true
  | .run | .holding _ | .countIn _ => false

/-- In a quiet stop state the clock neither counts in nor runs and no burst waits to start; while a hold drains the clock
is FROZEN (R156, R158, R159). -/
def State.StopSound (s : State) : Prop :=
  (s.stop.st.quiet = true → s.clock.st.beats = false ∧ drained s = true)
    ∧ (s.stop.st = .holding .draining → s.clock.st = .frozen)

/-- A station that is not ONLINE holds nothing: every slot EMPTY, nothing selected, outstanding, held or in progress. -/
def Station.Bare (st : Station) : Prop :=
  (∀ sl ∈ st.slots, sl.st = .empty) ∧ st.selected = .none ∧ st.outLoad = none ∧ st.outSelect = none
    ∧ st.selectPlace = none ∧ st.loadPlace = none ∧ st.preload = false ∧ st.switch = none ∧ st.silence = false

/-- A slot is LOADING exactly when it is the target of the station's outstanding LOAD (R115). -/
def Station.LoadingAgrees (st : Station) : Prop :=
  ∀ j (h : j < st.slots.length), st.slots[j].st = .loading ↔ (st.outLoad.map (·.slot)) = some (j + 1)

/-- No two slots that are not EMPTY hold the same patch id, a slot marked STALE has given up its own unless it is LOADING, and
the patch of the cold load in the LOAD place is held by no slot (R119, R120, R123). -/
def Station.SlotsDistinct (st : Station) : Prop :=
  (st.slots.Pairwise fun a b => ∀ p ∈ a.patch, ¬(a.carries p = true ∧ b.carries p = true))
    ∧ (∀ sl ∈ st.slots, sl.stale = true → sl.patch ≠ none → sl.st = .loading)
    ∧ ∀ p ∈ st.loadPlace, ∀ sl ∈ st.slots, sl.holds p = false

/-- Slot `k` is RESIDENT; the number is that of a slot. -/
def Station.Resident (st : Station) (k : Nat) : Prop := 1 ≤ k ∧ k ≤ st.slots.length ∧ (st.slot k).st = .resident

/-- The slots that the outstanding frames and the selection name: the LOAD's is one of the table, the SELECT's and the
selected one are RESIDENT (R115, R116, R121). -/
def Station.TargetsResident (st : Station) : Prop :=
  (∀ o ∈ st.outLoad, 1 ≤ o.slot ∧ o.slot ≤ st.slots.length) ∧ (∀ o ∈ st.outSelect, st.Resident o.slot)
    ∧ ∀ k, st.selected = .slot k → st.Resident k

/-- The place of the switch `w` in progress (R123, R124): a held SELECT stands in the SELECT place and an outstanding one is
that of the station, each for a RESIDENT slot that holds the patch; the slot that a WAIT switch waits for is LOADING with it;
and a cold load stands in the LOAD place. -/
def Station.StageHeld (st : Station) (w : Switch) : Prop :=
  match w.stage with
  | .selectHeld k => st.selectPlace = some k ∧ st.Resident k ∧ (st.slot k).holds w.patch = true
  | .selecting k => st.outSelect.map (·.slot) = some k ∧ (st.slot k).holds w.patch = true
  | .loading k => 1 ≤ k ∧ k ≤ st.slots.length ∧ (st.slot k).st = .loading ∧ (st.slot k).patch = some w.patch
  | .coldHeld => st.loadPlace = some w.patch

/-- The switch in progress has its place, and nothing stands in the SELECT and the LOAD place but for it; an excluded station
has none (R112, R123, R124). -/
def Station.SwitchPlaced (st : Station) : Prop :=
  (∀ w ∈ st.switch, st.StageHeld w)
    ∧ (∀ k ∈ st.selectPlace, ∃ w, st.switch = some w ∧ w.stage = .selectHeld k)
    ∧ (∀ p ∈ st.loadPlace, ∃ w, st.switch = some w ∧ w.stage = .coldHeld)
    ∧ (st.excluded = true → st.switch = none)

/-- A station is OFFLINE where PRESENT is deasserted and during the power-on load, it holds something only when ONLINE, its
LOADING slot is that of its outstanding LOAD, no patch id stands in two of its slots, and what its places, outstanding frames
and selection name is there (R109, R110, R115, R120, R123, R124). -/
def State.StationsSound (s : State) : Prop :=
  ∀ st ∈ s.stations,
    (st.present = false ∨ s.loading = true → st.link = .offline) ∧ (st.link ≠ .online → st.Bare) ∧ st.LoadingAgrees
      ∧ st.SlotsDistinct ∧ st.TargetsResident ∧ st.SwitchPlaced

/-- Station `i` has confirmed selection of a slot holding the patch `p` (R168). -/
def Station.Confirmed (st : Station) (p : Nat) : Prop :=
  ∃ k, st.selected = .slot k ∧ (st.slot k).st = .resident ∧ (st.slot k).holds p = true

/-- In REBUILDING and READY there is a resume point, its cue is the current cue, and the stop state is READY exactly when no
entry of the account is PENDING or FAILED (R166, R167). -/
def State.RebuildSound (s : State) : Prop :=
  s.stop.st.rebuilds = true →
    s.stop.st = (if s.stop.account.any Account.blocks then .rebuilding else .ready)
      ∧ ∃ r, s.stop.resume = some r ∧ s.seq.current = some r.cue

/-- What makes the promise of R168 stand: no rebuild goes on during the power-on load, the stations' words are those of the
stations, and in REBUILDING and READY each ONLINE, included station is counted, has no switch but one to its tracked patch with
the rebuild mark, and, where its entry is SATISFIED and a patch is tracked for it, has confirmed selection of it with no SELECT
outstanding. -/
def State.ReadySound (s : State) : Prop :=
  (s.loading = true → s.stop.st.rebuilds = false) ∧ s.RebuildSound
    ∧ ∀ i, ((s.station i).link = .online → (s.words i).online = true)
      ∧ (s.words i).excluded = (s.station i).excluded
      ∧ (s.stop.st.rebuilds = true → (s.station i).serves = true → ∀ n ∈ s.seq.current,
        s.stop.account[i.val]? ≠ some .notCounted
        ∧ (∀ w ∈ (s.station i).switch, w.rebuild = true ∧ (trackedPatch s.store.cues n i).map (·.1) = some w.patch)
        ∧ (s.stop.account[i.val]? = some .satisfied → ∀ p, (trackedPatch s.store.cues n i).map (·.1) = some p →
          (s.station i).Confirmed p ∧ (s.station i).outSelect = none ∧ (s.station i).switch = none))

/-- R168: in READY every ONLINE station that is not excluded has confirmed selection of a slot holding the patch that the
tracked state of the resume cue names for it, or that names none. -/
def State.ReadyKept (s : State) : Prop :=
  s.stop.st = .ready → ∀ r, s.stop.resume = some r → ∀ i, (s.station i).link = .online → (s.station i).excluded = false →
    ∀ p, (trackedPatch s.store.cues r.cue i).map (·.1) = some p → (s.station i).Confirmed p

/-- The link holds at most four waiting frames of at most 240 payload bytes, and a frame in reception is unfinished
(R175, R179). -/
def State.LinkSound (s : State) : Prop :=
  s.link.queue.length ≤ Config.maxQueue ∧ (∀ f ∈ s.link.queue, f.payload.length ≤ Config.maxPayload)
    ∧ (∀ g, s.link.got = some g → g.length < Config.maxPayload + 6)

/-! ## Shorthands of the statements -/

/-- The vamp armed after a fire that finds the clock at bar `bar` of the position (R20, R22). -/
def vampAfterFire (handed : Option VampBars) (bar : Option Nat) (armed : Option Vamp) : Option Vamp :=
  match handed with
  | some v =>
    if (bar.map fun b => decide (v.last < b)).getD false then none
    else some { first := v.first, last := v.last, loops := 0, release := false }
  | none => armed.map fun v => { v with release := true }

/-- What a part of the tracked state at `n` is: the part that `r` holds, of the cue with the greatest number at or before `n`
that carries it, with that cue's number; nothing where no cue at or before `n` carries it (R80). -/
def TrackedIs {α : Type} (part : Cue → Option α) (cues : List Cue) (n : CueNo) (r : Option (α × CueNo)) : Prop :=
  (∀ a k, r = some (a, k) → ∃ c ∈ cues, c.number = k ∧ part c = some a ∧ cueLe k n = true
      ∧ ∀ d ∈ cues, cueLe d.number n = true → (part d).isSome = true → cueLe d.number k = true)
    ∧ (r = none → ∀ d ∈ cues, cueLe d.number n = true → part d = none)

/-- What the cue after the current one is: the first of the list behind it, or the first of all where there is no current cue;
none where no cue follows (R67, R91). -/
def NextIs (cues : List Cue) (current : Option CueNo) (r : Option CueNo) : Prop :=
  (∀ m, r = some m → (∃ c ∈ cues, c.number = m) ∧ (∀ k, current = some k → cueLt k m = true)
      ∧ ∀ d ∈ cues, (∀ k, current = some k → cueLt k d.number = true) → cueLe m d.number = true)
    ∧ (r = none → ∀ d ∈ cues, ∃ k, current = some k ∧ cueLt k d.number = false)

/-- What station `i` is handed for a cue: its number and the patch tracked there (R104). -/
def targetOf (cues : List Cue) (i : Fin 6) (n : CueNo) : Target :=
  { cue := n, patch := (trackedPatch cues n i).map (·.1) }

/-- Station `i` holds the targets of the look-ahead set and of the standby cue (R104). -/
def TargetsHeld (i : Fin 6) (u : State) : Prop :=
  (u.station i).ahead = u.seq.ahead.map (targetOf u.store.cues i)
    ∧ (u.station i).standbyTarget = u.seq.latch.map (targetOf u.store.cues i)

/-- The look-ahead hand-over of R104 as it reaches station `i`, whose record stood as in `m`: it holds its targets, and has
recomputed its preload from there (R120, R122). -/
def TargetsHanded (i : Fin 6) (m u : State) : Prop :=
  m.stations.length = 6 → TargetsHeld i u
    ∧ u.station i = (recompute false i (m.setStation i fun st =>
        { st with ahead := (u.station i).ahead, standbyTarget := (u.station i).standbyTarget })).station i

/-- The state in which station `i` has taken its switch target of the fire of cue `c`, ahead of the look-ahead hand-over: the
tracked patch, none included, where the fire is tracked, and else the patch of its action in `c`, if there is one, with the
cue number and the fire time (R101, R102). -/
def switchedBy (c : Cue) (i : Fin 6) (s : State) : State :=
  if firesTracked c s then
    startSwitch i (some c.number) ((trackedPatch s.store.cues c.number i).map (·.1)) (some s.now) false s
  else match (c.patches.find? fun a => a.station == i.val + 1) with
    | some a => startSwitch i (some c.number) (some a.patch) (some s.now) false s
    | none => s

/-- The tempo record that a fire of cue `c` hands the clock (R101, R102). -/
def tempoHanded (c : Cue) (s : State) : Option TempoRecord :=
  if firesTracked c s then (trackedTempo s.store.cues c.number).map (·.1) else c.tempo

/-- What the fire of cue `c` by `source` makes of the state `s` it is taken in, but for the Beat Clock, the Conductor Follower
and its condition: the Sequencer, the click channels, the overlay, the stations with their switches and targets, and CUE_FIRED
in `u` are as R101 and R102 give them; STATION_FAULT may be raised; nothing else changes. -/
def FiresBesideClock (c : Cue) (source : FireSource) (s u : State) : Prop :=
  u.seq = { s.seq with
      current := some c.number, pointer := none, latch := none
      timer := match (afterCurrent s.store.cues (some c.number)).bind (findCue s.store.cues) with
        | some d => (match d.trigger with
          | .follow delay => .running d.number (s.now + delay * 1000)
          | _ => .idle)
        | none => .idle
      ahead := lookAhead u
      lastFire := some { cue := c.number, source := source, time := s.now, tracked := firesTracked c s } }
    ∧ u.channels = (if firesTracked c s then clickTracked c.number s else clickFire c s).channels
    ∧ u.video = { s.video with content := { s.video.content with
        cue := some c.number, standby := none
        caption := if firesTracked c s then captionAt s.store.cues c.number
          else c.caption.getD s.video.content.caption } }
    ∧ (∀ i, TargetsHanded i (switchedBy c i s) u)
    ∧ u.attention[6]? = s.attention[6]?.map (Condition.raised (.cueFired c.number source) s.now)
    ∧ (∀ k, k ≠ 1 → k ≠ 3 → k ≠ 6 → u.attention[k]? = s.attention[k]?)
    ∧ { u with seq := s.seq, clock := s.clock, follower := s.follower, channels := s.channels, video := s.video
               stations := s.stations, attention := s.attention } = s

/-- The clock after a fire that starts nothing: the cue number, the bar set, and the vamp or the release are taken, and
`pending` is the pending record (R1, R11, R14, R20, R22). -/
def clockHanded (c : Cue) (pending : Option TempoRecord) (k : BeatClock) : BeatClock :=
  { k with
    position := { k.position with cue := some c.number }
    barSet := c.barSet.or k.barSet
    pendingRec := pending
    vamp := vampAfterFire c.vamp k.position.bar k.vamp }

/-- What the fire of cue `c` by `source` makes of the state `s` it is taken in, with a clock that is not IDLE: all of R101 and
R102, the clock starting nothing and the follower unmoved. -/
def Fires (c : Cue) (source : FireSource) (s u : State) : Prop :=
  FiresBesideClock c source s u
    ∧ u.clock = clockHanded c ((tempoHanded c s).or s.clock.pendingRec) s.clock
    ∧ u.follower = s.follower ∧ u.attention[3]? = s.attention[3]?

/-- The station but for what a preload recompute may change: the preload, the pressure episode, the fault record. -/
def Station.settled (st : Station) : Station :=
  { st with preload := false, pressure := false, faults := { first := none, count := 0 } }

/-- Nothing but station `i` differs. -/
def OnlyStation (i : Fin 6) (s u : State) : Prop :=
  (∀ j, j ≠ i → u.station j = s.station j) ∧ { u with stations := s.stations } = s

/-- No more than 52 bit times lie between the last byte of the frame in reception at a station, if there is one, and the first of
`n` bytes that come back to back, the last of them at show time `now` (R188, log 32). -/
def GapHeld (st : Station) (n now : Nat) : Prop :=
  ∀ r, st.receiver = some r → (now - r.last) * 230400 ≤ (52 + 10 * (n - 1)) * 1000000

/-- Nothing but station `i` and the condition STATION_FAULT differs. -/
def OnlyStationAndFault (i : Fin 6) (s u : State) : Prop :=
  (∀ j, j ≠ i → u.station j = s.station j) ∧ (∀ k, k ≠ 1 → u.attention[k]? = s.attention[k]?)
    ∧ { u with stations := s.stations, attention := s.attention } = s

/-- The first fault of station `i`'s record after one of this kind: the one that was there, or this one (R136). -/
def faultAfter (i : Fin 6) (kind : FaultKind) (cue : Option CueNo) (patch : Option Nat) (s : State) (now : Nat) :
    Option StationFault :=
  match (s.station i).faults.first with
  | some f => some f
  | none => some { kind := kind, cue := cue, patch := patch, time := now }

/-- What a map-changed notice for patch `p` does to the slots of station `i`, and what it leaves of the rest of the station
where no switch to `p` is in progress (R119). -/
def SlotsNoticed (i : Fin 6) (p : Nat) (s u : State) : Prop :=
  (u.station i).slots.length = (s.station i).slots.length
    ∧ (∀ k, 1 ≤ k → k ≤ (s.station i).slots.length →
      (u.station i).slot k =
        if ((s.station i).slot k).holds p = false then (s.station i).slot k
        else if ((s.station i).slot k).st = .loading then { (s.station i).slot k with stale := true }
        else if (s.station i).isCurrent k = true ∨ (s.station i).outSelect.map (·.slot) = some k then
          { (s.station i).slot k with stale := true, patch := none }
        else Slot.blank)
    ∧ (u.station i).outLoad = (s.station i).outLoad ∧ (u.station i).outSelect = (s.station i).outSelect
    ∧ (u.station i).selected = (s.station i).selected ∧ (u.station i).silence = (s.station i).silence
    ∧ (u.station i).hostPins = (s.station i).hostPins ∧ (u.station i).victim = (s.station i).victim
    ∧ ((∀ w, (s.station i).switch = some w → w.patch ≠ p) →
      (u.station i).switch = (s.station i).switch ∧ (u.station i).lastSwitch = (s.station i).lastSwitch
        ∧ (u.station i).selectPlace = (s.station i).selectPlace ∧ (u.station i).loadPlace = (s.station i).loadPlace)

/-- The preload candidates of a station in their order, each with the cue it is for: the standby target, the targets of the
look-ahead set, the host pins (R122). -/
def preloadOrder (st : Station) : List (Option CueNo × Option Nat) :=
  (match st.standbyTarget with
    | some t => [(some t.cue, t.patch)]
    | none => [])
  ++ st.ahead.map (fun t => (some t.cue, t.patch)) ++ st.hostPins.map fun p => (none, some p)

/-- No test of R122 skips the patch `p` as a preload candidate of station `i`: it has a map entry, has not failed, is held by
no slot, and is not the cold load of the LOAD place. -/
def CandidateLeft (map : List MapEntry) (i : Fin 6) (st : Station) (p : Nat) : Prop :=
  (findMap map (i.val + 1) p).isSome = true ∧ p ∉ st.failed ∧ (∀ sl ∈ st.slots, sl.holds p = false)
    ∧ st.loadPlace ≠ some p

/-- Every one of these candidates is skipped. -/
def AllSkipped (map : List MapEntry) (i : Fin 6) (st : Station) (l : List (Option CueNo × Option Nat)) : Prop :=
  ∀ c ∈ l, ∀ q, c.2 = some q → ¬CandidateLeft map i st q

/-- The preload of station `i` is the patch `p` for `cue`: the first candidate left (R122). -/
def PreloadIs (map : List MapEntry) (i : Fin 6) (st : Station) (cue : Option CueNo) (p : Nat) : Prop :=
  ∃ before after, preloadOrder st = before ++ (cue, some p) :: after ∧ AllSkipped map i st before
    ∧ CandidateLeft map i st p

/-- The victim search may take slot `k` (R121). -/
def MayGo (preload : Bool) (st : Station) (k : Nat) : Prop :=
  (st.slot k).st ≠ .loading ∧ st.isCurrent k = false ∧ st.isStandby k = false ∧ st.isHost k = false
    ∧ st.isSelectTarget k = false ∧ (preload = true → st.isAhead k = false)

/-- Slot `k` is the victim, after whose choice the pointer is `v`: the lowest EMPTY slot, or the first from the pointer
upward, wrapping, that the search may take (R121). -/
def VictimIs (preload : Bool) (st : Station) (k v : Nat) : Prop :=
  (1 ≤ k ∧ k ≤ st.slots.length ∧ (st.slot k).st = .empty ∧ (∀ j, 1 ≤ j → j < k → (st.slot j).st ≠ .empty)
      ∧ v = st.victim)
    ∨ ((∀ sl ∈ st.slots, sl.st ≠ .empty) ∧ MayGo preload st k
      ∧ (∃ d, d < st.slots.length ∧ k = (st.victim - 1 + d) % st.slots.length + 1
        ∧ ∀ e, e < d → ¬MayGo preload st ((st.victim - 1 + e) % st.slots.length + 1))
      ∧ v = if k = st.slots.length then 1 else k + 1)

/-- The fault record after a fault (R136). -/
def recordAfter (f : StationFault) (r : FaultRecord) : FaultRecord :=
  match r.first with
  | none => { first := some f, count := 0 }
  | some g => { first := some g, count := min 255 (r.count + 1) }

/-- The preload of the patch `p` for `cue` is deferred: a closed pressure episode opens and raises PRESSURE, in an open one
nothing is raised (R122). -/
def Deferred (i : Fin 6) (cue : Option CueNo) (p : Nat) (s u : State) : Prop :=
  ((s.station i).pressure = true → OnlyStation i s u ∧ u.station i = { s.station i with preload := false })
    ∧ ((s.station i).pressure = false → OnlyStationAndFault i s u
      ∧ u.station i = { s.station i with
          preload := false, pressure := true
          faults := recordAfter { kind := .pressure, cue := cue, patch := some p, time := s.now } (s.station i).faults }
      ∧ u.attention[1]? = s.attention[1]?.map (Condition.raised (.stationFault i .pressure) s.now))

/-- The choice of a preload recompute at station `i` of `s`, whose failed preloads are as the recompute wants them (R122):
with no candidate left the pressure episode closes; a preload waits while a LOAD is outstanding or a cold load held, is
marked to be sent where a victim qualifies, and is deferred where none does. -/
def PreloadChosen (i : Fin 6) (s u : State) : Prop :=
  (AllSkipped s.map i (s.station i) (preloadOrder (s.station i)) →
      OnlyStation i s u ∧ u.station i = { s.station i with preload := false, pressure := false })
    ∧ ∀ cue p, PreloadIs s.map i (s.station i) cue p →
      (((s.station i).outLoad ≠ none ∨ (s.station i).loadPlace ≠ none) →
        OnlyStation i s u ∧ u.station i = { s.station i with preload := false })
      ∧ ((s.station i).outLoad = none → (s.station i).loadPlace = none →
        ((∃ k v, VictimIs true (s.station i) k v) →
          OnlyStation i s u ∧ u.station i = { s.station i with preload := true })
        ∧ ((∀ k v, ¬VictimIs true (s.station i) k v) → Deferred i cue p s u))

/-- The recompute that clears the failed preloads first, at station `i` of `s` with its record written to `st`: a station
that is not ONLINE or is excluded takes no part in it (R122). -/
def RecomputedFrom (i : Fin 6) (st : Station) (s u : State) : Prop :=
  ((s.station i).serves = false → OnlyStation i s u ∧ u.station i = st)
    ∧ ((s.station i).serves = true →
      ∃ w : State, OnlyStation i s w ∧ w.station i = { st with failed := [] } ∧ PreloadChosen i w u)

/-- The recompute that keeps the failed preloads, at station `i` of `s` (R122). -/
def RecomputedKeeping (i : Fin 6) (s u : State) : Prop :=
  ((s.station i).serves = false → u = s) ∧ ((s.station i).serves = true → PreloadChosen i s u)

/-- The requests that are served during the power-on load (R181). -/
def servedInLoad : Instr → Bool
  | .identify _ => true
  | .attentionQuery _ _ => true
  | .attentionPeek _ => true
  | _ => false

/-- What a list-changed notice leaves of the Sequencer, outside a rebuild (R105): the pointer to a cue that is gone
becomes IMPLICIT; a changed next cue clears the latch and any timer that is not its own; an unchanged one keeps them, but
for a timer whose cue was replaced by one without the trigger FOLLOW. The look-ahead set is worked out afresh, and each
station is handed its targets (R104). -/
def NoticeTaken (change : ListChange) (s u : State) : Prop :=
  u.seq = { s.seq with
      pointer := s.seq.pointer.filter fun n => (findCue u.store.cues n).isSome
      latch := if nextCue u = nextCue s then s.seq.latch else none
      timer :=
        if nextCue u = nextCue s then
          (if timerSpoiled u.store.cues change s.seq.timer then .idle else s.seq.timer)
        else if s.seq.timer.cue = nextCue u then s.seq.timer else .idle
      ahead := lookAhead u }
    ∧ u.video = { s.video with content := { s.video.content with
        standby := if nextCue u = nextCue s then s.video.content.standby else none } }
    ∧ (∀ i, TargetsHanded i s u)
    ∧ (∀ k, k ≠ 1 → u.attention[k]? = s.attention[k]?)
    ∧ { u with store := s.store, seq := s.seq, video := s.video, stations := s.stations, attention := s.attention,
               link := s.link } = s

/-- What a look-ahead hand-over leaves (R104): each station holds its targets, STATION_FAULT may be raised, and nothing else
differs but the fields that `g` puts back. -/
def HandedOver (g : State → State) (s u : State) : Prop :=
  (∀ i, TargetsHanded i s u) ∧ { g u with stations := s.stations, attention := s.attention } = s
    ∧ ∀ k, k ≠ 1 → u.attention[k]? = s.attention[k]?

/-- The standby latch is set or cleared (R93, R94): latch and overlay take it, the look-ahead set is worked out afresh and
handed on with the standby targets, and besides only STATION_FAULT may be raised. -/
def LatchTakes (latch : Option CueNo) (s u : State) : Prop :=
  u.seq = { s.seq with latch := latch, ahead := lookAhead s }
    ∧ u.video = { s.video with content := { s.video.content with standby := latch } }
    ∧ HandedOver (fun u => { u with seq := s.seq, video := s.video }) s u

/-- At show time `t`, or later where the part is later already, a desk line that has held the asserted level for `held` µs
gives an asserting edge: the hold is long enough since the internal reset, and the debounced level was deasserted (R95,
R157). -/
def DeskEdge (line : DeskLine) (t held : Nat) (s : State) : Prop :=
  10000 ≤ held ∧ 10000 ≤ max s.now t ∧ s.desk.level line = false

/-- The state with a stop state, as the Stop Controller holds it and the overlay is handed it (R148, R155). -/
def withStop (st : StopSt) (s : State) : State :=
  { s with
    stop := { s.stop with st := st }
    video := { s.video with content := { s.video.content with stopState := st } } }

/-- The beat record of a SHOW beat under a record without a conducted pulse (R5). -/
def showBeat (g : Governing) (c : BeatClock) (now t bar beat : Nat) : BeatRec :=
  { time := t, commitTime := now, bar := bar, beat := beat, pass := (c.vamp.map (·.loops)).getD 0, phase := .inShow
    meter := g.record.meter, period := c.period, mode := g.record.mode, down := beat == 1 }

/-- The same for a count-in beat of number `k`, in bar `bar` of the start (R5, R18). -/
def countInBeat (g : Governing) (c : BeatClock) (now t bar k : Nat) : BeatRec :=
  { showBeat g c now t bar ((k - 1) % g.record.meter + 1) with phase := .countIn k }

/-- The clock after a beat at `t` has been committed, with the period field `p` and beat u as `next` (R1, R4). -/
def beatWritten (c : BeatClock) (f : Follower) (t bar beat : Nat) (phase : Phase) (p : Option Nat) (next : NextBeat) :
    BeatClock :=
  { c with
    position := { cue := c.position.cue, bar := some bar, beat := some beat, pass := (c.vamp.map (·.loops)).getD 0
                  phase := phase, time := some t, period := p, clamped := f.clamped, coasting := f.coasting }
    spacing := some t
    next := some next }

/-- The same for a SHOW beat, which the clock runs on from. -/
def showWritten (c : BeatClock) (f : Follower) (t bar beat : Nat) (p : Option Nat) (next : NextBeat) : BeatClock :=
  { beatWritten c f t bar beat .inShow p next with st := .running, lastShowBar := some bar, start := none }

/-- Beat u after a beat of the SHOW phase (R6). -/
def showNext (time : Option Nat) (meter bar beat : Nat) : NextBeat :=
  { time := time, kind := if beat < meter then .beat bar (beat + 1) else .down }

/-- The overlay `v` takes the beat at `t` with this content, committed at `commit` under the lead `lead` (R150): its flash aims
at the beat less the delay, or less the lead where that is smaller, falls in the field nearest the aim of those that start at
or after the commit, and waits there; nothing else changes. An aim before show time 0 is held as 0: the model's choice (log
35). -/
def FlashPending (commit lead t : Nat) (conducted : Bool) (content : BeatContent) (v u : Video) : Prop :=
  u = { v with waiting := some {
      field := nearestField v (firstCandidate v commit) (t - min v.settings.delay lead)
      aim := t - min v.settings.delay lead, time := t, content := content, conducted := conducted
      before := refTime v.fieldStart, earlier := v.earlierStart, displays := true } }

/-- No cue waits at this bar and beat with the trigger AT_BAR (R98). -/
def NoAtBar (bar beat : Nat) (s : State) : Prop :=
  ∀ n ∈ nextCue s, ∀ c ∈ findCue s.store.cues n, c.trigger ≠ .atBar bar beat

/-! ### The follower -/

/-- The half-width W of the follower's window under the period `p`, outside FREE (R33). -/
def halfWidth (f : Follower) (p : Nat) : Nat :=
  if f.st = .locked then p / (if f.settings.window = .normal then 4 else 8) else p / 2

/-- A missed beat leads LOCKED to COASTING (R44). -/
def coastsNow (f : Follower) : Bool := f.st == .locked && f.settings.m ≤ f.missedRun + 1

/-- The follower after a missed beat (R42, R44). -/
def missedFollower (f : Follower) : Follower :=
  { f with
    missed := min 65535 (f.missed + 1), push := none
    good := if f.st = .seeking then 0 else f.good
    st := if coastsNow f then .coasting else f.st
    coasting := if coastsNow f then true else f.coasting
    missedRun := if coastsNow f then 0 else if f.st = .locked then f.missedRun + 1 else f.missedRun }

/-- The conditions after a missed beat at show time `now`: BEAT_LOCK where the follower goes to COASTING (R48). -/
def missedAttention (f : Follower) (now : Nat) (a : List Condition) : List Condition :=
  if coastsNow f then a.modify 3 (Condition.raised (.beatLock .coasting) now) else a

/-- The follower once its open window of beat `l` has closed (R34). -/
def windowClosed (l : LastBeat) (f : Follower) : Follower :=
  { (if l.matched then f else missedFollower f) with last := some { l with isOpen := false } }

/-- The conditions once that window has closed at show time `now`. -/
def closedAttention (l : LastBeat) (f : Follower) (now : Nat) (a : List Condition) : List Condition :=
  if l.matched then a else missedAttention f now a

/-- The divisors d_p and d_f in force, by the follower state and the time constant (R36). -/
def DivisorsAre (f : Follower) (dp df : Nat) : Prop :=
  (f.st = .seeking ∧ (dp, df) = (2, 4))
    ∨ (f.st = .locked
      ∧ (f.settings.constant = .slow ∧ (dp, df) = (8, 64)
        ∨ f.settings.constant = .normal ∧ (dp, df) = (4, 16)
        ∨ f.settings.constant = .fast ∧ (dp, df) = (2, 4)
        ∨ f.settings.constant = .adaptive ∧ 0 < f.fastLeft ∧ (dp, df) = (2, 4)
        ∨ f.settings.constant = .adaptive ∧ f.fastLeft = 0 ∧ f.active = .slow ∧ (dp, df) = (8, 64)
        ∨ f.settings.constant = .adaptive ∧ f.fastLeft = 0 ∧ f.active = .normal ∧ (dp, df) = (4, 16)))

/-- The nearer candidate of a pulse at `t` lies at `at_`, and a pulse has been matched to it or not: the last committed
beat while its window is open, or, `early`, beat u at `u₀` (R35). -/
def NearerIs (f : Follower) (t u₀ at_ : Nat) (early matched : Bool) : Prop :=
  (early = false ∧ f.last = some { time := at_, isOpen := true, matched := matched } ∧ distance t at_ ≤ distance t u₀)
    ∨ (early = true ∧ at_ = u₀ ∧ f.nextMatched = matched
      ∧ ∀ l ∈ f.last, l.isOpen = true → distance t u₀ < distance t l.time)

/-- A pulse matched to beat u leaves no window of an unmatched beat open behind it. -/
def NoneWaits (f : Follower) (early : Bool) : Prop :=
  early = true → ∀ l ∈ f.last, l.isOpen = true → l.matched = true

/-- Beat u's time after the correction of R37, before the floor of t + C: moved by the error over d_p and, for a pulse
matched to the committed beat, by the change of the period, and at least half the new period after the last committed
beat. -/
def correctedTime (spacing : Option Nat) (u₀ p q dp : Nat) (e : Int) (early : Bool) : Nat :=
  max ((u₀ : Int) + roundAway e dp + (if early then 0 else (q : Int) - (p : Int))).toNat
    ((spacing.map fun c => c + ceilDiv q 2).getD 0)

/-- What every accepted pulse with error `e` writes in the follower (R35). -/
def pulseMatched (f : Follower) (e : Int) (early : Bool) : Follower :=
  { f with
    last := if early then f.last else f.last.map fun l => { l with matched := true }
    nextMatched := if early then true else f.nextMatched
    lastError := e, accepted := min 65535 (f.accepted + 1), rejectedRun := 0, missedRun := 0 }

/-- The same with what the correction adds in SEEKING and LOCKED (R37, R39). -/
def acceptedFollower (f : Follower) (e : Int) (early clamped : Bool) : Follower :=
  { pulseMatched f e early with
    clamped := clamped, jitter := ((f.jitter : Int) + ((e.natAbs : Int) - (f.jitter : Int)).tdiv 8).toNat }

/-- The good count in SEEKING after an accepted pulse with error `e` at the corrected period `q`; at 2 the follower enters
LOCKED (R42). -/
def GoodCounted (e : Int) (q : Nat) (f v : Follower) : Prop :=
  (q / 8 < e.natAbs → v = { f with good := 0 })
    ∧ (e.natAbs ≤ q / 8 → f.good + 1 < 2 → v = { f with good := f.good + 1 })
    ∧ (e.natAbs ≤ q / 8 → 2 ≤ f.good + 1 →
      v = { f with st := .locked, good := 0, rejectedRun := 0, missedRun := 0, push := none, active := .normal, fastLeft := 0 })

/-- What ADAPTIVE does after an accepted pulse in LOCKED with error `e`, the jitter being updated and the period corrected
to `q` (R40, R41); under any other time constant nothing. -/
def Adapted (e : Int) (q : Nat) (f v : Follower) : Prop :=
  (f.settings.constant ≠ .adaptive → v = f)
    ∧ (f.settings.constant = .adaptive →
      (q / 8 < e.natAbs → f.push = some (signOf e) → v = { f with push := none, fastLeft := 4 })
      ∧ ∀ memory : Option Sign, memory = (if q / 8 < e.natAbs then some (signOf e) else none) →
        (e.natAbs ≤ q / 8 ∨ f.push ≠ some (signOf e)) →
        (f.fastLeft = 0 → f.active = .slow →
          v = { f with push := memory, active := if f.jitter ≤ q / 32 then .normal else .slow })
        ∧ (f.fastLeft = 0 → f.active ≠ .slow →
          v = { f with push := memory, active := if q / 16 < f.jitter then .slow else .normal })
        ∧ (f.fastLeft = 1 →
          v = { f with push := memory, fastLeft := 0, active := if q / 16 < f.jitter then .slow else .normal })
        ∧ (2 ≤ f.fastLeft → v = { f with push := memory, fastLeft := f.fastLeft - 1 }))

/-- The follower with the window of a matched last beat closed where W has left it behind at `now` (R34, R42). -/
def Follower.judged (now p : Nat) (f : Follower) : Follower :=
  { f with last := f.last.map fun l => { l with isOpen := l.isOpen && decide (now ≤ l.time + halfWidth f p) } }

/-- The follower once it enters SEEKING afresh (R42). -/
def Follower.afresh (f : Follower) : Follower :=
  { f with st := .seeking, jitter := 0, good := 0, rejectedRun := 0, missedRun := 0, push := none, coasting := false }

/-! ### Starts of the clock -/

/-- The starting bar of a fire that starts the clock (R17). -/
def startBar (c : Cue) (k : BeatClock) : Nat :=
  ((c.barSet.or k.barSet).or (k.lastShowBar.map fun b => min 9999 (b + 1))).getD 1

/-- The time of the first beat of a start at show time `now` (R17). -/
def firstBeat (now : Nat) (k : BeatClock) : Nat := max (now + k.lead) ((k.spacing.map (· + 100000)).getD 0)

/-- The clock that a fire of cue `c` starts from IDLE under the record `r` at show time `now`, no beat of the start being
committed yet (R13, R17, R18). -/
def clockStarted (c : Cue) (r : TempoRecord) (now : Nat) (k : BeatClock) : BeatClock :=
  { k with
    position := { k.position with cue := some c.number }
    gov := some { record := r, marked := recordPeriod r }
    period := if r.mode = .conducted then none else some (recordPeriod r)
    ramp := none, barSet := none
    st := if r.countIn = 0 then .running else .countingIn
    next := some { time := if r.mode = .conducted then none else some (firstBeat now k)
                   kind := if r.countIn = 0 then .down else .countIn 1 }
    start := some { bar := startBar c k, beats := r.countIn * r.meter, ramp := r.ramp.isSome }
    vamp := vampAfterFire c.vamp (some (startBar c k)) k.vamp }

/-- The follower is told that no record governs, or one other than FOLLOW (R31): FREE, which raises BEAT_LOCK where it was
not. -/
def FollowerFreed (s u : State) : Prop :=
  u.follower = { s.follower with
      st := .free, band := none, coasting := false, clamped := false, push := none, good := 0, rejectedRun := 0
      missedRun := 0, fastLeft := 0, nextMatched := false, last := s.follower.last.map fun l => { l with isOpen := false } }
    ∧ u.attention[3]? = (if s.follower.st = .free then s.attention[3]?
      else s.attention[3]?.map (Condition.raised (.beatLock .free) s.now))

/-- The follower is told the record of `g` at a start (R31, R42): SEEKING afresh under FOLLOW, with the record's band, which
raises BEAT_LOCK where it was not SEEKING, and else FREE. -/
def FollowerTold (g : Governing) (s u : State) : Prop :=
  (g.record.mode = .follow →
      u.follower = { s.follower.afresh with band := some (bandAround g.marked g.record.band) }
      ∧ u.attention[3]? = (if s.follower.st = .seeking then s.attention[3]?
        else s.attention[3]?.map (Condition.raised (.beatLock .seeking) s.now)))
    ∧ (g.record.mode ≠ .follow → FollowerFreed s u)

/-- The follower as a beat at `t` has been committed, no window of a beat before it being open (R34). -/
def windowOpened (t : Nat) (f : Follower) : Follower :=
  if f.st = .free then f
  else { f with last := some { time := t, isOpen := true, matched := f.nextMatched }, nextMatched := false }

/-- The first beat of a start with `bars` bars of count-in, at `t`, is committed in `m`, which goes over into `u` (R4, R5, R17,
R18): count-in beat 1, or, without a count-in, the downbeat of `bar`, which takes a pending bar set and drops a vamp that ends
before it (R14). -/
def FirstBeatCommitted (g : Governing) (bars bar t : Nat) (m u : State) : Prop :=
  ∃ k : BeatClock, k = (if bars = 0 then
        { m.clock with barSet := none, vamp := m.clock.vamp.filter fun v => decide (bar ≤ v.last) } else m.clock)
    ∧ FlashPending m.now k.lead t false
      { bar := bar, beat := 1, pass := (k.vamp.map (·.loops)).getD 0
        phase := if bars = 0 then .inShow else .countIn 1, tempo := displayedTempo k.period }
      m.video u.video
    ∧ u.follower = windowOpened t m.follower
    ∧ (1 ≤ bars →
      u.clock = beatWritten k m.follower t bar 1 (.countIn 1) k.period
          { time := k.period.map (t + ·), kind := if 1 < bars * g.record.meter then .countIn 2 else .down }
      ∧ u.channels = m.channels.map (scheduleChannel (countInBeat g k m.now t bar 1) k.lead))
    ∧ (bars = 0 →
      u.clock = showWritten k m.follower t bar 1 k.period (showNext (k.period.map (t + ·)) g.record.meter bar 1)
      ∧ u.channels = m.channels.map (scheduleChannel (showBeat g k m.now t bar 1) k.lead))
    ∧ { u with clock := m.clock, follower := m.follower, channels := m.channels, video := m.video } = m

/-- What the fire of cue `c` by `source` makes of the state `s` it is taken in, with an IDLE clock and a FREE follower whose
windows are closed (R11, R17, R18): without a record, or with a TACET one, the clock stays IDLE; any other starts it. The first
beat waits for a pulse under CONDUCTED, and under FIXED and FOLLOW for its commit where the spacing holds it back; otherwise it
is committed at once, here for a record whose ramp does not begin there, in a state in which no hold is armed, no record
pending and no AT_BAR cue waits for it. -/
def FiresFromIdle (c : Cue) (source : FireSource) (s u : State) : Prop :=
  ∃ m : State, FiresBesideClock c source s m
    ∧ ((∀ r, tempoHanded c s = some r → r.mode = .tacet) →
      u = m ∧ m.clock = clockHanded c s.clock.pendingRec s.clock ∧ m.follower = s.follower
        ∧ m.attention[3]? = s.attention[3]?)
    ∧ ∀ r, tempoHanded c s = some r → r.mode ≠ .tacet →
      m.clock = clockStarted c r s.now s.clock ∧ FollowerTold { record := r, marked := recordPeriod r } s m
      ∧ (r.mode = .conducted → u = m)
      ∧ (r.mode ≠ .conducted → (∃ k, s.clock.spacing = some k ∧ s.now + s.clock.lead < k + 100000) → u = m)
      ∧ (r.mode ≠ .conducted → (∀ k, s.clock.spacing = some k → k + 100000 ≤ s.now + s.clock.lead) →
        (r.countIn = 0 → s.clock.holdArmed = false ∧ s.clock.pendingRec = none ∧ r.ramp = none
          ∧ ∀ n d, afterCurrent s.store.cues (some c.number) = some n → findCue s.store.cues n = some d →
            d.trigger ≠ .atBar (startBar c s.clock) 1) →
        FirstBeatCommitted { record := r, marked := recordPeriod r } r.countIn (startBar c s.clock) (s.now + s.clock.lead)
          m u)

/-- A fire of cue `c` by `source`, whatever the clock does: on a clock that is not IDLE, and on an IDLE one. -/
def FireTaken (c : Cue) (source : FireSource) (s u : State) : Prop :=
  (s.clock.st ≠ .idle → Fires c source s u)
    ∧ (s.clock.st = .idle → s.follower.st = .free → (∀ l, s.follower.last = some l → l.isOpen = false) →
      FiresFromIdle c source s u)

/-- The clock that a start order to bar `bar` with `bars` bars of count-in starts under `g` at show time `now`, no beat of the
start being committed yet; under a record newly taken, `fresh`, P is its marked period, and otherwise it stays (R17, R19). -/
def orderStarted (bar bars : Nat) (g : Governing) (fresh : Bool) (now : Nat) (k : BeatClock) : BeatClock :=
  { k with
    gov := some g
    period := if g.record.mode = .conducted then none else if fresh then some g.marked else k.period
    ramp := none
    st := if bars = 0 then .running else .countingIn
    next := some { time := if g.record.mode = .conducted then none else some (firstBeat now k)
                   kind := if bars = 0 then .down else .countIn 1 }
    start := some { bar := bar, beats := bars * g.record.meter, ramp := fresh && g.record.ramp.isSome } }

/-- The stop state enters RUN in `s`, which goes over into `u` (R99, R170): a DEFERRED follow timer's cue fires. -/
def EntersRun (s u : State) : Prop :=
  ((∀ n, s.seq.timer ≠ .deferred n) → u = withStop .run s)
    ∧ ∀ n c, s.seq.timer = .deferred n → findCue s.store.cues n = some c →
      FireTaken c .follow { withStop .run s with seq := { s.seq with timer := .idle } } u

/-- The SHOW downbeat of `bar` that has been committed is tested in RUN (R98, R156): an AT_BAR cue that waits for it fires. -/
def DownbeatTested (bar : Nat) (s u : State) : Prop :=
  (NoAtBar bar 1 s → u = s)
    ∧ ∀ n c, nextCue s = some n → findCue s.store.cues n = some c → c.trigger = .atBar bar 1 → Fires c .atBar s u

/-- A GO of the host, which is answered OK with this code and no cue, or of the desk, answers next `u` (R96). -/
def GoTaken (desk : Bool) (t held code : Nat) (s u : State) : Prop :=
  (desk = false → exec (.go t) s = .next (u.replied .ok [.num 1 code, .cue none]))
    ∧ (desk = true → exec (.deskGoEdge t held) s = .next u)

/-- What a start order with a usable record, `bars` bars of count-in and the stop state COUNT_IN of the given kind makes of
`s`, whose clock is FROZEN or IDLE and whose follower has no window open (R17 to R19, R161, R169): the clock starts, the
follower is told the record, and the first beat waits for a pulse under CONDUCTED or for its commit where the spacing holds it
back, and is committed at once otherwise, without a count-in here for a start whose ramp does not begin there, with no hold
armed and no record pending. The stop state is COUNT_IN, or without a count-in RUN, and then the downbeat is tested for
AT_BAR. -/
def StartOrdered (kind : CountInKind) (bar bars : Nat) (g : Governing) (fresh : Bool) (s u : State) : Prop :=
  ∃ m : State, m.clock = orderStarted bar bars g fresh s.now s.clock ∧ FollowerTold g s m
    ∧ (∀ k, k ≠ 3 → m.attention[k]? = s.attention[k]?)
    ∧ { m with clock := s.clock, follower := s.follower, attention := s.attention }
      = (if bars = 0 then s else withStop (.countIn kind) s)
    ∧ ((g.record.mode = .conducted ∨ ∃ k, s.clock.spacing = some k ∧ s.now + s.clock.lead < k + 100000) →
      (1 ≤ bars → u = m) ∧ (bars = 0 → EntersRun m u))
    ∧ (g.record.mode ≠ .conducted → (∀ k, s.clock.spacing = some k → k + 100000 ≤ s.now + s.clock.lead) →
      (1 ≤ bars → FirstBeatCommitted g bars bar (s.now + s.clock.lead) m u)
        ∧ (bars = 0 → s.clock.holdArmed = false → s.clock.pendingRec = none → (fresh = true → g.record.ramp = none) →
          ∃ x v : State, FirstBeatCommitted g bars (s.clock.barSet.getD bar) (s.now + s.clock.lead) m x
            ∧ EntersRun x v ∧ DownbeatTested (s.clock.barSet.getD bar) v u))

/-- What a start order without a usable record makes of `s` (R19, R161, R169): the clock is IDLE with no governing record, the
follower is FREE, and the stop state is RUN. -/
def NoneUsable (s u : State) : Prop :=
  ∃ m : State, m.clock = { s.clock with
      st := .idle, gov := none, ramp := none, next := none, period := none, start := none }
    ∧ FollowerFreed s m ∧ (∀ k, k ≠ 3 → m.attention[k]? = s.attention[k]?)
    ∧ { m with clock := s.clock, follower := s.follower, attention := s.attention } = s
    ∧ EntersRun m u

/-! ### The overlay and the stations -/

/-- The output field after that of `v`, starting at `ref`: its number, its start, and the last start earlier than it (R145,
R151). -/
def fieldAfter (ref : Nat) (v : Video) : Video :=
  { v with
    fieldNo := v.fieldNo + 1, fieldStart := ref
    earlierStart := if refTime v.fieldStart = refTime ref then v.earlierStart else some (refTime v.fieldStart) }

/-- What the start of an output field brings, its number and start being those of `v` (R149, R151): the pending flash that
is chosen for it starts, or a lit flash goes on, and the field is drawn from a fresh snapshot. -/
def FieldBegins (overlay : Bool) (v u : Video) : Prop :=
  (∀ p, v.waiting = some p → p.field = v.fieldNo →
      u.waiting = none
      ∧ u.content = { v.content with displayed := if p.displays then some p.content else v.content.displayed }
      ∧ u.lit = some { pit := if v.settings.pit.elements.flash then v.settings.pit.length else 0
                       stage := if v.settings.stage.elements.flash then v.settings.stage.length else 0 }
      ∧ u.lastError = (refTime v.fieldStart : Int) - (p.time : Int) + (v.settings.delay : Int)
      ∧ ∀ ideal : Int, ideal = (p.time : Int) - (v.settings.delay : Int) →
        u.lateCount = if p.conducted = false ∧ ∃ x ∈ p.before :: p.earlier.toList,
            ((x : Int) - ideal).natAbs < ((refTime v.fieldStart : Int) - ideal).natAbs then
          min 65535 (v.lateCount + 1) else v.lateCount)
    ∧ ((∀ p, v.waiting = some p → p.field ≠ v.fieldNo) →
      u.waiting = v.waiting ∧ u.content = v.content ∧ u.lastError = v.lastError ∧ u.lateCount = v.lateCount
      ∧ (v.lit = none → u.lit = none)
      ∧ ∀ l, v.lit = some l →
        u.lit = if l.pit ≤ 1 ∧ l.stage ≤ 1 then none else some { pit := l.pit - 1, stage := l.stage - 1 })
    ∧ u.snapshot = { overlay := overlay, camera := v.mode == .locked, content := u.content, banner := bannerOf u.content,
                     pit := v.settings.pit, stage := v.settings.stage }
    ∧ { u with waiting := v.waiting, content := v.content, lit := v.lit, lastError := v.lastError
               lateCount := v.lateCount, snapshot := v.snapshot } = v

/-- The measurements after a field start at `ref` that ends a field of `lines` syncs begun at `began`, and the good line
that came with it (R138, R141). -/
def fieldMeasured (ref began : Nat) (v : Video) : Video :=
  { v with
    badRun := 0, lastSync := some ref, inputField := some ref, lines := 0
    measured := (classifyLines v.lines).or v.measured
    lastLength := some (refTime ref - refTime began) }

/-- LOCKED is left for FIELD_SEEK (R143, R145, R146): the field run begins as given, and the output is in FREE_RUN. -/
def lockLeft (run : Nat) (rate : Option Rate) (v : Video) : Video :=
  { v with
    genlock := .fieldSeek, fieldRun := run, fieldRate := rate, lockedRate := none, seekPrimed := true
    mode := .freeRun, retime := false, snapshot := { v.snapshot with camera := false } }

/-- The entry of station `i` in the rebuild account once the rebuild for cue `n` has given its orders: PENDING where its
word counts it, and then as its switch ends at once or goes on (R125, R128, R166, R167). -/
def entryAfterRebuild (s : State) (n : CueNo) (i : Fin 6) : Account :=
  if ((s.words i).online && !(s.words i).excluded) = false then .notCounted
  else if (s.station i).serves = false then .waiting
  else match (trackedPatch s.store.cues n i).map (·.1) with
    | none => .satisfied
    | some p =>
      if (s.station i).switch.map (·.patch) = some p then .waiting
      else if findMap s.map (i.val + 1) p = none then .failed
      else if (s.station i).isHot p then .satisfied else .waiting

/-! ### Stops and rebuilds -/

/-- What the stop orders of the Station Controller and the Cue Sequencer make of `s` (R106, R127): latch and timer are cleared,
and, where the latch was set, each station is handed its targets; every ONLINE, included station sends SILENCE, its two places
are cleared, and its switch in progress ends DROPPED; any other station does nothing but take its targets. The rest of a
station stays but for what the preload recompute of that hand-over does, and only STATION_FAULT may be raised by it. -/
def RigsStopped (s u : State) : Prop :=
  u.seq = { s.seq with latch := none, timer := .idle, ahead := if s.seq.latch = none then s.seq.ahead else lookAhead s }
    ∧ (s.seq.latch ≠ none → s.stations.length = 6 → ∀ i, TargetsHeld i u)
    ∧ (∀ i, (s.station i).serves = false →
      (s.seq.latch = none → u.station i = s.station i)
        ∧ u.station i = { s.station i with ahead := (u.station i).ahead, standbyTarget := (u.station i).standbyTarget })
    ∧ (∀ i, (s.station i).serves = true →
      ∀ st : Station, st = { s.station i with
        silence := true, selectPlace := none, loadPlace := none, switch := none
        lastSwitch := match (s.station i).switch with
          | some w => some { cue := w.cue, patch := some w.patch, kind := w.kind, outcome := .dropped, lateness := none }
          | none => (s.station i).lastSwitch } →
      (s.seq.latch = none → u.station i = st)
        ∧ { u.station i with
            ahead := st.ahead, standbyTarget := st.standbyTarget, preload := st.preload, pressure := st.pressure
            failed := st.failed, faults := st.faults } = st)
    ∧ (s.seq.latch = none → u.attention[1]? = s.attention[1]?)

/-- What the orders of a stop by `src` and SHOW_STOP with the stop position `p` make of `s` (R25, R62, R106, R127, R152, R162):
the clock neither counts in nor runs, with no hold armed and no release; no burst waits to start; the pending flash is
dropped, the lit one ends, and the overlay holds STOPPED. -/
def StopOrdered (src : Source) (p : StopPosition) (s u : State) : Prop :=
  (u.clock.st = (if s.clock.st = .idle then .idle else .frozen) ∧ u.clock.holdArmed = false
      ∧ (s.clock.st.beats = true → u.clock.next = none) ∧ u.clock.position = s.clock.position
      ∧ u.clock.vamp = s.clock.vamp.map (fun x => { x with release := false }) ∧ u.clock.spacing = s.clock.spacing
      ∧ u.clock.pendingRec = s.clock.pendingRec ∧ u.clock.barSet = s.clock.barSet
      ∧ u.clock.lastShowBar = s.clock.lastShowBar ∧ u.clock.lead = s.clock.lead
      ∧ u.clock.rebuildRec = s.clock.rebuildRec
      ∧ (s.clock.st.beats = false → u.clock = { s.clock with
          holdArmed := false, vamp := s.clock.vamp.map fun x => { x with release := false } }))
    ∧ (u.follower.st = s.follower.st ∧ u.follower.accepted = s.follower.accepted
      ∧ u.follower.rejected = s.follower.rejected ∧ u.follower.missed = s.follower.missed
      ∧ u.follower.settings = s.follower.settings ∧ (s.clock.st.beats = false → u.follower = s.follower))
    ∧ u.channels = s.channels.map (fun c => { c with bursts := [] })
    ∧ u.video = { s.video with
        waiting := none, lit := s.video.lit.map fun l => { pit := min l.pit 1, stage := min l.stage 1 }
        content := { s.video.content with
          stopState := .stopped, standby := if s.seq.latch = none then s.video.content.standby else none } }
    ∧ RigsStopped s u
    ∧ u.attention[0]? = s.attention[0]?.map (Condition.raised (.showStop src p) s.now)
    ∧ (∀ k, 2 ≤ k → u.attention[k]? = s.attention[k]?)
    ∧ { u with stop := s.stop, clock := s.clock, follower := s.follower, channels := s.channels, seq := s.seq,
               video := s.video, stations := s.stations, attention := s.attention } = s

/-- A fresh rebuild for the resume point `r` (R165, R166): the resume point is `r`, its cue becomes current in every block, the
clock keeps the tracked tempo record and discards what was pending, the channels take the tracked click state and the overlay
the tracked caption. The account is counted afresh from each station's word and then from its switch, and the stop state is
READY exactly when no entry blocks it, which raises RESUME_READY. An ONLINE, included station has taken its tracked patch as a
switch with the rebuild mark and no fire time, and every station its targets after that (R104, R128). -/
def RebuiltFor (r : ResumePoint) (s u : State) : Prop :=
  u.clock = { s.clock with
      position := { s.clock.position with cue := some r.cue }
      rebuildRec := (trackedTempo s.store.cues r.cue).map (·.1)
      pendingRec := none, barSet := none, vamp := none, ramp := none }
    ∧ u.channels = (clickTracked r.cue s).channels
    ∧ u.seq = { s.seq with current := some r.cue, pointer := none, latch := none, timer := .idle, ahead := lookAhead u }
    ∧ (s.stations.length = 6 → ∀ i, TargetsHeld i u)
    ∧ u.stop = { s.stop with
        resume := some r, account := u.stop.account
        st := if u.stop.account.any Account.blocks then .rebuilding else .ready }
    ∧ u.video = { s.video with content := { s.video.content with
        stopState := u.stop.st, cue := some r.cue, standby := none, caption := captionAt s.store.cues r.cue } }
    ∧ (s.stop.words.length = 6 → ∀ i : Fin 6, u.stop.account[i.val]? = some (entryAfterRebuild s r.cue i))
    ∧ (s.stations.length = 6 → ∀ i : Fin 6,
      ((s.station i).serves = false → (u.station i).switch = (s.station i).switch)
      ∧ ((s.station i).serves = true → (trackedPatch s.store.cues r.cue i).map (·.1) = none → (u.station i).switch = none)
      ∧ ∀ p, (s.station i).serves = true → (trackedPatch s.store.cues r.cue i).map (·.1) = some p →
        (((s.station i).switch.map (·.patch) = some p
            ∨ (findMap s.map (i.val + 1) p).isSome = true ∧ (s.station i).isHot p = false) →
          ∃ w, (u.station i).switch = some w ∧ w.patch = p ∧ w.cue = some r.cue ∧ w.fireTime = none ∧ w.rebuild = true)
        ∧ ((s.station i).switch.map (·.patch) ≠ some p →
          (findMap s.map (i.val + 1) p = none ∨ (s.station i).isHot p = true) → (u.station i).switch = none))
    ∧ u.attention[2]? = (if u.stop.st = .ready then s.attention[2]?.map (Condition.raised (.resumeReady r.cue r.bar) s.now)
      else s.attention[2]?)
    ∧ (∀ k, k ≠ 1 → k ≠ 2 → u.attention[k]? = s.attention[k]?)
    ∧ { u with stop := s.stop, clock := s.clock, channels := s.channels, seq := s.seq, video := s.video,
               stations := s.stations, attention := s.attention } = s

/-- An event of R168 taken in `s`, the station or the Sequencer having come to `m` by it: a fresh rebuild in REBUILDING and
READY, and nothing more in any other stop state. -/
def RebuildsAgain (s m u : State) : Prop :=
  (s.stop.st.rebuilds = false → u = m)
    ∧ (s.stop.st.rebuilds = true → ∀ r, s.stop.resume = some r → RebuiltFor r m u)

/-- In `u` the rebuild of `s` for `r` goes on with the account `a` (R148, R155, R167, R171): the stop state is READY exactly
when no entry is PENDING or FAILED, the overlay holds it, and RESUME_READY is raised where READY is entered, `leaves` telling
that it is not the READY of `s`; the rest of the Stop Controller and of the overlay stays but for the stations' words. -/
def AccountTaken (r : ResumePoint) (a : List Account) (leaves : Bool) (s u : State) : Prop :=
  { u.stop with words := s.stop.words }
      = { s.stop with account := a, st := if a.any Account.blocks then .rebuilding else .ready }
    ∧ u.video = { s.video with content := { s.video.content with stopState := u.stop.st } }
    ∧ u.attention[2]? = (if leaves = true ∧ u.stop.st = .ready then
        s.attention[2]?.map (Condition.raised (.resumeReady r.cue r.bar) u.now) else s.attention[2]?)

/-- No entry of the account changes, and the stop state stays (R167). -/
def AccountKept (s u : State) : Prop :=
  { u.stop with words := s.stop.words } = s.stop ∧ u.video = s.video ∧ u.attention[2]? = s.attention[2]?

/-- The account of `s` after a report SATISFIED or FAILED for station `i`: only a PENDING entry changes (R167). -/
def accountReported (i : Fin 6) (satisfied : Bool) (s : State) : List Account :=
  s.stop.account.modify i.val fun a => if a = .waiting then (if satisfied then .satisfied else .failed) else a

/-- The account of `s` with the entry of station `i` set (R167). -/
def accountSet (i : Fin 6) (a : Account) (s : State) : List Account := s.stop.account.modify i.val fun _ => a

/-- The entry of station `i` once its resync for cue `n` has started a switch with the rebuild mark in `s`, where it had none
(R123, R128, R129, R167). -/
def entryAfterResync (s : State) (n : CueNo) (i : Fin 6) : Account :=
  match (trackedPatch s.store.cues n i).map (·.1) with
  | none => .satisfied
  | some p =>
    if findMap s.map (i.val + 1) p = none then .failed else if (s.station i).isHot p then .satisfied else .waiting

/-- What command `c`, taken at `t`, ends the switch of station `i` that has come to `stage`, SATISFIED or FAILED (R115, R116,
R121, R126): the answer or the timeout of the frame it waits for, or its cold load, to be sent without an entry or a victim. -/
def EndsSwitch (t : Nat) (i : Fin 6) (s : State) (c : Instr) (stage : SwitchStage) (satisfied : Bool) : Prop :=
  (∃ o, (s.station i).outSelect = some o ∧ stage = .selecting o.slot
      ∧ (c = .selected t i o.slot ∧ GapHeld (s.station i) 4 (max s.now t) ∧ satisfied = true
        ∨ c = .selectTimeout i ∧ o.due ≠ none ∧ satisfied = false))
    ∨ (∃ o, (s.station i).outLoad = some o ∧ stage = .loading o.slot ∧ satisfied = false
      ∧ (c = .loadFailed t i o.slot ∧ GapHeld (s.station i) 4 (max s.now t) ∨ c = .loadTimeout i ∧ o.due ≠ none))
    ∨ (∃ p, stage = .coldHeld ∧ satisfied = false ∧ c = .stationSend t i ∧ (s.station i).excluded = false
      ∧ (s.station i).sending = none ∧ (s.station i).silence = false
      ∧ ((s.station i).selectPlace = none ∨ (s.station i).outSelect ≠ none) ∧ (s.station i).loadPlace = some p
      ∧ (s.station i).outLoad = none
      ∧ (findMap s.map (i.val + 1) p = none ∨ ∀ k v, ¬VictimIs false (s.station i) k v))

/-- `u`, come of a state in a rebuild, and `v`, come of the same with the stop state RUN, differ in nothing but the stop state
and the overlay's copy of it, the account, and RESUME_READY. -/
def AlikeBesideRebuild (u v : State) : Prop :=
  { u with
    stop := { u.stop with st := v.stop.st, account := v.stop.account }
    video := { u.video with content := { u.video.content with stopState := v.video.content.stopState } }
    attention := v.attention } = v
  ∧ ∀ k, k ≠ 2 → u.attention[k]? = v.attention[k]?

/-- What a channel's list withdraws at a new beat burst in the frame `onset`: the SUB bursts at or after it (R59). -/
def keptBursts (onset : Int) (bursts : List Burst) : List Burst :=
  bursts.filter fun b => decide (b.kind ≠ .sub ∨ b.onset < onset)

/-- The onset frame of part `j` of a beat that a channel sounds in `parts` parts (R57, R58). -/
def partOnset (r : BeatRec) (lead p parts j : Nat) (c : Channel) : Int :=
  onsetFrame ((r.time : Int) - (min c.settings.lead lead : Nat) + (p * j / parts : Nat))

/-- The burst of part `j` of a beat, its frames open from `openFrame` on (R52, R57, R58). -/
def partBurst (r : BeatRec) (lead p parts openFrame j : Nat) (c : Channel) : Burst :=
  { kind := if j = 0 then beatBurstKind c.settings.accent r.beat else .sub
    frequency := toneFrequency c.settings.toneSet (if j = 0 then beatBurstKind c.settings.accent r.beat else .sub)
    peak := peakOf (c.settings.down + if j = 0 then 0 else 6)
    onset := partOnset r lead p parts j c
    frame := max (partOnset r lead p parts j c).toNat openFrame }

/-- A field of a masked request: its new value where the mask selects it (00 section 3.7). -/
def written {α : Type} (x : Option α) (old : α) : α := x.getD old

end Sys2Proof.Machine
end

