-- ==== Sys2Proof/Certificates/Slice0/Obligations.lean ====
section
/-! DEFINITION. The statements for the provers. Every Prop says what the manual's rules make of a command or of the part;
where one rests on a choice of the model its docstring names the log entry. -/

open Sys2Proof Sys2Proof.Machine

/-! ## The queue, power and the whole machine -/

/-- Each step takes the command at the front of the queue and runs it with the rest of the queue. On an empty queue
the part idles: the model's choice (log 3). -/
def Obligations.StepTakesTheFrontCommand : Prop :=
  (∀ (s : State) (c : Instr) (rest : List Instr),
      s.pending = c :: rest → step s = exec c { s with pending := rest })
    ∧ (∀ s : State, s.pending = [] → step s = .next s)

/-- Every command answers a next state: what the manual calls faults are records, and a request that is not taken is
refused in its reply (log 3, log 8). A part without power reacts to POWER_ON alone: the model's choice for events that
cannot come (log 3). Show time never goes back while the part has power (00 section 3.1, log 2). During the power-on load
every request but IDENTIFY, ATTENTION QUERY and ATTENTION PEEK is answered BUSY with no body and has no effect (R88, R181,
R186). -/
def Obligations.EveryCommandAnswersANextState : Prop :=
  (∀ (c : Instr) (s : State), ∃ u : State, exec c s = .next u)
    ∧ (∀ (c : Instr) (s : State), s.powered = false → (∀ a b, c ≠ .powerOn a b) → exec c s = .next s)
    ∧ (∀ (c : Instr) (s u : State), (∀ a b, c ≠ .powerOn a b) → (∀ m, c ≠ .powerLost m) → exec c s = .next u → s.now ≤ u.now)
    ∧ (∀ (c : Instr) (s : State), s.powered = true → s.loading = true → (requestOf c).isSome = true →
      servedInLoad c = false → ∃ t, exec c s = .next ((s.goTo t).replied .busy []))

/-- POWER_ON: every block starts as after reset, at the line rate of the straps, over what the flash holds; the
commands still to come stay in the queue (R174, R186). POWER_LOST: nothing but the flash is kept, and of a store in
progress the marker stands only where it had been written at the mark stage (R86). What reset leaves of the values that
the manual states (R2, R29, R51, R70, R90, R109, R140, R155, R180, R190): the part is loading its show, and every block is
empty or idle; the properties that the manual promises of every state hold after reset. Details that are the model's
choices: log 6 and log 7. -/
def Obligations.PowerOnResetAndLoss : Prop :=
  ((∀ (s : State) (lrate1 lrate0 : Bool), ∃ r : LineRate,
      exec (.powerOn lrate1 lrate0) s
          = .next { State.reset with pending := s.pending, flash := s.flash, link := { State.reset.link with rate := r } }
        ∧ r.baud = (if lrate1 then (if lrate0 then 921600 else 460800) else (if lrate0 then 230400 else 115200)))
    ∧ (∀ (s : State) (written : Bool), s.powered = true →
      exec (.powerLost written) s
        = .next { State.reset with
            pending := s.pending, powered := false, link := { State.reset.link with rate := s.link.rate }
            flash := match s.store.job with
              | none => s.flash
              | some j => { s.flash with
                  marker := if j.stage = .mark ∧ written = true then true else false } }))
    ∧ (State.reset.powered = true ∧ State.reset.loading = true ∧ State.reset.now = 0 ∧ State.reset.pending = []
      ∧ State.reset.clock.st = .idle ∧ State.reset.clock.position = Position.empty ∧ State.reset.clock.spacing = none
      ∧ State.reset.follower.st = .free ∧ State.reset.follower.accepted = 0 ∧ State.reset.follower.lastError = 0
      ∧ State.reset.channels.length = 16
      ∧ (∀ c ∈ State.reset.channels,
          c.trackedOn = false ∧ c.trackedSub = 1 ∧ c.override = .none ∧ c.lateCount = 0 ∧ c.bursts = [])
      ∧ State.reset.store.cues = [] ∧ State.reset.store.cueCount = 0 ∧ State.reset.store.poolUsed = 0
      ∧ State.reset.store.job = none ∧ State.reset.map = []
      ∧ State.reset.seq.current = none ∧ State.reset.seq.pointer = none ∧ State.reset.seq.latch = none
      ∧ State.reset.seq.timer = .idle ∧ State.reset.seq.lastFire = none
      ∧ State.reset.stations.length = 6
      ∧ (∀ st ∈ State.reset.stations, st.link = .offline ∧ st.present = false ∧ st.excluded = false ∧ st.hostPins = []
          ∧ st.faults = { first := none, count := 0 } ∧ st.protoErrors = 0)
      ∧ State.reset.video.genlock = .noSignal ∧ State.reset.video.mode = .freeRun ∧ State.reset.video.lateCount = 0
      ∧ State.reset.stop.st = .run ∧ State.reset.stop.position = none ∧ State.reset.stop.resume = none
      ∧ State.reset.stop.account = List.replicate 6 .notCounted
      ∧ State.reset.attention.length = 9
      ∧ (∀ c ∈ State.reset.attention, c.isPending = false ∧ c.record = none ∧ c.count = 0 ∧ c.enabled = true)
      ∧ attnLine State.reset = false
      ∧ State.reset.link.got = none ∧ State.reset.link.queue = [] ∧ State.reset.link.sending = none
      ∧ State.reset.link.gaps = 0 ∧ State.reset.link.crcs = 0 ∧ State.reset.link.lengths = 0
      ∧ State.reset.link.overflows = 0 ∧ State.reset.link.breaks = 0)
    ∧ (State.reset.Sized ∧ State.reset.StoreSound ∧ State.reset.MapSound ∧ State.reset.SettingsSound
      ∧ State.reset.CopiesAgree ∧ State.reset.PointerSound ∧ State.reset.StopSound ∧ State.reset.StationsSound
      ∧ State.reset.ReadySound ∧ State.reset.LinkSound)

/-! ## Promises that every step keeps -/

/-- The six stations, sixteen channels, nine conditions and the stations' words and account entries stay so many. At
most four intact frames of at most 240 payload bytes wait, and a frame in reception is unfinished (R175, R179). -/
def Obligations.StepKeepsSizesAndLink : Prop :=
  (∀ s u : State, s.Sized → step s = .next u → u.Sized)
    ∧ (∀ s u : State, s.LinkSound → step s = .next u → u.LinkSound)

/-- The cue list stays within its capacity, in strictly increasing number order, of valid records, with the count and
the pool used that belong to it (R67, R70 to R72). -/
def Obligations.StepKeepsStoreSound : Prop :=
  ∀ s u : State, s.StoreSound → step s = .next u → u.StoreSound

/-- The patch map keeps at most 512 entries within their ranges, no key twice (R117, R118). The settings and the
protect configuration stay within their ranges (R7, R49, R65, R83, R107, R153). -/
def Obligations.StepKeepsMapAndSettingsSound : Prop :=
  (∀ s u : State, s.MapSound → step s = .next u → u.MapSound)
    ∧ (∀ s u : State, s.SettingsSound → step s = .next u → u.SettingsSound)

/-- The current cue, the stop state and the standby cue are the same in every block that is handed them (R90, R94,
R148, R155). An EXPLICIT pointer names a cue of the list, and a latch that is set holds the next cue (R90, R94, R105). -/
def Obligations.StepKeepsCopiesAndPointer : Prop :=
  (∀ s u : State, s.CopiesAgree → step s = .next u → u.CopiesAgree)
    ∧ (∀ s u : State, s.PointerSound → step s = .next u → u.PointerSound)

/-- In HELD, STOPPED, REBUILDING and READY the clock neither counts in nor runs and no burst waits to start; while a
hold drains the clock is FROZEN (R156, R159). -/
def Obligations.StepKeepsStopSound : Prop :=
  ∀ s u : State, s.StopSound → step s = .next u → u.StopSound

/-- A station without PRESENT is OFFLINE, one that is not ONLINE holds nothing, and a slot is LOADING exactly when it
is the target of the outstanding LOAD (R109, R110, R115). No two slots of a station that are not EMPTY hold the same patch id
(R120); a switch in progress has its slot, its SELECT or its cold load, and nothing else stands in the two places (R123, R124).
In REBUILDING and READY each ONLINE, included station is counted, its switch is a rebuild switch to the tracked patch at the
resume cue, and SATISFIED means that it has confirmed selection of it, or that none is tracked (R166, R167): so that in READY
every such station has confirmed selection of a slot holding the patch that the tracked state of the resume cue names for it,
or that names none (R168). -/
def Obligations.StepKeepsStationsSound : Prop :=
  (∀ s u : State, s.StationsSound → step s = .next u → u.StationsSound)
    ∧ (∀ s u : State, s.Sized → s.StationsSound → s.ReadySound → step s = .next u → u.ReadySound ∧ u.ReadyKept)
    ∧ ∀ s : State, s.Sized → s.ReadySound → s.ReadyKept

/-- While a store is in progress no command changes an item of the show image (R85, R87). -/
def Obligations.StoreFreezesTheImage : Prop :=
  ∀ (c : Instr) (s u : State), s.Sized → s.Serving → s.storing = true → (∀ a b, c ≠ .powerOn a b) → (∀ m, c ≠ .powerLost m) →
    exec c s = .next u → imageOf u = imageOf s

/-- Under the protect mode ALL no command but the end of the power-on load and the loss and return of power changes
the cue list or the patch map (R82). -/
def Obligations.ProtectAllFreezesListAndMap : Prop :=
  ∀ (c : Instr) (s u : State), s.store.protect.mode = .all → s.loading = false → (∀ a b, c ≠ .powerOn a b) →
    (∀ m, c ≠ .powerLost m) → exec c s = .next u →
    u.store.cues = s.store.cues ∧ u.store.cueCount = s.store.cueCount ∧ u.store.poolUsed = s.store.poolUsed ∧ u.map = s.map

/-! ## Reads -/

/-- The reads without operands are answered OK with the items of their rules, and change nothing but the time and the
last reply: IDENTIFY and ATTENTION PEEK whenever the part has power, the others once the load has ended (R26, R50,
R84, R108, R154, R184, R193). The reads of one channel or one station: OK with its record for a number in range, RANGE
with no body for another (R66, R135, R137, R182). CUE GET in both views, CUE LIST and MAP GET: a value out of range is
refused with RANGE, a missing cue or entry with NOT_FOUND, and otherwise the reply carries the cue, the tracked state,
the summaries of at most `count` cues, or the entry (R78, R79, R81, R118). The tracked state that CUE GET answers and a tracked
fire hands on (R80): of a list in increasing order, each part is that of the cue with the greatest number at or before n that
carries it, and none where none does; a channel none sets is off with subdivision 1, and the caption empty. Details that are
the model's choices: log 10 and log 30. -/
def Obligations.ReadsChangeOnlyTheReply : Prop :=
  (∀ (s : State) (t : Nat),
      (s.powered = true →
        exec (.identify t) s = .next ((s.goTo t).replied .ok (identifyItems s))
        ∧ exec (.attentionPeek t) s = .next ((s.goTo t).replied .ok (peekItems s)))
      ∧ (s.Serving →
        exec (.protectGet t) s = .next ((s.goTo t).replied .ok (protectItems s))
        ∧ exec (.showGet t) s = .next ((s.goTo t).replied .ok (showGetItems (s.goTo t)))
        ∧ exec (.followGet t) s = .next ((s.goTo t).replied .ok (followGetItems s))
        ∧ exec (.positionGet t) s = .next ((s.goTo t).replied .ok (positionItems s))
        ∧ exec (.videoGet t) s = .next ((s.goTo t).replied .ok (videoGetItems s))))
    ∧ (∀ (s : State) (t n : Nat), s.Serving →
      (∀ h : 1 ≤ n ∧ n ≤ 16,
        exec (.channelGet t n) s = .next ((s.goTo t).replied .ok (channelItems ⟨n - 1, by omega⟩ s)))
      ∧ (¬(1 ≤ n ∧ n ≤ 16) → exec (.channelGet t n) s = .next ((s.goTo t).replied .range []))
      ∧ (∀ h : 1 ≤ n ∧ n ≤ 6,
        exec (.stationGet t n) s = .next ((s.goTo t).replied .ok (stationItems ⟨n - 1, by omega⟩ (s.goTo t))))
      ∧ (¬(1 ≤ n ∧ n ≤ 6) → exec (.stationGet t n) s = .next ((s.goTo t).replied .range []))
      ∧ (¬(1 ≤ n ∧ n ≤ 6) → exec (.faultGet t n) s = .next ((s.goTo t).replied .range [])))
    ∧ (∀ (s : State) (t : Nat) (n : CueNo), s.Serving →
      ((cueNoOk n = true → ∀ c, findCue s.store.cues n = some c →
          exec (.cueGet t 0 n) s = .next ((s.goTo t).replied .ok (ownItems s.store.cues c)))
        ∧ (cueNoOk n = true → findCue s.store.cues n = none →
          exec (.cueGet t 0 n) s = .next ((s.goTo t).replied .notFound []))
        ∧ (cueNoOk n = true → exec (.cueGet t 1 n) s = .next ((s.goTo t).replied .ok (trackedItems s.store.cues n)))
        ∧ (∀ view, cueNoOk n = false ∨ 1 < view → exec (.cueGet t view n) s = .next ((s.goTo t).replied .range [])))
      ∧ (∀ start count,
        (cueNoOk n = true ∧ start ≤ 1 ∧ 1 ≤ count ∧ count ≤ 8 →
          exec (.cueList t n start count) s
            = .next ((s.goTo t).replied .ok
                (listItems summaryItems ((listFrom s.store.cues n start).take count)
                  ++ [.flag (decide (count < (listFrom s.store.cues n start).length))]
                  ++ [.num 2 s.store.cueCount, .num 2 s.store.poolUsed])))
        ∧ (¬(cueNoOk n = true ∧ start ≤ 1 ∧ 1 ≤ count ∧ count ≤ 8) →
          exec (.cueList t n start count) s = .next ((s.goTo t).replied .range [])))
      ∧ (∀ station patch,
        (stationOk station = true → patchOk patch = true → ∀ e, findMap s.map station patch = some e →
          exec (.mapGet t station patch) s
            = .next ((s.goTo t).replied .ok [.num 2 e.bank, .num 1 e.program, .num 2 e.load]))
        ∧ (stationOk station = true → patchOk patch = true → findMap s.map station patch = none →
          exec (.mapGet t station patch) s = .next ((s.goTo t).replied .notFound []))
        ∧ ((stationOk station && patchOk patch) = false →
          exec (.mapGet t station patch) s = .next ((s.goTo t).replied .range []))))
    ∧ (∀ (cues : List Cue) (n : CueNo), increasing cues = true →
      (∀ i : Fin 6, TrackedIs (fun c => (c.patches.find? fun a => a.station == i.val + 1).map (·.patch)) cues n
        (trackedPatch cues n i))
      ∧ TrackedIs (·.tempo) cues n (trackedTempo cues n) ∧ TrackedIs (·.caption) cues n (trackedCaption cues n)
      ∧ captionAt cues n = ((trackedCaption cues n).map (·.1)).getD []
      ∧ ∀ i : Fin 16,
        TrackedIs (fun c => (c.clicks.find? fun a => a.channel == i.val + 1).map (·.on)) cues n (trackedOn cues n i)
        ∧ TrackedIs (fun c => (c.clicks.find? fun a => a.channel == i.val + 1).bind (·.sub)) cues n (trackedSub cues n i)
        ∧ ∀ s : State, s.store.cues = cues → s.channels.length = 16 → ∀ k : State, k = clickTracked n s →
          k.channel i = { s.channel i with
            trackedOn := ((trackedOn cues n i).map (·.1)).getD false
            trackedSub := ((trackedSub cues n i).map (·.1)).getD 1 })

/-! ## The cue list, the patch map and the protection -/

/-- An accepted CUE PUT: a cue of that number is found to be the new record, every other number finds what it found
before, the count rises only for a new number, the pool changes by the difference, and the reply tells whether a cue
was replaced. Nothing changes besides but what the notice of R105 asks for, with the targets that each station is then handed
(R71, R74, R77, R104), and, in REBUILDING and READY, the fresh rebuild that follows the notice (R166, R168). An
accepted CUE DELETE: the number finds no cue, every other number finds what it found before, the count falls by one
and the pool by the cue's entries (R76, R77). Details that are the model's choices: log 10. -/
def Obligations.CueEditsWriteTheList : Prop :=
  (∀ (s : State) (t : Nat) (r : RawCue) (c : Cue), s.Serving → s.storing = false → readCue r = some c →
      protectsCue s.store.protect c.number = false →
      ((findCue s.store.cues c.number).isSome = true ∨ s.store.cueCount < 1024) → poolAfterPut c s ≤ 8192 →
      ∃ u : State, exec (.cuePut t r) s
          = .next (u.replied .ok
              [.num 2 u.store.cueCount, .num 2 u.store.poolUsed,
                .num 1 (if (findCue s.store.cues c.number).isSome then 1 else 0)])
        ∧ (∀ n, findCue u.store.cues n = if n = c.number then some c else findCue s.store.cues n)
        ∧ u.store.cueCount = (if (findCue s.store.cues c.number).isSome then s.store.cueCount else s.store.cueCount + 1)
        ∧ u.store.poolUsed
          = s.store.poolUsed - ((findCue s.store.cues c.number).map cueEntries).getD 0 + cueEntries c
        ∧ { u.store with cues := s.store.cues, cueCount := s.store.cueCount, poolUsed := s.store.poolUsed } = s.store
        ∧ u.now = max s.now t ∧ u.map = s.map ∧ u.flash = s.flash ∧ u.follower = s.follower ∧ u.desk = s.desk
        ∧ u.link = s.link ∧ u.pending = s.pending
        ∧ (∀ k, k ≠ 1 → k ≠ 2 → u.attention[k]? = s.attention[k]?)
        ∧ ∃ m : State,
          NoticeTaken (if (findCue s.store.cues c.number).isSome then .replaced c.number else .inserted) (s.goTo t) m
          ∧ RebuildsAgain s m u)
    ∧ (∀ (s : State) (t : Nat) (n : CueNo) (c : Cue), s.Serving → s.storing = false → cueNoOk n = true →
      protectsCue s.store.protect n = false → findCue s.store.cues n = some c →
      ∃ u : State, exec (.cueDelete t n) s = .next (u.replied .ok [.num 2 u.store.cueCount, .num 2 u.store.poolUsed])
        ∧ (∀ m, findCue u.store.cues m = if m = n then none else findCue s.store.cues m)
        ∧ u.store.cueCount = s.store.cueCount - 1 ∧ u.store.poolUsed = s.store.poolUsed - cueEntries c
        ∧ { u.store with cues := s.store.cues, cueCount := s.store.cueCount, poolUsed := s.store.poolUsed } = s.store
        ∧ u.now = max s.now t ∧ u.map = s.map ∧ u.flash = s.flash ∧ u.follower = s.follower ∧ u.desk = s.desk
        ∧ u.link = s.link ∧ u.pending = s.pending
        ∧ (∀ k, k ≠ 1 → k ≠ 2 → u.attention[k]? = s.attention[k]?)
        ∧ ∃ m : State, NoticeTaken .deleted (s.goTo t) m ∧ RebuildsAgain s m u)

/-- The refusals of the edits, each with no effect on any block: BUSY during a store, then RANGE on the record or the key,
then PROTECTED, then for a cue TABLE_FULL, POOL_FULL with the pool used and the entries needed, or NOT_FOUND, and for the
patch map RANGE on bank, program or expected load, TABLE_FULL for a new key at 512 entries, or NOT_FOUND (R73, R75, R76,
R118). -/
def Obligations.EditsRefused : Prop :=
  ∀ (s : State) (t : Nat), s.Serving →
    (s.storing = true →
      (∀ r, exec (.cuePut t r) s = .next ((s.goTo t).replied .busy []))
      ∧ (∀ n, exec (.cueDelete t n) s = .next ((s.goTo t).replied .busy []))
      ∧ (∀ a b c d e, exec (.mapPut t a b c d e) s = .next ((s.goTo t).replied .busy []))
      ∧ (∀ a b, exec (.mapDelete t a b) s = .next ((s.goTo t).replied .busy [])))
    ∧ (s.storing = false →
      (∀ r, readCue r = none → exec (.cuePut t r) s = .next ((s.goTo t).replied .range []))
      ∧ (∀ n, cueNoOk n = false → exec (.cueDelete t n) s = .next ((s.goTo t).replied .range []))
      ∧ (∀ r c, readCue r = some c →
        (protectsCue s.store.protect c.number = true →
          exec (.cuePut t r) s = .next ((s.goTo t).replied .isProtected []))
        ∧ (protectsCue s.store.protect c.number = false →
          (findCue s.store.cues c.number = none → 1024 ≤ s.store.cueCount →
            exec (.cuePut t r) s = .next ((s.goTo t).replied .tableFull []))
          ∧ (((findCue s.store.cues c.number).isSome = true ∨ s.store.cueCount < 1024) → 8192 < poolAfterPut c s →
            exec (.cuePut t r) s
              = .next ((s.goTo t).replied .poolFull [.num 2 s.store.poolUsed, .num 1 (cueEntries c)]))))
      ∧ (∀ n, cueNoOk n = true → protectsCue s.store.protect n = true →
        exec (.cueDelete t n) s = .next ((s.goTo t).replied .isProtected []))
      ∧ (∀ n, cueNoOk n = true → protectsCue s.store.protect n = false → findCue s.store.cues n = none →
        exec (.cueDelete t n) s = .next ((s.goTo t).replied .notFound []))
      ∧ (∀ a b c d e, stationOk a = true → patchOk b = true → s.store.protect.mode = .all →
        exec (.mapPut t a b c d e) s = .next ((s.goTo t).replied .isProtected [])
          ∧ exec (.mapDelete t a b) s = .next ((s.goTo t).replied .isProtected []))
      ∧ (∀ a b c d e, (stationOk a = false ∨ patchOk b = false) →
        exec (.mapPut t a b c d e) s = .next ((s.goTo t).replied .range [])
          ∧ exec (.mapDelete t a b) s = .next ((s.goTo t).replied .range []))
      ∧ (∀ a b c d e, stationOk a = true → patchOk b = true → s.store.protect.mode ≠ .all →
        (16383 < c ∨ 127 < d ∨ 30000 < e → exec (.mapPut t a b c d e) s = .next ((s.goTo t).replied .range []))
        ∧ (c ≤ 16383 → d ≤ 127 → e ≤ 30000 → findMap s.map a b = none → 512 ≤ s.map.length →
          exec (.mapPut t a b c d e) s = .next ((s.goTo t).replied .tableFull []))
        ∧ (findMap s.map a b = none → exec (.mapDelete t a b) s = .next ((s.goTo t).replied .notFound []))))

/-- Accepted MAP PUT and MAP DELETE: the key finds the new entry, or none, every other key finds what it found before, and the
reply carries the number of entries (R117, R118). The notice reaches the key's station and no other (R119): a slot that holds
the patch becomes STALE, losing its patch id unless it is LOADING, where it is CURRENT or the target of the outstanding SELECT
or LOADING, and EMPTY otherwise; a switch to the patch restarts as a cold load with its cue, fire time and rebuild mark, or,
where the entry is gone, ends MISSED with an UNMAPPED fault; a switch to another patch goes on. In REBUILDING and READY a fresh
rebuild then finds the slots as the notice has left them (R166, R168). Details that are the model's choices: log 23. -/
def Obligations.MapEditsWriteTheTable : Prop :=
  ∀ (s : State) (t station patch : Nat) (i : Fin 6), s.Serving → s.stations.length = 6 → s.storing = false →
    station = i.val + 1 → patchOk patch = true → s.store.protect.mode ≠ .all → s.RebuildSound →
    (∀ bank program load, bank ≤ 16383 → program ≤ 127 → load ≤ 30000 →
      ((findMap s.map station patch).isSome = true ∨ s.map.length < 512) →
      ∃ m u : State, exec (.mapPut t station patch bank program load) s = .next (u.replied .ok [.num 2 u.map.length])
        ∧ RebuildsAgain s m u
        ∧ (∀ a b, findMap u.map a b = if a = station ∧ b = patch then
            some { station := station, patch := patch, bank := bank, program := program, load := load }
          else findMap s.map a b)
        ∧ u.map.length = (if (findMap s.map station patch).isSome then s.map.length else s.map.length + 1) ∧ m.map = u.map
        ∧ OnlyStationAndFault i (s.goTo t) { m with map := s.map } ∧ SlotsNoticed i patch s m
        ∧ (∀ w, (s.station i).switch = some w → w.patch = patch →
          (m.station i).selectPlace = none ∧ (m.station i).loadPlace = some patch
            ∧ (m.station i).switch = some { w with kind := .cold, stage := .coldHeld }
            ∧ (m.station i).lastSwitch = (s.station i).lastSwitch))
    ∧ ((findMap s.map station patch).isSome = true →
      ∃ m u : State, exec (.mapDelete t station patch) s = .next (u.replied .ok [.num 2 u.map.length])
        ∧ RebuildsAgain s m u ∧ m.map = u.map
        ∧ (∀ a b, findMap u.map a b = if a = station ∧ b = patch then none else findMap s.map a b)
        ∧ { m.stop with account := s.stop.account } = s.stop
        ∧ OnlyStationAndFault i (s.goTo t) { m with map := s.map, stop := s.stop } ∧ SlotsNoticed i patch s m
        ∧ (∀ w, (s.station i).switch = some w → w.patch = patch →
          (m.station i).selectPlace = none ∧ (m.station i).loadPlace = none ∧ (m.station i).switch = none
            ∧ (m.station i).lastSwitch = some
              { cue := w.cue, patch := some patch, kind := w.kind, outcome := .missed, lateness := none }
            ∧ (m.station i).faults.first = faultAfter i .unmapped w.cue (some patch) s (max s.now t)))

/-- PROTECT SET in the order of R83, BUSY, KEY_LOCKED, RANGE, then the configuration is replaced whole; and the KEY
line, whose new level is taken once it has been held for 10,000 µs, counted from the internal reset at the earliest.
Nothing else changes. That from and to are absent after a PROTECT SET in mode NONE or ALL is the model's choice (log 28);
other details that are the model's choices: log 11 and log 12. -/
def Obligations.ProtectionAndKey : Prop :=
  ∀ (s : State) (t mode : Nat) (lo hi : CueNo) (lock : Bool),
    (s.Serving →
      (s.storing = true →
        exec (.protectSet t mode lo hi lock.toNat) s = .next ((s.goTo t).replied .busy []))
      ∧ (s.storing = false → s.desk.key = true → s.store.protect.keyLock = true →
        exec (.protectSet t mode lo hi lock.toNat) s = .next ((s.goTo t).replied .keyLocked []))
      ∧ (s.storing = false → (s.desk.key = false ∨ s.store.protect.keyLock = false) →
        exec (.protectSet t mode lo hi lock.toNat) s
          = .next (if mode = 0 then
                { s.goTo t with store := { s.store with
                    protect := { mode := .none, range := none, keyLock := lock } } }.replied .ok []
              else if mode = 1 ∧ cueNoOk lo = true ∧ cueNoOk hi = true ∧ cueLe lo hi = true then
                { s.goTo t with store := { s.store with
                    protect := { mode := .range, range := some (lo, hi), keyLock := lock } } }.replied .ok []
              else if mode = 2 then
                { s.goTo t with store := { s.store with
                    protect := { mode := .all, range := none, keyLock := lock } } }.replied .ok []
              else (s.goTo t).replied .range [])))
    ∧ (s.powered = true → ∀ level held,
      exec (.keyLevelChange t level held) s
        = .next (if 10000 ≤ held ∧ 10000 ≤ max s.now t then { s.goTo t with desk := { s.desk with key := level } } else s.goTo t))

/-! ## The stored show -/

/-- The stages of a store (R85, R86). STORE fixes the image and erases the marker; erase, program, verify and mark
follow one another; the marker stands only after the mark stage read back; a mismatch, a wrong marker, a flash error
and 6,000,000 µs without an end make the store FAILED; each end raises STORE_DONE with the result. Details that are
the model's choices: log 2 and log 7. -/
def Obligations.StoreStages : Prop :=
  ∀ (s : State) (t : Nat),
    (s.Serving → s.store.job = none →
      exec (.store t) s
        = .next ({ s.goTo t with
            flash := FlashArea.blank
            store := { s.store with job := some { image := imageOf s, taken := max s.now t, stage := .erase } }
          }.replied .ok []))
    ∧ (s.Serving → s.store.job.isSome = true → exec (.store t) s = .next ((s.goTo t).replied .busy []))
    ∧ (s.powered = true → ∀ j, s.store.job = some j →
      (j.stage = .erase →
        exec (.flashEraseDone t) s
          = .next { s.goTo t with store := { s.store with job := some { j with stage := .program } } })
      ∧ (j.stage = .program →
        exec (.flashProgramDone t) s
          = .next { s.goTo t with
              store := { s.store with job := some { j with stage := .verify } }
              flash := { marker := false, body := some j.image, crcMatches := true } })
      ∧ (j.stage = .verify →
        exec (.flashVerifyDone t true) s
          = .next { s.goTo t with store := { s.store with job := some { j with stage := .mark } } }
        ∧ exec (.flashVerifyDone t false) s
          = .next (raise (.storeDone .failed) { s.goTo t with
              store := { s.store with job := none, lastImage := .failed }
              flash := { s.flash with crcMatches := false } }))
      ∧ (j.stage = .mark →
        exec (.flashMarkDone t true) s
          = .next (raise (.storeDone .ok) { s.goTo t with
              store := { s.store with job := none, lastImage := .ok }, flash := { s.flash with marker := true } })
        ∧ exec (.flashMarkDone t false) s
          = .next (raise (.storeDone .failed) { s.goTo t with
              store := { s.store with job := none, lastImage := .failed } }))
      ∧ exec (.flashError t) s
        = .next (raise (.storeDone .failed) { s.goTo t with
            store := { s.store with job := none, lastImage := .failed } })
      ∧ exec .storeTimeout s
        = .next (raise (.storeDone .failed) { s.goTo (j.taken + 6000000) with
            store := { s.store with job := none, lastImage := .failed } }))

/-- The end of the power-on load (R68, R88, R89). An accepted image gives the list, the actions of each record in their
order, with its count and pool, the protection, the map and every block's settings, and raises nothing; anything else gives an empty show, default settings, the last
image result INVALID and STORE_DONE with INVALID. In both cases requests are served from then on. Details that are the
model's choices: log 7. -/
def Obligations.LoadInstallsTheImage : Prop :=
  ∀ (s : State) (t : Nat) (a : FlashAnswer), s.powered = true → s.loading = true → s.Sized → s.StationsSound →
    ∃ u : State, exec (.imageLoadEnd t a) s = .next u ∧ u.loading = false ∧ u.powered = true
      ∧ u.flash = (match a with
        | .written area => area
        | _ => s.flash)
      ∧ (∀ i, imageRead s.flash a = some i → i.channels.length = 16 →
        imageOf u = { i with cues := i.cues.map orderedCue } ∧ u.store.cueCount = i.cues.length ∧ u.store.poolUsed = poolOf i.cues
          ∧ u.store.lastImage = .none ∧ u.attention = s.attention)
      ∧ (imageRead s.flash a = none →
        imageOf u = { cues := [], map := [], protect := Protect.initial, lead := 40000, follow := FollowSettings.initial,
                      channels := List.replicate 16 ChannelSettings.initial, video := VideoSettings.initial,
                      settings := ShowSettings.initial }
          ∧ u.store.cueCount = 0 ∧ u.store.poolUsed = 0 ∧ u.store.lastImage = .invalid
          ∧ u.attention = (raise (.storeDone .invalid) (s.goTo t)).attention)
      ∧ u.store.job = s.store.job ∧ u.desk = s.desk ∧ u.stop = s.stop ∧ u.link = s.link ∧ u.pending = s.pending
      ∧ u.now = max s.now t

/-- A show stored and then loaded comes back whole: STORE and its four stages, the loss and return of power, and a
load that reads what the flash holds give the list, the map, the protection and every setting as they stood at STORE.
Details that are the model's choices: log 7. -/
def Obligations.StoredShowComesBack : Prop :=
  ∀ (s : State) (t₀ t₁ t₂ t₃ t₄ t₅ : Nat) (written a b : Bool), s.Serving → s.store.job = none → s.StoreSound →
    s.MapSound → s.SettingsSound →
    ∃ u : State, Host.Core.run Sys2Proof.core 8 { s with pending :=
          [.store t₀, .flashEraseDone t₁, .flashProgramDone t₂, .flashVerifyDone t₃ true, .flashMarkDone t₄ true,
            .powerLost written, .powerOn a b, .imageLoadEnd t₅ .asLeft] } = .next u
      ∧ u.Serving ∧ imageOf u = imageOf s ∧ u.store.cueCount = s.store.cueCount ∧ u.store.poolUsed = s.store.poolUsed
      ∧ u.store.lastImage = .none ∧ attnLine u = false

/-! ## Standby, GO and the fire of a cue -/

/-- STANDBY and the desk STBY edge (R93, R94, R95, R103): refused with WRONG_STATE in STOPPED, REBUILDING and READY and
with END_OF_LIST without a next cue, in the reply or by GO_REFUSED; otherwise the latch and the overlay take the next
cue, and the look-ahead set is worked out afresh and handed to each station with the tracked patch in standby (R104). CANCEL
STANDBY clears a latch that is set, and withdraws it. Details that
are the model's choices: log 10 and log 12. -/
def Obligations.StandbyAndItsCancel : Prop :=
  ∀ (s : State) (t held : Nat), s.Serving →
    ((s.stop.st = .stopped ∨ s.stop.st.rebuilds = true) →
      exec (.standby t) s = .next ((s.goTo t).replied .wrongState [])
      ∧ (DeskEdge .stby t held s → exec (.deskStbyEdge t held) s
        = .next (raise (.goRefused .wrongState .stby) { s.goTo t with desk := { s.desk with stby := true } })))
    ∧ (s.stop.st ≠ .stopped → s.stop.st.rebuilds = false → nextCue s = none →
      exec (.standby t) s = .next ((s.goTo t).replied .endOfList [])
      ∧ (DeskEdge .stby t held s → exec (.deskStbyEdge t held) s
        = .next (raise (.goRefused .endOfList .stby) { s.goTo t with desk := { s.desk with stby := true } })))
    ∧ (s.stop.st ≠ .stopped → s.stop.st.rebuilds = false → ∀ n c, nextCue s = some n → findCue s.store.cues n = some c →
      (∃ u : State, exec (.standby t) s = .next (u.replied .ok (.cue (some n) :: triggerItems c.trigger))
        ∧ LatchTakes (some n) (s.goTo t) u)
      ∧ (DeskEdge .stby t held s → ∃ v : State, exec (.deskStbyEdge t held) s = .next v
        ∧ LatchTakes (some n) { s.goTo t with desk := { s.desk with stby := true } } v))
    ∧ (s.seq.latch = none → exec (.cancelStandby t) s = .next ((s.goTo t).replied .ok [.flag false, .cue none]))
    ∧ (∀ n, s.seq.latch = some n →
      ∃ u : State, exec (.cancelStandby t) s = .next (u.replied .ok [.flag true, .cue (some n)])
        ∧ LatchTakes none (s.goTo t) u)

/-- GO in RUN with a next cue, in standby where standby is required, fires that cue with the source HOST_GO or
DESK_GO, and the expiry of the follow timer in RUN or HOLDING fires the timer's cue with the source FOLLOW at its
expiry time: each with the effect of R101 and R102 on every block, the switch targets and the look-ahead targets of the
stations among them (R96, R97, R99, R104). On a clock that is not IDLE the fire hands the clock its parts. An IDLE one, the
follower being FREE, stays IDLE where it is handed no record or a TACET one, and otherwise starts under the record, with or
without a count-in, to the bar the cue or the pending bar set gives, else the bar after the last show bar, else bar 1; its
first beat is committed at once unless the spacing holds it back or a CONDUCTED record lets it wait for a pulse (R11, R17,
R18). That beat is stated for a start with a count-in, and for one without where no ramp, armed hold, pending record or
AT_BAR cue takes part in the downbeat. Details that are the model's choices: log 2, log 10, log 12, log 18 and log 35. -/
def Obligations.GoAndFollowFire : Prop :=
  (∀ (s : State) (t held : Nat) (n : CueNo) (c : Cue), s.Serving → findCue s.store.cues n = some c →
      (s.stop.st = .run → nextCue s = some n → (s.seq.settings.standbyRequired = true → s.seq.latch.isSome = true) →
        (∃ u : State, FireTaken c .hostGo (s.goTo t) u
          ∧ exec (.go t) s = .next (u.replied .ok [.num 1 0, .cue (some n)]))
        ∧ (DeskEdge .go t held s → ∃ v : State, FireTaken c .deskGo { s.goTo t with desk := { s.desk with go := true } } v
          ∧ exec (.deskGoEdge t held) s = .next v))
      ∧ (∀ expiry, s.stop.st.fires = true → s.seq.timer = .running n expiry →
        ∃ u : State, FireTaken c .follow ({ s with seq := { s.seq with timer := .idle } }.goTo expiry) u
          ∧ exec .followTimerExpiry s = .next u))
    ∧ (∀ (s : State) (t : Nat) (n : CueNo) (c : Cue) (r : TempoRecord), s.Serving → s.stop.st = .run → s.clock.st = .idle →
      nextCue s = some n → findCue s.store.cues n = some c →
      (s.seq.settings.standbyRequired = true → s.seq.latch.isSome = true) →
      (if firesTracked c s then (trackedTempo s.store.cues n).map (·.1) else c.tempo) = some r → r.mode = .fixed →
      1 ≤ r.countIn →
      ∃ u : State, exec (.go t) s = .next (u.replied .ok [.num 1 0, .cue (some n)])
        ∧ u.seq.current = some n ∧ u.clock.position.cue = some n ∧ u.clock.st = .countingIn
        ∧ u.clock.gov = some { record := r, marked := markedPeriod r.bpm10 }
        ∧ u.clock.period = some (markedPeriod r.bpm10) ∧ u.clock.barSet = none ∧ u.follower.st = .free
        ∧ u.clock.start = some { bar := ((c.barSet.or s.clock.barSet).or (s.clock.lastShowBar.map nextBar)).getD 1
                                 beats := r.countIn * r.meter, ramp := r.ramp.isSome }
        ∧ u.clock.lastShowBar = s.clock.lastShowBar ∧ u.stop = s.stop ∧ u.store = s.store)

/-- A GO that is not taken (R96, R97, R103): END_OF_LIST and NO_STANDBY in RUN, STOP_ASSERTED in READY with the desk
STOP line asserted, WRONG_STATE in STOPPED, REBUILDING and COUNT_IN. The host's is refused in its reply, the desk's
raises GO_REFUSED; nothing else changes. A follow timer that expires in HELD or COUNT_IN is deferred (R99). Details
that are the model's choices: log 2 and log 12. -/
def Obligations.GoRefused : Prop :=
  ∀ (s : State) (t held : Nat), s.Serving →
    (∀ why : GoReason,
      (why = .endOfList ∧ s.stop.st = .run ∧ nextCue s = none)
        ∨ (why = .noStandby ∧ s.stop.st = .run ∧ (nextCue s).isSome = true ∧ s.seq.settings.standbyRequired = true
            ∧ s.seq.latch = none)
        ∨ (why = .stopAsserted ∧ s.stop.st = .ready ∧ s.desk.stop = true)
        ∨ (why = .wrongState ∧ (s.stop.st = .stopped ∨ s.stop.st = .rebuilding ∨ ∃ k, s.stop.st = .countIn k)) →
      exec (.go t) s = .next ((s.goTo t).replied why.status [])
      ∧ (DeskEdge .go t held s → exec (.deskGoEdge t held) s
        = .next (raise (.goRefused why .go) { s.goTo t with desk := { s.desk with go := true } })))
    ∧ (∀ n expiry, (s.stop.st = .held ∨ ∃ k, s.stop.st = .countIn k) → s.seq.timer = .running n expiry →
      exec .followTimerExpiry s = .next ({ s with seq := { s.seq with timer := .deferred n } }.goTo expiry))

/-- JUMP in the order of R92: RANGE, WRONG_STATE outside RUN, HOLDING and HELD, NOT_FOUND; otherwise the pointer is
EXPLICIT, latch and STANDBY banner are cleared, the timer is idle, each station is handed its targets, and the reply carries
next and current cue. The next cue (R67, R91): that of an EXPLICIT pointer, and under an IMPLICIT one, of a list in increasing
order, the first behind the current cue, or the first of all, or none. The look-ahead set (R104): the first L cues of the list
from the next cue on, or those that remain, and none without a next cue. -/
def Obligations.JumpSetsThePointer : Prop :=
  (∀ s : State, increasing s.store.cues = true →
      (∀ m, s.seq.pointer = some m → nextCue s = some m)
      ∧ (s.seq.pointer = none → NextIs s.store.cues s.seq.current (nextCue s))
      ∧ (nextCue s = none → lookAhead s = [])
      ∧ ∀ n, nextCue s = some n → ∃ before rest : List Cue, s.store.cues = before ++ rest
        ∧ (∀ c ∈ before, cueLt c.number n = true) ∧ (∀ c ∈ rest, cueLe n c.number = true)
        ∧ lookAhead s = (rest.map (·.number)).take s.seq.settings.lookAhead)
    ∧ ∀ (s : State) (t : Nat) (n : CueNo), s.Serving →
    (cueNoOk n = false → exec (.jump t n) s = .next ((s.goTo t).replied .range []))
    ∧ (cueNoOk n = true → s.stop.st.fires = false → s.stop.st ≠ .held →
      exec (.jump t n) s = .next ((s.goTo t).replied .wrongState []))
    ∧ (cueNoOk n = true → (s.stop.st.fires = true ∨ s.stop.st = .held) → findCue s.store.cues n = none →
      exec (.jump t n) s = .next ((s.goTo t).replied .notFound []))
    ∧ (cueNoOk n = true → (s.stop.st.fires = true ∨ s.stop.st = .held) → (findCue s.store.cues n).isSome = true →
      ∃ u : State, exec (.jump t n) s = .next (u.replied .ok [.cue (some n), .cue s.seq.current])
        ∧ u.seq = { s.seq with pointer := some n, latch := none, timer := .idle, ahead := lookAhead u }
        ∧ u.video = { s.video with content := { s.video.content with standby := none } }
        ∧ HandedOver (fun u => { u with seq := s.seq, video := s.video }) (s.goTo t) u)

/-! ## Hold, stop and resume -/

/-- HOLD and the desk HOLD edge by the table of R158: in RUN and COUNT_IN with the clock RUNNING a hold is armed, with
the clock IDLE the bursts not started go and HELD holds at once; HOLDING and HELD take it without a change; STOPPED,
REBUILDING and READY refuse it, and a desk edge is ignored. A hold during a count-in freezes the clock at once, with
the held position at the starting bar, beat 1; the stop state is HELD, or HOLDING and DRAINING while a burst has not
started (R23, R158, R159). Details that are the model's choices: log 12 and log 19. -/
def Obligations.HoldByState : Prop :=
  (∀ (s : State) (t held : Nat), s.Serving →
      ((s.stop.st = .run ∨ ∃ k, s.stop.st = .countIn k) → s.clock.st = .running →
        exec (.hold t) s
          = .next ((withStop (.holding .armed) { s.goTo t with clock := { s.clock with holdArmed := true } }).replied .ok
              (stopItems (withStop (.holding .armed) s)))
        ∧ (DeskEdge .hold t held s → exec (.deskHoldEdge t held) s
          = .next (withStop (.holding .armed) { s.goTo t with
              clock := { s.clock with holdArmed := true }, desk := { s.desk with hold := true } })))
      ∧ ((s.stop.st = .run ∨ ∃ k, s.stop.st = .countIn k) → s.clock.st = .idle →
        ∃ u : State, u = withStop .held { s.goTo t with
              channels := s.channels.map fun c => { c with bursts := [] }
              stop := { s.stop with held := none } }
          ∧ exec (.hold t) s = .next (u.replied .ok (stopItems u))
          ∧ (DeskEdge .hold t held s →
            exec (.deskHoldEdge t held) s = .next { u with desk := { s.desk with hold := true } }))
      ∧ ((s.stop.st = .held ∨ ∃ g, s.stop.st = .holding g) →
        exec (.hold t) s = .next ((s.goTo t).replied .ok (stopItems s))
        ∧ (DeskEdge .hold t held s →
          exec (.deskHoldEdge t held) s = .next { s.goTo t with desk := { s.desk with hold := true } }))
      ∧ ((s.stop.st = .stopped ∨ s.stop.st.rebuilds = true) →
        exec (.hold t) s = .next ((s.goTo t).replied .wrongState (stopItems s))
        ∧ (DeskEdge .hold t held s →
          exec (.deskHoldEdge t held) s = .next { s.goTo t with desk := { s.desk with hold := true } })))
    ∧ (∀ (s : State) (t bar beats : Nat) (ramp : Bool), s.Serving → (s.stop.st = .run ∨ ∃ k, s.stop.st = .countIn k) →
      s.clock.st = .countingIn → s.clock.start = some { bar := bar, beats := beats, ramp := ramp } → s.clock.ramp = none →
      ∃ u : State, exec (.hold t) s = .next (u.replied .ok (stopItems u))
        ∧ u.clock = { s.clock with st := .frozen, next := none, holdArmed := false, start := none }
        ∧ u.stop = { s.stop with
            st := if s.channels.all (fun c => c.bursts.isEmpty) then .held else .holding .draining
            held := some { bar := bar, pass := (s.clock.vamp.map (·.loops)).getD 0 } }
        ∧ { u with clock := s.clock, stop := s.stop, follower := s.follower, video := s.video } = s.goTo t
        ∧ { u.follower with last := s.follower.last, nextMatched := s.follower.nextMatched } = s.follower
        ∧ u.video = { s.video with content := { s.video.content with stopState := u.stop.st } })

/-- STOP and the desk STOP edge in RUN, HOLDING, HELD and COUNT_IN (R25, R62, R106, R127, R152, R162, R163): the stop
state is STOPPED with the source and the stop position read from the show position; the clock neither counts in nor
runs, with no hold armed and no release; no burst waits to start; latch and timer are cleared; the pending flash is
dropped; every ONLINE included station sends SILENCE and has no switch; SHOW_STOP is raised; the show data stay. A
second STOP (R164), of the host or of the desk: in STOPPED the stations and the Cue Sequencer take their orders again, SILENCE
among them, and nothing else changes, source and position included; in REBUILDING and READY it abandons the rebuild, clears the
resume point and every account entry, keeps the stop position, gives every block its order of R162, the rebuild switches
ending DROPPED, and raises SHOW_STOP with the position kept. Details that are the model's choices: log 12 and log 39. -/
def Obligations.StopStopsTheShow : Prop :=
  ∀ (s : State) (t held : Nat) (src : Source), s.Serving → (src = .desk → DeskEdge .stop t held s) →
    ∀ m : State, m = { s.goTo t with desk := if src = .desk then { s.desk with stop := true } else s.desk } →
    ∃ u : State, (src = .host → exec (.stop t) s = .next (u.replied .ok (stopItems u)))
      ∧ (src = .desk → exec (.deskStopEdge t held) s = .next u)
      ∧ (s.stop.st ≠ .stopped → s.stop.st.rebuilds = false → ∀ p, p = stopPositionOf s.clock.position →
        u.stop = { s.stop with st := .stopped, held := none, source := some src, resume := none, position := some p }
          ∧ StopOrdered src p m u)
      ∧ (s.stop.st = .stopped →
        RigsStopped m u
          ∧ u.video = { s.video with content := { s.video.content with
              standby := if s.seq.latch = none then s.video.content.standby else none } }
          ∧ (∀ k, k ≠ 1 → u.attention[k]? = s.attention[k]?)
          ∧ { u with stations := s.stations, seq := s.seq, attention := s.attention, video := s.video } = m)
      ∧ (s.stop.st.rebuilds = true → ∀ p, s.stop.position = some p →
        u.stop = { s.stop with
            st := .stopped, source := some src, resume := none
            account := s.stop.account.map fun _ => .notCounted }
          ∧ StopOrdered src p m u)

/-- RESUME POINT (R165): RANGE, then WRONG_STATE outside STOPPED, REBUILDING and READY, then NOT_FOUND; otherwise the resume
point is the cue with the bar given, or, without one, that of the stop position where its cue is the same, else the trigger's
bar, else the bar set, else 1, and a fresh rebuild for it follows (R166): the cue becomes current in every block, the clock
keeps the tracked tempo record and discards what was pending, the channels take the tracked click state, and the stop state is
READY exactly when no station's entry blocks it, which raises RESUME_READY with the resume cue and bar. The account is counted
afresh from each station's word, and then from its switch: an ONLINE, included station starts one to its tracked patch with the
rebuild mark and no fire time, which is SATISFIED at once with the target none or HOT, FAILED at once without a map entry, and
PENDING otherwise; any other station takes no switch (R128, R166, R167). Each evaluation of readiness leaves the stop state
READY exactly when no entry of the rebuild account is PENDING or FAILED, and the overlay is handed each change (R148, R167).

In REBUILDING and READY the account follows the stations (R125, R128, R129, R167). The end of a switch with the rebuild mark
makes a PENDING entry SATISFIED or FAILED and changes no other; that of a switch without it, and a LOADED, change none. A station that goes
OFFLINE or is excluded is NOT_COUNTED. One that is included with an ONLINE word becomes PENDING, which takes READY back to
REBUILDING, and its resync then reports the outcome where it has one at once; without that word it changes no entry. An ONLINE
word of an included station starts a fresh rebuild, its own resync included, and one of an excluded station changes no entry
(R168). Beside the account, the stop state and RESUME_READY these commands do what they do outside a rebuild. Details that are
the model's choices: log 10. -/
def Obligations.RebuildAndReadiness : Prop :=
  (∀ (s : State) (t : Nat) (n : CueNo) (bar : Option Nat), s.Serving →
      (cueNoOk n = false ∨ (∃ b, bar = some b ∧ ¬(1 ≤ b ∧ b ≤ 9999)) →
        exec (.resumePoint t n bar) s = .next ((s.goTo t).replied .range (stopItems s)))
      ∧ (cueNoOk n = true → (∀ b, bar = some b → 1 ≤ b ∧ b ≤ 9999) → s.stop.st ≠ .stopped → s.stop.st.rebuilds = false →
        exec (.resumePoint t n bar) s = .next ((s.goTo t).replied .wrongState (stopItems s)))
      ∧ (cueNoOk n = true → (∀ b, bar = some b → 1 ≤ b ∧ b ≤ 9999) → (s.stop.st = .stopped ∨ s.stop.st.rebuilds = true) →
        findCue s.store.cues n = none →
        exec (.resumePoint t n bar) s = .next ((s.goTo t).replied .notFound (stopItems s)))
      ∧ (cueNoOk n = true → (∀ b, bar = some b → 1 ≤ b ∧ b ≤ 9999) → (s.stop.st = .stopped ∨ s.stop.st.rebuilds = true) →
        ∀ c, findCue s.store.cues n = some c →
        ∃ (u : State) (b : Nat), exec (.resumePoint t n bar) s = .next (u.replied .ok (stopItems u))
          ∧ RebuiltFor { cue := n, bar := b } (s.goTo t) u
          ∧ (∀ x, bar = some x → b = x)
          ∧ (∀ p, bar = none → s.stop.position = some p → p.cue = some n → b = p.bar.getD 1)
          ∧ (bar = none → (∀ p, s.stop.position = some p → p.cue ≠ some n) →
            (∀ x k, c.trigger = .atBar x k → b = x)
            ∧ ((∀ x k, c.trigger ≠ .atBar x k) → b = c.barSet.getD 1))))
    ∧ (∀ (s : State) (r : ResumePoint), s.stop.resume = some r → s.stop.st.rebuilds = true →
      ((evaluateReady s).stop.st = .ready ↔ ∀ a ∈ s.stop.account, a ≠ .waiting ∧ a ≠ .failed)
      ∧ (s.stop.st = .rebuilding → (evaluateReady s).stop.st = .ready →
        (evaluateReady s).attention[2]? = s.attention[2]?.map (Condition.raised (.resumeReady r.cue r.bar) s.now))
      ∧ (evaluateReady s).stop.account = s.stop.account ∧ (evaluateReady s).video.content.stopState
        = (if (evaluateReady s).stop.st = s.stop.st then s.video.content.stopState else (evaluateReady s).stop.st))
    ∧ (∀ (s : State) (t held : Nat) (i : Fin 6) (r : ResumePoint) (leaves : Bool), s.Serving → s.Sized → s.StationsSound →
      s.ReadySound → s.CopiesAgree → s.stop.st.rebuilds = true → s.stop.resume = some r →
      leaves = decide (s.stop.st = .rebuilding) →
      (∀ c stage satisfied, EndsSwitch t i s c stage satisfied → ∃ u : State, exec c s = .next u
        ∧ (∀ w, (s.station i).switch = some w → w.stage = stage → w.rebuild = true →
          AccountTaken r (accountReported i satisfied s) leaves s u)
        ∧ ((∀ w, (s.station i).switch = some w → w.stage = stage → w.rebuild = false) → AccountKept s u))
      ∧ (8000 ≤ held → 8000 ≤ max s.now t → (s.station i).present = true →
        ∃ u : State, exec (.presentDeasserted t i held) s = .next u ∧ AccountTaken r (accountSet i .notCounted s) leaves s u
          ∧ u.stop.words = s.stop.words.modify i.val fun w => { w with online := false })
      ∧ ((s.station i).excluded = false →
        ∃ u v : State, exec (.stationSet t (i.val + 1) { excluded := some 1, lateOverride := none }) s
            = .next (u.replied .ok [.flag true, .opt 2 (s.station i).lateOverride])
          ∧ exec (.stationSet t (i.val + 1) { excluded := some 1, lateOverride := none }) (withStop .run s)
            = .next (v.replied .ok [.flag true, .opt 2 (s.station i).lateOverride])
          ∧ AlikeBesideRebuild u v ∧ AccountTaken r (accountSet i .notCounted s) leaves s u
          ∧ u.stop.words = s.stop.words.modify i.val fun w => { w with excluded := true })
      ∧ ((s.station i).excluded = true →
        ∃ m u : State, exec (.stationSet t (i.val + 1) { excluded := some 0, lateOverride := none }) s
            = .next (u.replied .ok [.flag false, .opt 2 (s.station i).lateOverride])
          ∧ u.stop.words = (s.stop.words.modify i.val fun w => { w with excluded := false })
          ∧ OnlyStation i (s.goTo t) { m with stop := s.stop, video := s.video, attention := s.attention }
          ∧ m.stop.st.rebuilds = true
          ∧ ((s.words i).online = false → AccountKept s u)
          ∧ ((s.words i).online = true → (s.station i).link ≠ .online →
            AccountTaken r (accountSet i .waiting s) leaves s u)
          ∧ ((s.station i).link = .greeting →
            u = m ∧ u.station i = { s.station i with excluded := false, queryDue := true, queryAt := none })
          ∧ ((s.station i).link = .offline → u = m ∧ u.station i = { s.station i with excluded := false })
          ∧ ((s.station i).link = .online →
            AccountTaken r (accountSet i (entryAfterResync s r.cue i) s) true s u
            ∧ m.station i = { s.station i with excluded := false }
            ∧ u = recompute false i (startSwitch i (some r.cue) ((trackedPatch s.store.cues r.cue i).map (·.1)) none true m)
            ∧ ∀ p, entryAfterResync s r.cue i = .waiting → (trackedPatch s.store.cues r.cue i).map (·.1) = some p →
              ∃ w, (u.station i).switch = some w ∧ w.patch = p ∧ w.cue = some r.cue ∧ w.fireTime = none ∧ w.rebuild = true))
      ∧ (∀ n, GapHeld (s.station i) 4 (max s.now t) → (s.station i).link ≠ .offline → 2 ≤ n → n ≤ 8 →
        ((s.station i).excluded = true → ∃ u : State, exec (.hello t i n) s = .next u ∧ AccountKept s u
          ∧ u.stop.words = s.stop.words.modify i.val fun w => { w with online := true })
        ∧ ((s.station i).excluded = false →
          ∃ m x u : State, exec (.hello t i n) s = .next u
            ∧ (m.station i = { s.station i with
                receiver := none, link := .online, slots := List.replicate n Slot.blank, selected := .none, victim := 1
                outLoad := none, outSelect := none, selectPlace := none, loadPlace := none, preload := false
                queryDue := false, queryAt := none, switch := none
                lastSwitch := (match (s.station i).switch with
                  | some w => some { cue := w.cue, patch := some w.patch, kind := w.kind, outcome := .missed
                                     lateness := none }
                  | none => (s.station i).lastSwitch)
                faults := (match (s.station i).switch with
                  | some w => recordAfter { kind := .missed, cue := w.cue, patch := some w.patch, time := max s.now t }
                      (s.station i).faults
                  | none => (s.station i).faults) }
              ∧ m.stop.words = (s.stop.words.modify i.val fun w => { w with online := true })
              ∧ OnlyStationAndFault i (s.goTo t) { m with stop := s.stop })
            ∧ RebuiltFor r m x
            ∧ (OnlyStationAndFault i x u ∧ (u.station i).slots = List.replicate n Slot.blank
              ∧ (u.station i).selected = .none
              ∧ ∀ p, (trackedPatch s.store.cues r.cue i).map (·.1) = some p →
                (findMap s.map (i.val + 1) p).isSome = true →
                (u.station i).loadPlace = some p
                ∧ (u.station i).switch = some { patch := p, cue := some r.cue, fireTime := none, kind := .cold
                                                stage := .coldHeld, rebuild := true }))))
    ∧ (∀ (s : State) (t k held n : Nat) (i : Fin 6) (c : Instr), s.stop.st.rebuilds = true →
      (c = .loaded t i k ∨ c = .loadFailed t i k ∨ c = .selected t i k ∨ c = .loadTimeout i ∨ c = .selectTimeout i
        ∨ c = .stationSend t i ∨ c = .presentDeasserted t i held ∨ c = .hello t i n ∧ (s.station i).excluded = true
          ∧ (s.words i).excluded = true) →
      ∃ u v : State, exec c s = .next u ∧ exec c (withStop .run s) = .next v ∧ AlikeBesideRebuild u v
        ∧ (c = .loaded t i k → AccountKept s u))

/-- GO of the host or of the desk outside RUN. In READY with the STOP line deasserted it starts the resume count-in, with the
account cleared, to the resume bar under the rebuild record, which is then cleared (R19, R169). In HELD and in DRAINING it
starts the hold count-in, to the held bar, or to bar 1 without a held position, under the pending record, which is then cleared,
or else the record that governed (R19, R160, R161). With a count-in of one or two bars the stop state is COUNT_IN, and without
one it is RUN, a DEFERRED follow timer's cue fires, and the first downbeat is tested for AT_BAR (R98, R99, R156). Without a
usable record, which is none or a TACET one, the clock is IDLE and the stop state RUN at once. GO in HOLDING while the hold is
still armed withdraws it: RUN is entered and the clock goes on with no hold armed, and the reply says HOLD_CANCELLED (R24,
R160). A start without a count-in is stated where no hold is armed and no record is pending at its downbeat, and where no ramp begins
there, which PeriodsAndRamps has. Details that are the model's choices: log 10, log 12, log 19 and log 37. -/
def Obligations.GoOutsideRun : Prop :=
  ∀ (s : State) (t held : Nat) (desk : Bool), s.Serving → (desk = true → DeskEdge .go t held s) →
    ∀ m : State, m = { s.goTo t with desk := if desk then { s.desk with go := true } else s.desk } →
    (∀ l, s.follower.last = some l → l.isOpen = false) →
    (∀ r : ResumePoint, s.stop.st = .ready → s.desk.stop = false → s.stop.resume = some r →
      ∀ x : State, x = { m with
        clock := { s.clock with rebuildRec := none }
        stop := { s.stop with account := s.stop.account.map fun _ => .notCounted } } →
      ∃ u : State, GoTaken desk t held 3 s u
        ∧ ((∀ rec, s.clock.rebuildRec = some rec → rec.mode = .tacet) → NoneUsable x u)
        ∧ ∀ rec, s.clock.rebuildRec = some rec → rec.mode ≠ .tacet →
          StartOrdered .resume r.bar s.seq.settings.resumeCountIn { record := rec, marked := recordPeriod rec } true x u)
    ∧ ((s.stop.st = .held ∨ s.stop.st = .holding .draining) →
      ∀ bar, bar = (match s.stop.held with
        | some h => h.bar
        | none => 1) →
      ∀ x : State, x = { m with clock := { s.clock with pendingRec := none } } →
      ∃ u : State, GoTaken desk t held 2 s u
        ∧ ((∀ rec, s.clock.pendingRec = some rec → rec.mode = .tacet) →
          (s.clock.pendingRec = none → s.clock.gov = none) → NoneUsable x u)
        ∧ (∀ rec, s.clock.pendingRec = some rec → rec.mode ≠ .tacet →
          StartOrdered .hold bar s.seq.settings.holdCountIn { record := rec, marked := recordPeriod rec } true x u)
        ∧ (∀ g, s.clock.pendingRec = none → s.clock.gov = some g → (g.record.mode ≠ .conducted → s.clock.period ≠ none) →
          StartOrdered .hold bar s.seq.settings.holdCountIn g false x u))
    ∧ (s.stop.st = .holding .armed → s.clock.holdArmed = true →
      ∃ u : State, GoTaken desk t held 1 s u ∧ EntersRun { m with clock := { s.clock with holdArmed := false } } u)

/-- A desk line takes a new level once it has been held for 10,000 µs since the internal reset (R95, R157, R158): the
release of a line deasserts it; a shorter level, on any desk line, changes nothing but the time, so that a line still
debounced as asserted gives no second edge, and neither does one that is asserted again while it holds that level; during
the power-on load the level is taken and the edge is ignored. Details that are the model's choices: log 12. -/
def Obligations.DeskLinesAreDebounced : Prop :=
  ∀ (s : State) (t held : Nat), s.powered = true →
    (10000 ≤ held → 10000 ≤ max s.now t →
      exec (.deskLineRelease t .stby held) s = .next { s.goTo t with desk := { s.desk with stby := false } }
      ∧ exec (.deskLineRelease t .go held) s = .next { s.goTo t with desk := { s.desk with go := false } }
      ∧ exec (.deskLineRelease t .hold held) s = .next { s.goTo t with desk := { s.desk with hold := false } }
      ∧ exec (.deskLineRelease t .stop held) s = .next { s.goTo t with desk := { s.desk with stop := false } })
    ∧ ((held < 10000 ∨ max s.now t < 10000) →
      (∀ line, exec (.deskLineRelease t line held) s = .next (s.goTo t))
      ∧ exec (.deskStbyEdge t held) s = .next (s.goTo t) ∧ exec (.deskGoEdge t held) s = .next (s.goTo t)
      ∧ exec (.deskHoldEdge t held) s = .next (s.goTo t) ∧ exec (.deskStopEdge t held) s = .next (s.goTo t))
    ∧ (s.desk.stby = true → exec (.deskStbyEdge t held) s = .next (s.goTo t))
    ∧ (s.desk.go = true → exec (.deskGoEdge t held) s = .next (s.goTo t))
    ∧ (s.desk.hold = true → exec (.deskHoldEdge t held) s = .next (s.goTo t))
    ∧ (s.desk.stop = true → exec (.deskStopEdge t held) s = .next (s.goTo t))
    ∧ (s.loading = true →
      (DeskEdge .stby t held s →
        exec (.deskStbyEdge t held) s = .next { s.goTo t with desk := { s.desk with stby := true } })
      ∧ (DeskEdge .go t held s →
        exec (.deskGoEdge t held) s = .next { s.goTo t with desk := { s.desk with go := true } })
      ∧ (DeskEdge .hold t held s →
        exec (.deskHoldEdge t held) s = .next { s.goTo t with desk := { s.desk with hold := true } })
      ∧ (DeskEdge .stop t held s →
        exec (.deskStopEdge t held) s = .next { s.goTo t with desk := { s.desk with stop := true } }))

/-! ## Beats and pulses -/

/-- The commit of a beat that is no downbeat, without a ramp, where no AT_BAR cue waits for it (R4, R5, R6): the position
takes the beat, the next beat is one period later, the channels take their bursts and the overlay a pending flash, and
under a FIXED record nothing else changes. Under FOLLOW the follower closes the window of the last committed beat, which
is missed where unmatched, and opens that of this one, matched if an early pulse was (R34, R44). A count-in beat (R18): the
position holds the starting bar, the place in the count-in bar and the number; no AT_BAR is tested. The first SHOW
downbeat ends the count-in: the clock runs from the starting bar, and a stop state of COUNT_IN becomes RUN (R18, R170); a
pending TACET record ends it with the clock IDLE instead (R12). The flash field is the one nearest the aim, T less the delay
or C, of those that start at or after the commit (R150). Details that are the model's choices: log 2, log 16 and log 35. -/
def Obligations.BeatCommits : Prop :=
  (∀ (s : State) (g : Governing) (t bar beat p : Nat), s.powered = true → s.clock.st = .running →
      s.clock.gov = some g → s.clock.ramp = none → s.clock.period = some p →
      s.clock.next = some { time := some t, kind := .beat bar beat } → NoAtBar bar beat s →
      (g.record.mode = .fixed ∧ s.follower.st = .free ∨ g.record.mode = .follow ∧ s.follower.st ≠ .free) →
      ∃ u : State, exec .beatCommit s = .next u
        ∧ u.now = max s.now (t - s.clock.lead)
        ∧ u.clock = showWritten s.clock s.follower t bar beat (some p) (showNext (some (t + p)) g.record.meter bar beat)
        ∧ u.channels = s.channels.map (scheduleChannel (showBeat g s.clock u.now t bar beat) s.clock.lead)
        ∧ FlashPending u.now s.clock.lead t false
            { bar := bar, beat := beat, pass := (s.clock.vamp.map (·.loops)).getD 0, phase := .inShow
              tempo := displayedTempo (some p) } s.video u.video
        ∧ { u with now := s.now, clock := s.clock, channels := s.channels, video := s.video, follower := s.follower
                   attention := s.attention } = s
        ∧ (s.follower.st = .free → u.follower = s.follower ∧ u.attention = s.attention)
        ∧ (s.follower.st ≠ .free →
          ((∀ l, s.follower.last = some l → l.isOpen = false) →
            u.follower = { s.follower with
                last := some { time := t, isOpen := true, matched := s.follower.nextMatched }, nextMatched := false }
              ∧ u.attention = s.attention)
          ∧ (∀ l, s.follower.last = some l → l.isOpen = true →
            u.follower = { windowClosed l s.follower with
                last := some { time := t, isOpen := true, matched := s.follower.nextMatched }, nextMatched := false }
              ∧ u.attention = closedAttention l s.follower u.now s.attention)))
    ∧ (∀ (s : State) (g : Governing) (t p k : Nat) (st : StartRun), s.powered = true → s.clock.st = .countingIn →
      s.clock.gov = some g → g.record.mode = .fixed → s.clock.period = some p → s.clock.start = some st →
      s.clock.next = some { time := some t, kind := .countIn k } → s.follower.st = .free →
      ∃ u : State, exec .beatCommit s = .next u
        ∧ u.now = max s.now (t - s.clock.lead)
        ∧ u.clock = beatWritten s.clock s.follower t st.bar ((k - 1) % g.record.meter + 1) (.countIn k) (some p)
            { time := some (t + p), kind := if k < st.beats then .countIn (k + 1) else .down }
        ∧ u.channels = s.channels.map (scheduleChannel (countInBeat g s.clock u.now t st.bar k) s.clock.lead)
        ∧ FlashPending u.now s.clock.lead t false
            { bar := st.bar, beat := (k - 1) % g.record.meter + 1, pass := (s.clock.vamp.map (·.loops)).getD 0
              phase := .countIn k, tempo := displayedTempo (some p) } s.video u.video
        ∧ { u with now := s.now, clock := s.clock, channels := s.channels, video := s.video } = s)
    ∧ (∀ (s : State) (g : Governing) (t p : Nat) (st : StartRun), s.powered = true → s.clock.st = .countingIn →
      s.clock.gov = some g → g.record.mode = .fixed → s.clock.period = some p → s.clock.start = some st →
      s.clock.ramp = none → s.clock.holdArmed = false → s.follower.st = .free →
      (s.stop.st = .run ∨ ∃ c, s.stop.st = .countIn c) → (∀ n, s.seq.timer ≠ .deferred n) →
      s.clock.next = some { time := some t, kind := .down } →
      (s.clock.pendingRec = none → s.clock.barSet = none → s.clock.vamp = none → st.ramp = false → NoAtBar st.bar 1 s →
        ∃ u : State, exec .beatCommit s = .next u
          ∧ u.now = max s.now (t - s.clock.lead)
          ∧ u.clock = showWritten s.clock s.follower t st.bar 1 (some p) (showNext (some (t + p)) g.record.meter st.bar 1)
          ∧ u.channels = s.channels.map (scheduleChannel (showBeat g s.clock u.now t st.bar 1) s.clock.lead)
          ∧ (∃ v, FlashPending u.now s.clock.lead t false
              { bar := st.bar, beat := 1, pass := 0, phase := .inShow, tempo := displayedTempo (some p) } s.video v
            ∧ u.video = { v with content := { v.content with
                stopState := if s.stop.st = .run then v.content.stopState else .run } })
          ∧ u.stop = { s.stop with st := .run }
          ∧ { u with now := s.now, clock := s.clock, channels := s.channels, video := s.video, stop := s.stop } = s)
      ∧ (∀ r, s.clock.pendingRec = some r → r.mode = .tacet →
        ∃ u : State, exec .beatCommit s = .next u
          ∧ u.now = max s.now (t - s.clock.lead) ∧ u.clock.st = .idle ∧ u.clock.gov = none ∧ u.clock.next = none
          ∧ u.clock.pendingRec = none ∧ u.clock.position = s.clock.position ∧ u.stop = { s.stop with st := .run }
          ∧ u.channels = s.channels ∧ u.seq = s.seq))

/-- At a commit in RUN or HOLDING, a next cue with the trigger AT_BAR whose bar and beat are the committed beat's fires with
the source AT_BAR, once the beat has been committed; in any other stop state, and for another bar or beat, it waits (R98). A
DEFERRED follow timer's cue fires with the source FOLLOW when the stop state enters RUN: at the end of a count-in, ahead of
the AT_BAR test of that downbeat, and at a GO in HELD with a hold count-in of 0, which starts the clock first (R99, R170). Each
fire does to every block what R101 and R102 say, the stations' switch targets and look-ahead targets among it, in the state the
beat leaves. Details that are the model's choices: log 2, log 10, log 18, log 35 and log 37. -/
def Obligations.AtBarAndDeferredFires : Prop :=
  (∀ (s : State) (g : Governing) (c : Cue) (n : CueNo) (t bar beat p : Nat), s.powered = true → s.clock.st = .running →
      s.clock.gov = some g → g.record.mode = .fixed → s.follower.st = .free → s.clock.ramp = none →
      s.clock.period = some p → s.clock.next = some { time := some t, kind := .beat bar beat } →
      nextCue s = some n → findCue s.store.cues n = some c →
      ∃ m : State, m.now = max s.now (t - s.clock.lead)
        ∧ m.clock = showWritten s.clock s.follower t bar beat (some p) (showNext (some (t + p)) g.record.meter bar beat)
        ∧ m.channels = s.channels.map (scheduleChannel (showBeat g s.clock m.now t bar beat) s.clock.lead)
        ∧ FlashPending m.now s.clock.lead t false
            { bar := bar, beat := beat, pass := (s.clock.vamp.map (·.loops)).getD 0, phase := .inShow
              tempo := displayedTempo (some p) } s.video m.video
        ∧ { m with now := s.now, clock := s.clock, channels := s.channels, video := s.video } = s
        ∧ (s.stop.st.fires = true → c.trigger = .atBar bar beat →
          ∃ u : State, exec .beatCommit s = .next u ∧ Fires c .atBar m u)
        ∧ ((s.stop.st.fires = false ∨ c.trigger ≠ .atBar bar beat) → exec .beatCommit s = .next m))
    ∧ (∀ (s : State) (g : Governing) (c : Cue) (n : CueNo) (t quiet bar beat : Nat), s.powered = true → 2000 ≤ quiet →
      2000 ≤ max s.now t → s.clock.st = .running → s.clock.gov = some g → g.record.mode = .conducted →
      s.clock.ramp = none → s.follower.st = .free → s.clock.next = some { time := none, kind := .beat bar beat } →
      (∀ k, s.clock.spacing = some k → k + 100000 ≤ max s.now t) → nextCue s = some n → findCue s.store.cues n = some c →
      s.stop.st.fires = true → c.trigger = .atBar bar beat →
      ∃ m u : State, exec (.beatPulse t quiet) s = .next u ∧ Fires c .atBar m u ∧ m.now = max s.now t
        ∧ m.clock.position.bar = some bar ∧ m.clock.position.beat = some beat
        ∧ FlashPending m.now s.clock.lead m.now true
            { bar := bar, beat := beat, pass := (s.clock.vamp.map (·.loops)).getD 0, phase := .inShow
              tempo := displayedTempo m.clock.position.period } s.video m.video
        ∧ { m with clock := s.clock, follower := s.follower, video := s.video } = s.goTo t)
    ∧ (∀ (s : State) (g : Governing) (st : StartRun) (c : Cue) (n : CueNo) (t p : Nat), s.powered = true →
      s.clock.st = .countingIn → s.clock.gov = some g → g.record.mode = .fixed → s.clock.period = some p →
      s.clock.start = some st → st.ramp = false → s.clock.ramp = none → s.clock.holdArmed = false →
      s.clock.pendingRec = none → s.clock.barSet = none → s.clock.vamp = none → s.follower.st = .free →
      s.clock.next = some { time := some t, kind := .down } → (∃ k, s.stop.st = .countIn k) →
      s.seq.timer = .deferred n → findCue s.store.cues n = some c →
      (∀ k d, afterCurrent s.store.cues (some n) = some k → findCue s.store.cues k = some d → d.trigger ≠ .atBar st.bar 1) →
      ∃ m u : State, exec .beatCommit s = .next u ∧ Fires c .follow m u ∧ m.now = max s.now (t - s.clock.lead)
        ∧ m.clock = showWritten s.clock s.follower t st.bar 1 (some p) (showNext (some (t + p)) g.record.meter st.bar 1)
        ∧ m.stop = { s.stop with st := .run } ∧ m.seq = { s.seq with timer := .idle }
        ∧ m.channels = s.channels.map (scheduleChannel (showBeat g s.clock m.now t st.bar 1) s.clock.lead)
        ∧ { m with now := s.now, clock := s.clock, channels := s.channels, video := s.video, stop := s.stop
                   seq := s.seq } = s)
    ∧ (∀ (s : State) (g : Governing) (c : Cue) (n : CueNo) (t : Nat) (held : HeldPosition), s.Serving → s.stop.st = .held →
      s.stop.held = some held → s.seq.settings.holdCountIn = 0 → s.clock.pendingRec = none → s.clock.gov = some g →
      g.record.mode = .conducted → s.seq.timer = .deferred n → findCue s.store.cues n = some c →
      ∃ m u : State, exec (.go t) s = .next (u.replied .ok [.num 1 2, .cue none]) ∧ Fires c .follow m u
        ∧ m.now = max s.now t ∧ m.clock.st = .running ∧ m.clock.gov = some g
        ∧ m.clock.start = some { bar := held.bar, beats := 0, ramp := false }
        ∧ m.stop = { s.stop with st := .run } ∧ m.seq = { s.seq with timer := .idle } ∧ m.store = s.store
        ∧ m.stations = s.stations ∧ m.map = s.map ∧ m.channels = s.channels)

/-- The bar of a SHOW downbeat (R6, R21): a pending bar set; else, after the last bar of an armed vamp, the first bar
with one more pass, or the bar after the last with pass 0 where the release is set; else the bar after the last show
bar, saturating at 9999. The downbeat is committed at its time, and the beat after it is one period later. Details
that are the model's choices: log 2. -/
def Obligations.DownbeatTakesItsBar : Prop :=
  ∀ (s : State) (g : Governing) (t last p : Nat), s.powered = true → s.clock.st = .running → s.clock.gov = some g →
    g.record.mode = .fixed → s.clock.ramp = none → s.clock.period = some p → s.clock.pendingRec = none →
    s.clock.holdArmed = false → s.clock.start = none → s.clock.lastShowBar = some last →
    s.clock.next = some { time := some t, kind := .down } → s.follower.st = .free →
    ∃ u : State, exec .beatCommit s = .next u
      ∧ u.clock.st = .running ∧ u.clock.spacing = some t ∧ u.clock.position.beat = some 1
      ∧ u.clock.position.time = some t ∧ u.clock.position.phase = .inShow
      ∧ u.clock.lastShowBar = u.clock.position.bar
      ∧ (u.clock.next.bind (·.time)) = some (t + p)
      ∧ (∀ b, s.clock.barSet = some b → u.clock.position.bar = some b)
      ∧ (s.clock.barSet = none → s.clock.vamp = none →
        u.clock.position.bar = some (min 9999 (last + 1)) ∧ u.clock.position.pass = 0)
      ∧ (∀ v, s.clock.barSet = none → s.clock.vamp = some v → v.last = last → v.release = false →
        u.clock.position.bar = some v.first ∧ u.clock.position.pass = min 255 (v.loops + 1))
      ∧ (∀ v, s.clock.barSet = none → s.clock.vamp = some v → v.last = last → v.release = true →
        u.clock.position.bar = some (min 9999 (last + 1)) ∧ u.clock.position.pass = 0)
      ∧ (∀ v, s.clock.barSet = none → s.clock.vamp = some v → last < v.last →
        u.clock.position.bar = some (min 9999 (last + 1)) ∧ u.clock.position.pass = v.loops)

/-- A pending record at a downbeat (R11, R12): a FIXED record without a ramp governs from there, with its marked
period and its meter; a TACET record makes the clock IDLE with no governing record, and the downbeat is not committed.
An armed hold at its downbeat (R23, R159): the clock freezes without committing it, the held position is the bar the
downbeat was decided at with its pass, and the stop state is HELD, or HOLDING and DRAINING while a burst has not
started. Details that are the model's choices: log 2. -/
def Obligations.DownbeatsThatChangeTheClock : Prop :=
  (∀ (s : State) (g : Governing) (r : TempoRecord) (t : Nat), s.powered = true → s.clock.st = .running →
      s.clock.gov = some g → s.clock.pendingRec = some r → s.clock.holdArmed = false →
      s.clock.next = some { time := some t, kind := .down } →
      (r.mode = .fixed → r.ramp = none →
        ∃ u : State, exec .beatCommit s = .next u ∧ u.clock.st = .running
          ∧ u.clock.gov = some { record := r, marked := markedPeriod r.bpm10 }
          ∧ u.clock.period = some (markedPeriod r.bpm10) ∧ u.clock.ramp = none ∧ u.follower.st = .free
          ∧ u.clock.position.beat = some 1 ∧ u.clock.spacing = some t
          ∧ (∃ b, u.clock.position.bar = some b ∧ u.clock.next
            = some { time := some (t + markedPeriod r.bpm10), kind := if 1 < r.meter then .beat b 2 else .down }))
      ∧ (r.mode = .tacet →
        ∃ u : State, exec .beatCommit s = .next u
          ∧ u.clock = { s.clock with
              st := .idle, gov := none, ramp := none, next := none, period := none, start := none, pendingRec := none }
          ∧ u.follower.st = .free ∧ u.follower.accepted = s.follower.accepted
          ∧ u.follower.settings = s.follower.settings
          ∧ { u with clock := s.clock, follower := s.follower, attention := s.attention }
            = s.goTo (t - s.clock.lead)))
    ∧ (∀ (s : State) (t : Nat), s.powered = true → s.clock.st = .running → s.clock.holdArmed = true → s.clock.ramp = none →
      s.clock.next = some { time := some t, kind := .down } →
      ∃ u : State, exec .beatCommit s = .next u
        ∧ u.clock = { s.clock with
            st := .frozen, next := none, holdArmed := false, start := none, barSet := none, vamp := (decideBar s.clock).2 }
        ∧ u.stop = { s.stop with
            st := if s.channels.all (fun c => c.bursts.isEmpty) then .held else .holding .draining
            held := some { bar := (decideBar s.clock).1, pass := ((decideBar s.clock).2.map (·.loops)).getD 0 } }
        ∧ u.video = { s.video with content := { s.video.content with stopState := u.stop.st } }
        ∧ { u.follower with last := s.follower.last, nextMatched := s.follower.nextMatched } = s.follower
        ∧ { u with clock := s.clock, stop := s.stop, video := s.video, follower := s.follower }
          = s.goTo (t - s.clock.lead))

/-- The marked period and the displayed tempo of R9. The ramp period P_i is P_0 + (P_t − P_0) × i / N rounded to nearest,
halves away from zero, and so runs from P_0 at i = 0 to P_t at i = N (R15). A ramp starts at the downbeat where its record
takes effect, that of a resume without a count-in included (R19, R169), and the clock takes P_1 there; at ramp beat i below N it takes P_{i+1}, under FOLLOW as a shift of the period
by P_{i+1} − P_i, clamped to the band that moves with it; at ramp beat N the ramp ends and the target becomes the record's
marked period. A stop takes a ramp as completed (R15, R16). Details that are the model's choices: log 2. -/
def Obligations.PeriodsAndRamps : Prop :=
  ((∀ bpm10, 300 ≤ bpm10 → bpm10 ≤ 3000 →
        2 * 600000000 < 2 * bpm10 * markedPeriod bpm10 + bpm10 ∧ 2 * bpm10 * markedPeriod bpm10 ≤ 2 * 600000000 + bpm10
        ∧ 200000 ≤ markedPeriod bpm10 ∧ markedPeriod bpm10 ≤ 2000000)
      ∧ displayedTempo none = 0
      ∧ (∀ p q, q = max 200000 (min 2000000 p) →
        2 * 600000000 < 2 * q * displayedTempo (some p) + q ∧ 2 * q * displayedTempo (some p) ≤ 2 * 600000000 + q
        ∧ 300 ≤ displayedTempo (some p) ∧ displayedTempo (some p) ≤ 3000))
    ∧ (∀ (r : RampRun) (i : Nat), 0 < r.beats → i ≤ r.beats →
      rampPeriod r 0 = r.start ∧ rampPeriod r r.beats = r.target
        ∧ ∀ step whole : Int, step = ((rampPeriod r i : Int) - (r.start : Int)) * (r.beats : Int) →
          whole = ((r.target : Int) - (r.start : Int)) * (i : Int) →
          2 * (step - whole).natAbs ≤ r.beats
            ∧ (2 * (step - whole).natAbs = r.beats → whole.natAbs < step.natAbs))
    ∧ (∀ (s : State) (g : Governing) (rec : TempoRecord) (ramp : Ramp) (run : RampRun) (t : Nat), s.powered = true →
      s.clock.st = .running → s.clock.gov = some g → s.clock.holdArmed = false → s.clock.pendingRec = some rec →
      rec.mode = .fixed → rec.ramp = some ramp → 0 < ramp.bars * rec.meter →
      s.clock.next = some { time := some t, kind := .down } →
      run = { start := markedPeriod rec.bpm10, target := markedPeriod ramp.target, beats := ramp.bars * rec.meter, done := 0 } →
      ∃ u : State, exec .beatCommit s = .next u
        ∧ u.clock.gov = some { record := rec, marked := markedPeriod rec.bpm10 } ∧ u.clock.ramp = some run
        ∧ u.clock.period = some (rampPeriod run 1) ∧ (u.clock.next.bind (·.time)) = some (t + rampPeriod run 1)
        ∧ u.clock.position.beat = some 1 ∧ u.clock.position.time = some t)
    ∧ (∀ (s : State) (g : Governing) (r : RampRun) (t bar beat p : Nat), s.powered = true → s.clock.st = .running →
      s.clock.gov = some g → s.clock.ramp = some r → s.clock.period = some p →
      s.clock.next = some { time := some t, kind := .beat bar beat } → NoAtBar bar beat s →
      (g.record.mode = .fixed → s.follower.st = .free →
        (r.done + 1 < r.beats →
          ∃ u : State, exec .beatCommit s = .next u
            ∧ u.clock = showWritten { s.clock with
                  ramp := some { r with done := r.done + 1 }, period := some (rampPeriod r (r.done + 2)) } s.follower
                t bar beat (some (rampPeriod r (r.done + 2)))
                (showNext (some (t + rampPeriod r (r.done + 2))) g.record.meter bar beat)
            ∧ u.follower = s.follower)
        ∧ (r.beats ≤ r.done + 1 →
          ∃ u : State, exec .beatCommit s = .next u
            ∧ u.clock = showWritten { s.clock with ramp := none, gov := some { g with marked := r.target } } s.follower
                t bar beat (some p) (showNext (some (t + p)) g.record.meter bar beat)
            ∧ u.follower = s.follower))
      ∧ (g.record.mode = .follow → s.follower.st ≠ .free → (∀ l, s.follower.last = some l → l.isOpen = false) →
        r.done + 1 < r.beats → ∀ (band : Nat × Nat) (shifted : Int) (q : Nat),
        band = bandAround (rampPeriod r (r.done + 2)) g.record.band →
        shifted = (p : Int) + (rampPeriod r (r.done + 2) : Int) - (rampPeriod r (r.done + 1) : Int) →
        (q : Int) = max (band.1 : Int) (min (band.2 : Int) shifted) →
        ∃ u : State, ∃ clamped : Bool, exec .beatCommit s = .next u ∧ (clamped = true ↔ (q : Int) ≠ shifted)
          ∧ u.clock = showWritten { s.clock with ramp := some { r with done := r.done + 1 }, period := some q }
              { s.follower with clamped := clamped } t bar beat (some q) (showNext (some (t + q)) g.record.meter bar beat)
          ∧ u.follower = { s.follower with
              band := some band, clamped := clamped
              last := some { time := t, isOpen := true, matched := s.follower.nextMatched }, nextMatched := false }))
    ∧ (∀ (s : State) (g : Governing) (r : RampRun) (t : Nat), s.Serving → s.stop.st = .run → s.clock.st.beats = true →
      s.clock.gov = some g → g.record.mode = .fixed → s.clock.ramp = some r →
      ∃ u : State, exec (.stop t) s = .next (u.replied .ok (stopItems u))
        ∧ u.clock.st = .frozen ∧ u.clock.ramp = none ∧ u.clock.gov = some { g with marked := r.target }
        ∧ u.clock.period = some r.target)
    ∧ (∀ (s : State) (rec : TempoRecord) (ramp : Ramp) (run : RampRun) (r : ResumePoint) (t held first : Nat) (desk : Bool),
      s.Serving → (desk = true → DeskEdge .go t held s) → s.stop.st = .ready → s.desk.stop = false →
      s.stop.resume = some r → s.seq.settings.resumeCountIn = 0 → s.clock.rebuildRec = some rec → rec.mode = .fixed →
      rec.ramp = some ramp → 0 < ramp.bars * rec.meter → s.clock.pendingRec = none → s.clock.holdArmed = false →
      (∀ l, s.follower.last = some l → l.isOpen = false) → (∀ n, s.seq.timer ≠ .deferred n) →
      NoAtBar (s.clock.barSet.getD r.bar) 1 s → first = max s.now t + s.clock.lead →
      (∀ k, s.clock.spacing = some k → k + 100000 ≤ first) →
      run = { start := markedPeriod rec.bpm10, target := markedPeriod ramp.target, beats := ramp.bars * rec.meter, done := 0 } →
      ∃ u : State, GoTaken desk t held 3 s u ∧ u.stop.st = .run ∧ u.clock.st = .running
        ∧ u.clock.gov = some { record := rec, marked := markedPeriod rec.bpm10 } ∧ u.clock.ramp = some run
        ∧ u.clock.period = some (rampPeriod run 1) ∧ (u.clock.next.bind (·.time)) = some (first + rampPeriod run 1)
        ∧ u.clock.position.bar = some (s.clock.barSet.getD r.bar) ∧ u.clock.position.beat = some 1
        ∧ u.clock.position.time = some first)

/-- A BEAT edge by the clock's state and mode (R27, R28, R46, R47): a bounce, an edge less than 2,000 µs after the internal
reset, or a pulse while the clock is IDLE or FROZEN, is discarded; under a FIXED record it is measured and nothing more; under a CONDUCTED record it is rejected as
CLOSE within 100,000 µs of the last committed beat. Details that are the model's choices: log 12. -/
def Obligations.PulsesThatDoNotCommit : Prop :=
  ∀ (s : State) (t quiet : Nat), s.powered = true →
    ((quiet < 2000 ∨ max s.now t < 2000) → exec (.beatPulse t quiet) s = .next (s.goTo t))
    ∧ ((s.clock.st = .idle ∨ s.clock.st = .frozen) → exec (.beatPulse t quiet) s = .next (s.goTo t))
    ∧ (∀ g, 2000 ≤ quiet → 2000 ≤ max s.now t → s.clock.st.beats = true → s.clock.gov = some g → g.record.mode = .fixed →
      (s.clock.spacing = none → exec (.beatPulse t quiet) s = .next (s.goTo t))
      ∧ (∀ c, s.clock.spacing = some c →
        exec (.beatPulse t quiet) s
          = .next { s.goTo t with
              follower := { s.follower with lastError := ((max s.now t : Nat) : Int) - (c : Int) } }))
    ∧ (∀ g c, 2000 ≤ quiet → 2000 ≤ max s.now t → s.clock.st.beats = true → s.clock.gov = some g → g.record.mode = .conducted →
      s.clock.spacing = some c → max s.now t < c + 100000 →
      exec (.beatPulse t quiet) s
        = .next { s.goTo t with follower := { s.follower with
            rejected := min 65535 (s.follower.rejected + 1), lastRejection := some .close } })

/-- A pulse under a CONDUCTED record, at least 100,000 µs after the last committed beat, commits beat u at its arrival
(R13, R47): the period field is the time since the last committed beat, at most 2,000,000; the next beat waits for a
pulse; no click is scheduled (R60), and the overlay takes a flash of a CONDUCTED beat (R150). Details that are the model's
choices: log 12, log 16 and log 35. -/
def Obligations.ConductedPulseCommits : Prop :=
  ∀ (s : State) (g : Governing) (t quiet bar beat : Nat), s.powered = true → 2000 ≤ quiet → 2000 ≤ max s.now t → s.clock.st = .running →
    s.clock.gov = some g → g.record.mode = .conducted → s.clock.ramp = none → s.follower.st = .free →
    s.clock.next = some { time := none, kind := .beat bar beat } →
    (∀ c, s.clock.spacing = some c → c + 100000 ≤ max s.now t) →
    (∀ n c, nextCue s = some n → findCue s.store.cues n = some c → c.trigger ≠ .atBar bar beat) →
    ∃ u : State, exec (.beatPulse t quiet) s = .next u
      ∧ u.clock = { s.clock with
          position := { cue := s.clock.position.cue, bar := some bar, beat := some beat
                        pass := (s.clock.vamp.map (·.loops)).getD 0, phase := .inShow, time := some (max s.now t)
                        period := s.clock.spacing.map fun c => min 2000000 (max s.now t - c)
                        clamped := s.follower.clamped, coasting := s.follower.coasting }
          spacing := some (max s.now t), lastShowBar := some bar, start := none
          next := some { time := none, kind := if beat < g.record.meter then .beat bar (beat + 1) else .down } }
      ∧ u.follower = { s.follower with accepted := min 65535 (s.follower.accepted + 1), lastError := 0 }
      ∧ u.channels = s.channels
      ∧ FlashPending (max s.now t) s.clock.lead (max s.now t) true
          { bar := bar, beat := beat, pass := (s.clock.vamp.map (·.loops)).getD 0, phase := .inShow
            tempo := displayedTempo u.clock.position.period } s.video u.video
      ∧ { u with clock := s.clock, follower := s.follower, video := s.video } = s.goTo t

/-- A pulse under FOLLOW in SEEKING or LOCKED that falls within the window of the nearer beat is accepted (R35 to R37, R39
to R42): the last committed beat while its window is open, or beat u before its commit, is matched. The period moves by e
over d_f within the band, the next beat by e over d_p and, matched to the committed beat, by the change of the period, not
below half a period after the last committed beat nor below the pulse time plus C, where it is committed at once; jitter,
counts and runs follow, the second good pulse of SEEKING leads to LOCKED, ADAPTIVE chooses its constant, and the window of a
matched beat that W leaves behind closes silently. In COASTING it corrects nothing and SEEKING starts afresh (R45). A pulse
for a beat already matched is rejected as DOUBLE, one outside the window of the nearer beat as OUTSIDE; it moves neither
period nor schedule, and the third in a row in LOCKED starts SEEKING afresh (R35, R43). Details that are the model's
choices: log 12, log 15 and log 27. -/
def Obligations.PulsesUnderFollow : Prop :=
  (∀ (s : State) (g : Governing) (t quiet u₀ p at_ dp df lo hi : Nat) (early : Bool), s.powered = true → 2000 ≤ quiet →
      2000 ≤ t → s.now ≤ t → s.clock.st.beats = true → s.clock.gov = some g → g.record.mode = .follow →
      (s.follower.st = .seeking ∨ s.follower.st = .locked) → DivisorsAre s.follower dp df →
      s.follower.band = some (lo, hi) → s.clock.period = some p → (s.clock.next.bind (·.time)) = some u₀ →
      NearerIs s.follower t u₀ at_ early false → NoneWaits s.follower early → distance t at_ ≤ halfWidth s.follower p →
      ∀ (e : Int) (q k : Nat), e = (t : Int) - (at_ : Int) →
      (q : Int) = max (lo : Int) (min (hi : Int) ((p : Int) + roundAway e df)) →
      k = max (correctedTime s.clock.spacing u₀ p q dp e early) (t + s.clock.lead) →
      ∃ v : Follower, ∃ clamped : Bool, (clamped = true ↔ (q : Int) ≠ (p : Int) + roundAway e df)
        ∧ (s.follower.st = .seeking → GoodCounted e q (acceptedFollower s.follower e early clamped) v)
        ∧ (s.follower.st = .locked → Adapted e q (acceptedFollower s.follower e early clamped) v)
        ∧ (t + s.clock.lead < k →
          ∃ u : State, exec (.beatPulse t quiet) s = .next u
            ∧ u.clock = { s.clock with period := some q, next := s.clock.next.map fun n => { n with time := some k } }
            ∧ u.follower = v.judged t q
            ∧ u.attention = (if v.st = s.follower.st then s.attention
              else s.attention.modify 3 (Condition.raised (.beatLock v.st) t))
            ∧ { u with clock := s.clock, follower := s.follower, attention := s.attention } = s.goTo t)
        ∧ (∀ bar beat, k = t + s.clock.lead → s.clock.st = .running → s.clock.ramp = none →
          s.clock.next = some { time := some u₀, kind := .beat bar beat } → NoAtBar bar beat s →
          ∃ u : State, exec (.beatPulse t quiet) s = .next u
            ∧ u.clock = showWritten { s.clock with period := some q } v k bar beat (some q)
                (showNext (some (k + q)) g.record.meter bar beat)
            ∧ u.follower.last = some { time := k, isOpen := true, matched := v.nextMatched } ∧ u.now = t))
    ∧ (∀ (s : State) (g : Governing) (t quiet u₀ p at_ : Nat) (early : Bool), s.powered = true → 2000 ≤ quiet → 2000 ≤ t →
      s.now ≤ t → s.clock.st.beats = true → s.clock.gov = some g → g.record.mode = .follow → s.clock.period = some p →
      (s.clock.next.bind (·.time)) = some u₀ → t + s.clock.lead < u₀ →
      (s.follower.st = .coasting → NearerIs s.follower t u₀ at_ early false → NoneWaits s.follower early →
        distance t at_ ≤ halfWidth s.follower p →
        ∃ u : State, exec (.beatPulse t quiet) s = .next u
          ∧ u.clock = s.clock
          ∧ u.follower = (pulseMatched s.follower ((t : Int) - (at_ : Int)) early).afresh.judged t p
          ∧ u.attention = s.attention.modify 3 (Condition.raised (.beatLock .seeking) t)
          ∧ { u with follower := s.follower, attention := s.attention } = s.goTo t)
      ∧ (∀ why : Rejection, s.follower.st ≠ .free →
        (why = .double ∧ NearerIs s.follower t u₀ at_ early true
          ∨ why = .outside ∧ NearerIs s.follower t u₀ at_ early false ∧ halfWidth s.follower p < distance t at_) →
        ∀ f : Follower, f = { s.follower with
          rejected := min 65535 (s.follower.rejected + 1), lastRejection := some why, push := none, good := 0 } →
        ∃ u : State, exec (.beatPulse t quiet) s = .next u
          ∧ u.clock = s.clock
          ∧ (s.follower.st ≠ .locked → u.follower = f ∧ u.attention = s.attention)
          ∧ (s.follower.st = .locked → s.follower.rejectedRun < 2 →
            u.follower = { f with rejectedRun := f.rejectedRun + 1 } ∧ u.attention = s.attention)
          ∧ (s.follower.st = .locked → 2 ≤ s.follower.rejectedRun →
            u.follower = f.afresh ∧ u.attention = s.attention.modify 3 (Condition.raised (.beatLock .seeking) t))
          ∧ { u with follower := s.follower, attention := s.attention } = s.goTo t))

/-- The window of the last committed beat closes one µs past its end, W being half the period in SEEKING and COASTING and a
quarter or an eighth of it in LOCKED (R33, R34, R44): a matched beat closes silently; an unmatched one is missed, which
clears the good count in SEEKING and in LOCKED leads to COASTING when the missed run reaches M. In FREE no window closes.
Details that are the model's choices: log 2. -/
def Obligations.WindowCloses : Prop :=
  ∀ (s : State), s.powered = true →
    (s.follower.st = .free → exec .windowClose s = .next s)
    ∧ (∀ l, s.follower.st ≠ .free → s.follower.last = some l → l.isOpen = true →
      ∃ u : State, exec .windowClose s = .next u
        ∧ u.now = max s.now (l.time + halfWidth s.follower (s.clock.period.getD 0) + 1)
        ∧ u.follower = windowClosed l s.follower ∧ u.attention = closedAttention l s.follower u.now s.attention
        ∧ { u with now := s.now, follower := s.follower, attention := s.attention } = s)

/-! ## Settings -/

/-- SHOW SET (R87, R107): BUSY during a store where the mask selects a field; RANGE where a selected value is out of
range; otherwise the selected fields are written, the look-ahead set is worked out afresh and handed to each station where L
changes (R104), and each reply carries the five settings in force. FOLLOW SET with values in range (R49): the three settings, the reply, and what a change to or from ADAPTIVE does to the
active constant, fast remaining and the push memory; the open window of the last committed beat is judged at once with the
new W; nothing else changes. Out of range it is refused with RANGE, during a store with BUSY where it selects a field. CLOCK
SET (R7, R87) and VAMP RELEASE (R22): C changes within 0–100,000 µs, with the beat that is not yet due left to wait and one
that has become due committed at once; an empty payload changes nothing; the release flag is set on an armed vamp, and
NOT_FOUND says that none is. Details that are the model's
choices: log 9, log 11 and log 35. -/
def Obligations.ShowSettingsAreWritten : Prop :=
  (∀ (s : State) (t : Nat) (f : RawShowSet), s.Serving →
      (s.storing = true → RawShowSet.selects f = true →
        exec (.showSet t f) s = .next ((s.goTo t).replied .busy (showItems s.seq.settings)))
      ∧ ((s.storing = false ∨ RawShowSet.selects f = false) →
        ¬((∀ x, f.standbyRequired = some x → x ≤ 1) ∧ (∀ x, f.lookAhead = some x → x ≤ 4)
          ∧ (∀ x, f.lateThreshold = some x → 10 ≤ x ∧ x ≤ 1000) ∧ (∀ x, f.resumeCountIn = some x → x ≤ 2)
          ∧ (∀ x, f.holdCountIn = some x → x ≤ 2)) →
        exec (.showSet t f) s = .next ((s.goTo t).replied .range (showItems s.seq.settings)))
      ∧ ((s.storing = false ∨ RawShowSet.selects f = false) →
        (∀ x, f.standbyRequired = some x → x ≤ 1) → (∀ x, f.lookAhead = some x → x ≤ 4) →
        (∀ x, f.lateThreshold = some x → 10 ≤ x ∧ x ≤ 1000) → (∀ x, f.resumeCountIn = some x → x ≤ 2) →
        (∀ x, f.holdCountIn = some x → x ≤ 2) →
        ∃ u : State, exec (.showSet t f) s = .next (u.replied .ok (showItems u.seq.settings))
          ∧ u.seq.settings = { standbyRequired := written (f.standbyRequired.map (· == 1)) s.seq.settings.standbyRequired
                               lookAhead := written f.lookAhead s.seq.settings.lookAhead
                               lateThreshold := written f.lateThreshold s.seq.settings.lateThreshold
                               resumeCountIn := written f.resumeCountIn s.seq.settings.resumeCountIn
                               holdCountIn := written f.holdCountIn s.seq.settings.holdCountIn }
          ∧ { u.seq with settings := s.seq.settings, ahead := s.seq.ahead } = s.seq
          ∧ (u.seq.settings.lookAhead = s.seq.settings.lookAhead → u = { s.goTo t with seq := u.seq }
              ∧ u.seq.ahead = s.seq.ahead)
          ∧ (u.seq.settings.lookAhead ≠ s.seq.settings.lookAhead →
            u.seq.ahead = lookAhead u ∧ ∀ i, TargetsHanded i (s.goTo t) u)
          ∧ (∀ k, k ≠ 1 → u.attention[k]? = s.attention[k]?)
          ∧ { u with seq := s.seq, stations := s.stations, attention := s.attention } = s.goTo t))
    ∧ (∀ (s : State) (t : Nat) (f : RawFollowSet), s.Serving →
      (s.storing = true → RawFollowSet.selects f = true →
        exec (.followSet t f) s = .next ((s.goTo t).replied .busy (followItems s.follower.settings)))
      ∧ ((s.storing = false ∨ RawFollowSet.selects f = false) →
        ((∃ x, f.window = some x ∧ 1 < x) ∨ (∃ x, f.constant = some x ∧ 3 < x)
          ∨ (∃ x, f.m = some x ∧ ¬(1 ≤ x ∧ x ≤ 8))) →
        exec (.followSet t f) s = .next ((s.goTo t).replied .range (followItems s.follower.settings)))
      ∧ ((s.storing = false ∨ RawFollowSet.selects f = false) →
        ∀ w k, (match f.window with
            | none => w = s.follower.settings.window
            | some x => x = windowPlace w) →
          (match f.constant with
            | none => k = s.follower.settings.constant
            | some x => x = constantPlace k) →
          (∀ x, f.m = some x → 1 ≤ x ∧ x ≤ 8) →
        ∃ u : State, ∃ v : Follower, exec (.followSet t f) s = .next (u.replied .ok (followItems v.settings))
          ∧ v.settings = { window := w, constant := k, m := written f.m s.follower.settings.m }
          ∧ { v with settings := s.follower.settings, active := s.follower.active, fastLeft := s.follower.fastLeft
                     push := s.follower.push } = s.follower
          ∧ (k = s.follower.settings.constant ∨ k ≠ .adaptive ∧ s.follower.settings.constant ≠ .adaptive →
            v = { s.follower with settings := v.settings })
          ∧ (k = .adaptive → s.follower.settings.constant ≠ .adaptive →
            v.active = .normal ∧ v.fastLeft = 0 ∧ v.push = none)
          ∧ (k ≠ .adaptive → s.follower.settings.constant = .adaptive →
            v.fastLeft = 0 ∧ v.push = none ∧ v.active = s.follower.active)
          ∧ ((s.follower.st = .free ∨ ∀ l, s.follower.last = some l → l.isOpen = true →
              max s.now t ≤ l.time + halfWidth v (s.clock.period.getD 0)) →
            u.follower = v ∧ u.attention = s.attention)
          ∧ (∀ l, s.follower.st ≠ .free → s.follower.last = some l → l.isOpen = true →
            l.time + halfWidth v (s.clock.period.getD 0) < max s.now t →
            u.follower = windowClosed l v ∧ u.attention = closedAttention l v (max s.now t) s.attention)
          ∧ { u with follower := s.follower, attention := s.attention } = s.goTo t))
    ∧ (∀ (s : State) (t : Nat), s.Serving →
      exec (.clockSet t none) s = .next ((s.goTo t).replied .ok [.num 3 s.clock.lead])
      ∧ (∀ c, s.storing = true → exec (.clockSet t (some c)) s = .next ((s.goTo t).replied .busy []))
      ∧ (∀ c, s.storing = false → 100000 < c → exec (.clockSet t (some c)) s = .next ((s.goTo t).replied .range []))
      ∧ (∀ c, s.storing = false → c ≤ 100000 →
        (s.clock.st.beats = true → ∀ x, (s.clock.next.bind (·.time)) = some x → max s.now t + c < x) →
        exec (.clockSet t (some c)) s
          = .next ({ s.goTo t with clock := { s.clock with lead := c } }.replied .ok [.num 3 c]))
      ∧ (∀ c g p x bar beat, s.storing = false → c ≤ 100000 → s.clock.st = .running → s.clock.gov = some g →
        g.record.mode = .fixed → s.follower.st = .free → s.clock.ramp = none → s.clock.period = some p →
        s.clock.next = some { time := some x, kind := .beat bar beat } → x ≤ max s.now t + c → NoAtBar bar beat s →
        ∃ u : State, exec (.clockSet t (some c)) s = .next (u.replied .ok [.num 3 c])
          ∧ u.clock = showWritten { s.clock with lead := c } s.follower x bar beat (some p)
              (showNext (some (x + p)) g.record.meter bar beat)
          ∧ u.channels = s.channels.map (scheduleChannel (showBeat g s.clock u.now x bar beat) c)
          ∧ FlashPending u.now c x false
              { bar := bar, beat := beat, pass := (s.clock.vamp.map (·.loops)).getD 0, phase := .inShow
                tempo := displayedTempo (some p) } s.video u.video
          ∧ { u with clock := s.clock, channels := s.channels, video := s.video } = s.goTo t)
      ∧ (s.clock.vamp = none → exec (.vampRelease t) s = .next ((s.goTo t).replied .notFound []))
      ∧ (∀ v, s.clock.vamp = some v →
        exec (.vampRelease t) s
          = .next ({ s.goTo t with clock := { s.clock with vamp := some { v with release := true } } }.replied .ok [])))

/-- CHANNEL SET on a channel in range with values in range (R65, R87): the settings and the override are written,
FORCED_OFF removes the bursts not started, the other channels stay, and the reply is the channel's record. Where a hold
drains and every list is empty then, the stop state becomes HELD (R61, R159). A channel or a value out of range is refused
with RANGE; BUSY during a store where a stored field is selected. VIDEO SET with values in range (R87, R143, R153): the
selected fields are written, and the reply carries the nine settings; a locked rate that a changed rate setting no longer
accepts is left for FIELD_SEEK, a field run of such a rate is set to 0, and nothing else changes. Out of range it is refused
with RANGE, during a store with BUSY where it selects a field. Details that are the model's choices: log 9 and log 11. -/
def Obligations.OutputSettingsAreWritten : Prop :=
  (∀ (s : State) (t n : Nat) (f : RawChannelSet), s.Serving →
      (¬(1 ≤ n ∧ n ≤ 16) → (s.storing = false ∨ RawChannelSet.selectsStored f = false) →
        exec (.channelSet t n f) s = .next ((s.goTo t).replied .range []))
      ∧ (∀ h : 1 ≤ n ∧ n ≤ 16, ∀ i : Fin 16, i = ⟨n - 1, by omega⟩ →
        (s.storing = true → RawChannelSet.selectsStored f = true →
          exec (.channelSet t n f) s = .next ((s.goTo t).replied .busy (channelItems i s)))
        ∧ ((s.storing = false ∨ RawChannelSet.selectsStored f = false) →
          ((∃ x, f.accent = some x ∧ 2 < x) ∨ (∃ l, f.level = some l ∧ ¬(-60 ≤ l ∧ l ≤ 0))
            ∨ (∃ x, f.lead = some x ∧ 100000 < x) ∨ (∃ x, f.countIn = some x ∧ 1 < x)
            ∨ (∃ x, f.toneSet = some x ∧ ¬(1 ≤ x ∧ x ≤ 4)) ∨ (∃ x, f.override = some x ∧ 2 < x)) →
          exec (.channelSet t n f) s = .next ((s.goTo t).replied .range (channelItems i s)))
        ∧ ((s.storing = false ∨ RawChannelSet.selectsStored f = false) → s.channels.length = 16 →
          ∀ (a : AccentMode) (o : Override),
          (match f.accent with
            | none => a = (s.channel i).settings.accent
            | some x => x = accentPlace a) →
          (match f.override with
            | none => o = (s.channel i).override
            | some x => x = o.place) →
          (∀ l, f.level = some l → -60 ≤ l ∧ l ≤ 0) → (∀ x, f.lead = some x → x ≤ 100000) →
          (∀ x, f.countIn = some x → x ≤ 1) → (∀ x, f.toneSet = some x → 1 ≤ x ∧ x ≤ 4) →
          ∃ u : State, exec (.channelSet t n f) s = .next (u.replied .ok (channelItems i u))
            ∧ u.channel i = { s.channel i with
                override := o
                settings := { accent := a, down := written (f.level.map fun l => (-l).toNat) (s.channel i).settings.down
                              lead := written f.lead (s.channel i).settings.lead
                              countIn := written (f.countIn.map (· == 1)) (s.channel i).settings.countIn
                              toneSet := written f.toneSet (s.channel i).settings.toneSet }
                bursts := if o = .forcedOff then [] else (s.channel i).bursts }
            ∧ (∀ j, j ≠ i → u.channel j = s.channel j) ∧ u.channels.length = 16
            ∧ u.stop = (if s.stop.st = .holding .draining ∧ u.channels.all (fun c => c.bursts.isEmpty) = true then
                { s.stop with st := .held } else s.stop)
            ∧ u.video = (if u.stop = s.stop then s.video else
                { s.video with content := { s.video.content with stopState := .held } })
            ∧ { u with channels := s.channels, stop := s.stop, video := s.video } = s.goTo t)))
    ∧ (∀ (s : State) (t : Nat) (f : RawVideoSet), s.Serving →
      (s.storing = true → RawVideoSet.selects f = true →
        exec (.videoSet t f) s = .next ((s.goTo t).replied .busy (videoItems s.video.settings)))
      ∧ ((s.storing = false ∨ RawVideoSet.selects f = false) →
        ((∃ x, f.rate = some x ∧ 2 < x) ∨ (∃ x, f.constant = some x ∧ 2 < x) ∨ (∃ x, f.delay = some x ∧ 200000 < x)
          ∨ (∃ x, f.pitElements = some x ∧ 64 ≤ x) ∨ (∃ x, f.stageElements = some x ∧ 64 ≤ x)
          ∨ (∃ x, f.pitStyle = some x ∧ 1 < x) ∨ (∃ x, f.stageStyle = some x ∧ 1 < x)
          ∨ (∃ x, f.pitLength = some x ∧ ¬(1 ≤ x ∧ x ≤ 4)) ∨ (∃ x, f.stageLength = some x ∧ ¬(1 ≤ x ∧ x ≤ 4))) →
        exec (.videoSet t f) s = .next ((s.goTo t).replied .range (videoItems s.video.settings)))
      ∧ ((s.storing = false ∨ RawVideoSet.selects f = false) →
        ∀ (r : RateSetting) (k : LineConstant) (pe se : Elements) (ps ss : FlashStyle),
        (match f.rate with
          | none => r = s.video.settings.rate
          | some x => x = rateSettingPlace r) →
        (match f.constant with
          | none => k = s.video.settings.constant
          | some x => x = lineConstantPlace k) →
        (match f.pitElements with
          | none => pe = s.video.settings.pit.elements
          | some x => x = elementsNumber pe) →
        (match f.stageElements with
          | none => se = s.video.settings.stage.elements
          | some x => x = elementsNumber se) →
        (match f.pitStyle with
          | none => ps = s.video.settings.pit.style
          | some x => x = stylePlace ps) →
        (match f.stageStyle with
          | none => ss = s.video.settings.stage.style
          | some x => x = stylePlace ss) →
        (∀ x, f.delay = some x → x ≤ 200000) → (∀ x, f.pitLength = some x → 1 ≤ x ∧ x ≤ 4) →
        (∀ x, f.stageLength = some x → 1 ≤ x ∧ x ≤ 4) →
        ∃ u v : State, exec (.videoSet t f) s = .next (u.replied .ok (videoItems u.video.settings))
          ∧ u.video.settings = {
              rate := r, constant := k, delay := written f.delay s.video.settings.delay
              pit := { elements := pe, style := ps, length := written f.pitLength s.video.settings.pit.length }
              stage := { elements := se, style := ss, length := written f.stageLength s.video.settings.stage.length } }
          ∧ v = { u with video := { u.video with settings := s.video.settings } }
          ∧ (r = s.video.settings.rate → v = s.goTo t)
          ∧ (r ≠ s.video.settings.rate →
            ((s.video.genlock = .noSignal ∨ s.video.genlock = .lineSeek) → v = s.goTo t)
            ∧ (s.video.genlock = .locked →
              ((∃ x, s.video.lockedRate = some x ∧ acceptsRate r x = true) → v = s.goTo t)
              ∧ ((∀ x, s.video.lockedRate = some x → acceptsRate r x = false) →
                v = raise (.videoLock .fieldSeek) { s.goTo t with video := lockLeft 0 none s.video }))
            ∧ (s.video.genlock = .fieldSeek →
              ((∀ x, s.video.fieldRate = some x → acceptsRate r x = true) → v = s.goTo t)
              ∧ ((∃ x, s.video.fieldRate = some x ∧ acceptsRate r x = false) →
                v = { s.goTo t with video := { s.video with fieldRun := 0, fieldRate := none } })))))

/-! ## Clicks and video -/

/-- A commit's bursts on one channel (R55 to R59): none where the channel does not sound. A sounding channel withdraws
the SUB bursts not started at or after the new beat burst's onset frame, and takes the beat burst, at T less the effective
lead, and in the SHOW phase a SUB burst for each further part of the beat, at T less that lead plus floor(P × j / s): each
in the frame nearest its onset, or, late and counted, in the first frame still open. A count-in beat gives the beat burst
alone. A fire in order sets the tracked fields of the channels that its cue names (R54). The list is in order where it was; an empty one takes the bursts in their own. A CONDUCTED commit leaves every
channel as it was (R60). BURST_START and BURST_END (R53, R59, R61, R159): the first burst of the list sounds from its frame,
cutting short one that sounds; it ends 720 frames on; and the last start while a hold drains makes the stop state HELD.
Details that are the model's choices: log 2, log 13, log 24, log 26, log 33 and log 36. -/
def Obligations.BurstsAreScheduledAndPlayed : Prop :=
  ((∀ (r : BeatRec) (s : State), r.mode = .conducted → clickCommit r s = s)
      ∧ (∀ (r : BeatRec) (lead : Nat) (c : Channel), channelSounds r.phase c = false → scheduleChannel r lead c = c)
      ∧ (∀ (r : BeatRec) (lead p parts : Nat) (c : Channel), channelSounds r.phase c = true → r.period = some p →
        (r.phase = .inShow ∧ parts = c.trackedSub ∧ 1 ≤ parts ∧ parts ≤ 4 ∨ (∃ n, r.phase = .countIn n) ∧ parts = 1) →
        ∀ new : List Burst, new = (List.range parts).map (fun j => partBurst r lead p parts (frameOf r.commitTime) j c) →
        { scheduleChannel r lead c with bursts := c.bursts, lateCount := c.lateCount } = c
          ∧ (scheduleChannel r lead c).lateCount
            = min 65535 (c.lateCount + (new.filter fun b => decide (b.onset < (frameOf r.commitTime : Int))).length)
          ∧ (c.bursts = [] → (scheduleChannel r lead c).bursts = new)
          ∧ (c.bursts.length + parts ≤ 8 →
            (scheduleChannel r lead c).bursts.Perm (keptBursts (partOnset r lead p parts 0 c) c.bursts ++ new))
          ∧ (c.bursts.Pairwise (fun a b => a.onset ≤ b.onset) →
            (scheduleChannel r lead c).bursts.Pairwise (fun a b => a.onset ≤ b.onset)))
      ∧ (∀ t : Int, (500 * onsetFrame t - 24 * t).natAbs ≤ 250)
      ∧ (∀ (c : Cue) (s : State) (i : Fin 16), s.channels.length = 16 → (clickFire c s).channel i =
        match c.clicks.find? fun a => a.channel == i.val + 1 with
        | some a => { s.channel i with trackedOn := a.on, trackedSub := a.sub.getD (s.channel i).trackedSub }
        | none => s.channel i))
    ∧ (∀ (s : State) (i : Fin 16), s.powered = true → s.channels.length = 16 →
      (∀ b bs, (s.channel i).bursts = b :: bs →
        ∃ u : State, exec (.burstStart i) s = .next u
          ∧ u.now = max s.now (frameTime b.frame)
          ∧ u.channel i = { s.channel i with sounding := some b, bursts := bs }
          ∧ (∀ j, j ≠ i → u.channel j = s.channel j)
          ∧ u.stop = (if s.stop.st = .holding .draining ∧ u.channels.all (fun c => c.bursts.isEmpty) = true then
              { s.stop with st := .held } else s.stop)
          ∧ u.video = (if u.stop = s.stop then s.video else
              { s.video with content := { s.video.content with stopState := .held } })
          ∧ { u with now := s.now, channels := s.channels, stop := s.stop, video := s.video } = s)
      ∧ (∀ b, (s.channel i).sounding = some b →
        ∃ u : State, exec (.burstEnd i) s = .next u
          ∧ u.now = max s.now (frameTime (b.frame + 720))
          ∧ u.channel i = { s.channel i with sounding := none }
          ∧ (∀ j, j ≠ i → u.channel j = s.channel j)
          ∧ { u with now := s.now, channels := s.channels } = s))

/-- The output fields (R145, R149, R151): in FREE_RUN the generator starts the next field 480,000 or 400,400 reference
periods after the last, at the free-run rate; in LOCKED mode an input field that is missed is started by the generator,
which then runs on with a re-time awaited. Each field start takes a snapshot, in which the outputs carry no overlay during
the power-on load and no camera picture in FREE_RUN; a flash whose field this is lights, its beat becomes the displayed beat,
and its error and lateness are worked out; a lit flash counts its fields down. The line syncs and their loss (R140, R141,
R144, R145): the first sync takes the genlock from NO_SIGNAL to LINE_SEEK; a good line lengthens the good run, up to 64,
which declares line lock at or above the count of the line time constant, also where that has been lowered; a line that is
not good ends it; 100,000 µs without a sync lead to NO_SIGNAL with every run 0 and no locked rate. Each change of the genlock
raises VIDEO_LOCK. During the power-on load no sync is taken. Details that are the model's choices: log 2, log 21 and log 29. -/
def Obligations.VideoTiming : Prop :=
  (∀ s : State, s.powered = true →
      (s.video.mode = .freeRun → ∀ step, step = (if s.video.outRate = .r50 then 480000 else 400400) →
        ∃ u : State, exec .generatorFieldStart s = .next u
          ∧ u.now = max s.now (refTime (s.video.fieldStart + step))
          ∧ FieldBegins (!s.loading) { fieldAfter (s.video.fieldStart + step) s.video with
              outRate := freeRunRate s.video } u.video
          ∧ { u with now := s.now, video := s.video } = s)
      ∧ (s.video.mode = .locked →
        ∃ u : State, exec .missedInputField s = .next u
          ∧ u.now = max s.now (fieldTime s.video + (if s.video.outRate = .r50 then 20000 else 16683) + 1000)
          ∧ FieldBegins (!s.loading) { fieldAfter (u.now * 24) s.video with mode := .freeRun, retime := true } u.video
          ∧ { u with now := s.now, video := s.video } = s))
    ∧ (∀ (s : State) (t sub : Nat), s.powered = true →
      (s.loading = true → ∀ f, exec (.lineSync t sub f) s = .next (s.goTo t))
      ∧ (s.loading = false → s.video.genlock = .noSignal →
        exec (.lineSync t sub false) s
          = .next (raise (.videoLock .lineSeek) { s.goTo t with video := { s.video with
              genlock := .lineSeek, goodRun := 0, badRun := 0, lastSync := some (t * 24 + sub)
              lines := s.video.lines + 1 } }))
      ∧ (∀ l, s.loading = false → s.video.genlock = .lineSeek → s.video.lastSync = some l →
        (62 * 24 ≤ t * 24 + sub - l → t * 24 + sub - l ≤ 66 * 24 →
          (s.video.goodRun + 1 < (lineCounts s.video.settings.constant).1 →
            exec (.lineSync t sub false) s
              = .next { s.goTo t with video := { s.video with
                  goodRun := s.video.goodRun + 1, lastSync := some (t * 24 + sub), lines := s.video.lines + 1 } })
          ∧ ((lineCounts s.video.settings.constant).1 ≤ s.video.goodRun + 1 →
            exec (.lineSync t sub false) s
              = .next (raise (.videoLock .fieldSeek) { s.goTo t with video := { s.video with
                  genlock := .fieldSeek, goodRun := min 64 (s.video.goodRun + 1), fieldRun := 0, fieldRate := none
                  seekPrimed := false, lastSync := some (t * 24 + sub), lines := s.video.lines + 1 } })))
        ∧ ((t * 24 + sub - l < 62 * 24 ∨ 66 * 24 < t * 24 + sub - l) →
          exec (.lineSync t sub false) s
            = .next { s.goTo t with video := { s.video with
                goodRun := 0, lastSync := some (t * 24 + sub), lines := s.video.lines + 1 } }))
      ∧ (∀ l, s.video.genlock ≠ .noSignal → s.video.lastSync = some l →
        exec .syncLossTimeout s
          = .next (raise (.videoLock .noSignal) { s.goTo (refTime l + 100000) with video := { s.video with
              genlock := .noSignal, goodRun := 0, badRun := 0, fieldRun := 0, fieldRate := none, nonNominal := 0
              lockedRate := none, mode := .freeRun, retime := false
              snapshot := { s.video.snapshot with camera := false } } })))

/-- The line syncs once line lock is held (R138, R141 to R146, R149). Bad lines at the count of the line time constant lose
line lock. In FIELD_SEEK the first field start after LINE_SEEK classifies nothing; each later one classifies the field that
ended: nominal of the run's rate, the run rises by 1, of another rate or at 0 it is 1, and not nominal it is 0; at 8 the
genlock is LOCKED, and a re-time is awaited. In LOCKED a nominal field of the locked rate clears the non-nominal run and the
fourth that is not nominal leads to FIELD_SEEK with the run 0, under AUTO one of the other rate with the run 1; otherwise the
output starts its field with this one, and, where a re-time is awaited, takes the locked rate and chooses a pending flash
again by its aim. Each change of the genlock raises VIDEO_LOCK. Details that are the model's choices: log 13 and log 21. -/
def Obligations.GenlockAndRetime : Prop :=
  ∀ (s : State) (t sub l ref : Nat), s.powered = true → s.loading = false → s.video.lastSync = some l → ref = t * 24 + sub →
    (s.video.genlock = .fieldSeek ∨ s.video.genlock = .locked) →
    ((ref - l < 62 * 24 ∨ 66 * 24 < ref - l) → s.video.badRun < 32 → ∀ limit, limit = (lineCounts s.video.settings.constant).2 →
      (s.video.badRun + 1 < limit →
        exec (.lineSync t sub false) s
          = .next { s.goTo t with video := { s.video with
              badRun := s.video.badRun + 1, lastSync := some ref, lines := s.video.lines + 1 } })
      ∧ (limit ≤ s.video.badRun + 1 →
        exec (.lineSync t sub false) s
          = .next (raise (.videoLock .lineSeek) { s.goTo t with video := { s.video with
              genlock := .lineSeek, goodRun := 0, badRun := 0, fieldRun := 0, fieldRate := none, nonNominal := 0
              lockedRate := none, mode := .freeRun, retime := false
              snapshot := { s.video.snapshot with camera := false }
              lastSync := some ref, lines := s.video.lines + 1 } })))
    ∧ (62 * 24 ≤ ref - l → ref - l ≤ 66 * 24 →
      exec (.lineSync t sub false) s
          = .next { s.goTo t with video := { s.video with
              badRun := 0, lastSync := some ref, lines := s.video.lines + 1 } }
      ∧ (s.video.genlock = .fieldSeek → s.video.seekPrimed = false →
        exec (.lineSync t sub true) s
          = .next { s.goTo t with video := { s.video with
              badRun := 0, lastSync := some ref, inputField := some ref, lines := 0, seekPrimed := true } })
      ∧ ∀ (began : Nat) (v : Video), s.video.inputField = some began → v = fieldMeasured ref began s.video →
        ∀ nominal : Option Rate,
        nominal = (classifyLines s.video.lines).filter (acceptsRate s.video.settings.rate) →
        (s.video.genlock = .fieldSeek → s.video.seekPrimed = true → s.video.fieldRun < 8 →
          (nominal = none →
            exec (.lineSync t sub true) s = .next { s.goTo t with video := { v with fieldRun := 0, fieldRate := none } })
          ∧ ∀ r run, nominal = some r →
            run = (if s.video.fieldRun ≠ 0 ∧ s.video.fieldRate = some r then s.video.fieldRun + 1 else 1) →
            (run < 8 →
              exec (.lineSync t sub true) s
                = .next { s.goTo t with video := { v with fieldRun := run, fieldRate := some r } })
            ∧ (8 ≤ run →
              exec (.lineSync t sub true) s
                = .next (raise (.videoLock .locked) { s.goTo t with video := { v with
                    fieldRun := run, fieldRate := some r, genlock := .locked, lockedRate := some r
                    lastLocked := some r, nonNominal := 0, retime := true } })))
        ∧ (s.video.genlock = .locked →
          (∀ r, nominal = some r → s.video.lockedRate ≠ some r →
            exec (.lineSync t sub true) s
              = .next (raise (.videoLock .fieldSeek) { s.goTo t with video := lockLeft 1 (some r) v }))
          ∧ (nominal = none → 4 ≤ s.video.nonNominal + 1 →
            exec (.lineSync t sub true) s
              = .next (raise (.videoLock .fieldSeek) { s.goTo t with
                  video := lockLeft 0 none { v with nonNominal := s.video.nonNominal + 1 } }))
          ∧ ∀ kept, (nominal ≠ none → nominal = s.video.lockedRate ∧ kept = 0) →
            (nominal = none → kept = s.video.nonNominal + 1 ∧ kept < 4) →
            (s.video.retime = false → s.video.mode = .locked →
              ∃ u : State, exec (.lineSync t sub true) s = .next u
                ∧ FieldBegins true { fieldAfter ref v with nonNominal := kept } u.video
                ∧ { u with video := s.video } = s.goTo t)
            ∧ (s.video.retime = true → ∀ (rate : Rate) (w : Video), s.video.lockedRate = some rate →
              w = { fieldAfter ref v with nonNominal := kept, mode := .locked, retime := false, outRate := rate } →
              ∃ u : State, exec (.lineSync t sub true) s = .next u
                ∧ FieldBegins true { w with waiting := s.video.waiting.map fun p =>
                    { p with field := nearestField w w.fieldNo p.aim } } u.video
                ∧ { u with video := s.video } = s.goTo t)))

/-- The flash field (R150): of the fields not yet started that are predicted to start at or after the commit, the one
nearest the aim, and the earlier of two that are equally near. -/
def Obligations.FlashFieldIsTheNearest : Prop :=
  ∀ (v : Video) (now aim m : Nat), v.fieldNo < m → now ≤ predictedStart v m →
    v.fieldNo < nearestField v (firstCandidate v now) aim
      ∧ firstCandidate v now ≤ nearestField v (firstCandidate v now) aim
      ∧ now ≤ predictedStart v (nearestField v (firstCandidate v now) aim)
      ∧ distance (predictedStart v (nearestField v (firstCandidate v now) aim)) aim ≤ distance (predictedStart v m) aim
      ∧ (distance (predictedStart v (nearestField v (firstCandidate v now) aim)) aim = distance (predictedStart v m) aim →
        nearestField v (firstCandidate v now) aim ≤ m)

/-- What the outputs carry. A video output draws from the snapshot the elements of its profile and no other: nothing without
the overlay, the displayed beat with its bar, its beat and its pass when above 0, or its count-in number, the current cue, the
displayed tempo, the caption, the flash while it is lit, and the banner; the STOP banner whatever the profile holds (R147). The banner is STOP in
STOPPED, REBUILDING and READY, HOLD in HOLDING and HELD, COUNT-IN in COUNT_IN or while a count-in beat is displayed, STANDBY
while a standby cue is held, and else none (R149). An audio frame carries one slot for each channel: silence during the
power-on load, without a burst, and outside its 720 frames; a burst's sample otherwise, 0 at its start, and on its plateau
the peak at a quarter turn, minus the peak at three quarters, and 0 between (R51 to R53). Behind the frame sync each slot goes
out in 24 bits, the most significant first, channel 1's before channel 2's (R53). The peak is 8,388,607 × 10^(L/20)
rounded to nearest for each level and each SUB level (R52). Details that are the model's choices: log 24. -/
def Obligations.WhatTheOutputsCarry : Prop :=
  (∀ (sn : Snapshot) (p : Profile) (lit : Bool),
      (sn.overlay = false → drawOutput sn p lit = [])
      ∧ (sn.overlay = true → ∀ x : Drawn, x ∈ drawOutput sn p lit ↔ (match x with
        | .barBeat bar beat pass => p.elements.barBeat = true ∧ ∃ d, sn.content.displayed = some d ∧ d.phase = .inShow
            ∧ d.bar = bar ∧ d.beat = beat ∧ (pass = none ∧ d.pass = 0 ∨ pass = some d.pass ∧ 0 < d.pass)
        | .countInBeat n => p.elements.barBeat = true ∧ ∃ d, sn.content.displayed = some d ∧ d.phase = .countIn n
        | .cueNumber n => p.elements.cueNumber = true ∧ sn.content.cue = some n
        | .tempo b => p.elements.tempo = true ∧ ∃ d, sn.content.displayed = some d ∧ d.tempo = b
        | .caption chars => p.elements.caption = true ∧ sn.content.caption = chars
        | .banner b => sn.banner = b ∧ b ≠ .none ∧ (b = .stop ∨ p.elements.banner = true)
        | .flash style => p.elements.flash = true ∧ lit = true ∧ style = p.style)))
    ∧ (∀ s : State, ∀ l : LitFlash, l = s.video.lit.getD { pit := 0, stage := 0 } →
      outputs s = (drawOutput s.video.snapshot s.video.snapshot.pit (decide (0 < l.pit)),
        drawOutput s.video.snapshot s.video.snapshot.stage (decide (0 < l.stage))))
    ∧ (∀ c : Content,
      ((c.stopState = .stopped ∨ c.stopState = .rebuilding ∨ c.stopState = .ready) → bannerOf c = .stop)
      ∧ ((c.stopState = .held ∨ ∃ h, c.stopState = .holding h) → bannerOf c = .hold)
      ∧ (∀ d n, (c.stopState = .run ∨ ∃ k, c.stopState = .countIn k) → c.displayed = some d → d.phase = .countIn n →
        bannerOf c = .countIn (some n))
      ∧ ((∀ d n, c.displayed = some d → d.phase ≠ .countIn n) →
        ((∃ k, c.stopState = .countIn k) → bannerOf c = .countIn none)
        ∧ (c.stopState = .run → ∀ n, c.standby = some n → bannerOf c = .standby n)
        ∧ (c.stopState = .run → c.standby = none → bannerOf c = .none)))
    ∧ (∀ (s : State) (n : Nat), (audioFrame s n).length = s.channels.length
      ∧ ∀ (i : Nat) (c : Channel), s.channels[i]? = some c →
        ((s.loading = true ∨ s.powered = false ∨ c.sounding = none) → (audioFrame s n)[i]? = some 0)
        ∧ ∀ b, c.sounding = some b → s.powered = true → s.loading = false →
          (n < b.frame ∨ b.frame + 720 ≤ n → (audioFrame s n)[i]? = some 0)
          ∧ (b.frame ≤ n → n < b.frame + 720 →
            (audioFrame s n)[i]? = some (BitVec.ofInt 24 (burstSample b (n - b.frame)))))
    ∧ (∀ (s : State) (n i k : Nat), k < 24 →
      (audioBits s n).length = 24 * s.channels.length
      ∧ (audioBits s n)[24 * i + k]? = (audioFrame s n)[i]?.map fun x => x.getLsbD (23 - k))
    ∧ (∀ (b : Burst) (k : Nat), burstSample b 0 = 0
      ∧ (48 ≤ k → k < 480 →
        (b.frequency * k % 48000 = 12000 → burstSample b k = (b.peak : Int))
        ∧ (b.frequency * k % 48000 = 36000 → burstSample b k = -(b.peak : Int))
        ∧ (b.frequency * k % 24000 = 0 → burstSample b k = 0)))
    ∧ (∀ down, down ≤ 66 → 1 ≤ peakOf down
      ∧ (2 * peakOf down - 1) ^ 20 * 10 ^ down ≤ (2 * 8388607) ^ 20
      ∧ (2 * 8388607) ^ 20 < (2 * peakOf down + 1) ^ 20 * 10 ^ down)

/-! ## Stations -/

/-- A PRESENT line (R109, R110): a level held for less than 8,000 µs since the internal reset changes nothing; an assertion takes an OFFLINE
station to GREETING with a QUERY due unless it is excluded; a deassertion empties it, takes it OFFLINE, ends its
switch MISSED, raises OFFLINE unless it is excluded, and is told to the Stop Controller. A HELLO (R111, R123, R129):
OFFLINE, or with a slot count outside 2–8, it is a protocol error and nothing more; otherwise the
table is sized, every slot EMPTY, the station is ONLINE with nothing selected or outstanding, and, unless it is
excluded, it starts a cold switch to its mapped tracked patch at the current cue; it is stated where no frame in reception has
had its gap, the other case being StationLinkSends'. What a deassertion and a HELLO do besides in a rebuild is
RebuildAndReadiness'. STATION RESET (R133): the outstanding
frames are abandoned, every place is cleared, a switch in progress ends DROPPED, every slot is EMPTY, nothing is selected, the
victim pointer is 1 and the pressure episode closed; the station is in GREETING with a QUERY due unless excluded where PRESENT
is asserted, and OFFLINE where not; excluded setting, late override, host pins, fault record and protocol errors are kept.
Details that are the model's choices: log 12, log 23 and log 32. -/
def Obligations.StationsComeAndGo : Prop :=
  (∀ (s : State) (t held : Nat) (i : Fin 6), s.powered = true → s.stations.length = 6 → s.stop.words.length = 6 →
      ((held < 8000 ∨ max s.now t < 8000) →
        exec (.presentAsserted t i held) s = .next (s.goTo t) ∧ exec (.presentDeasserted t i held) s = .next (s.goTo t))
      ∧ (8000 ≤ held → 8000 ≤ max s.now t → (s.station i).present = false →
        exec (.presentDeasserted t i held) s = .next (s.goTo t)
        ∧ ∃ u : State, exec (.presentAsserted t i held) s = .next u ∧ OnlyStation i (s.goTo t) u
          ∧ u.station i = (if s.loading then { s.station i with present := true } else
              { s.station i with
                present := true, link := .greeting, queryDue := !(s.station i).excluded, queryAt := none }))
      ∧ (8000 ≤ held → 8000 ≤ max s.now t → (s.station i).present = true → s.stop.st.rebuilds = false →
        exec (.presentAsserted t i held) s = .next (s.goTo t)
        ∧ ∃ u : State, exec (.presentDeasserted t i held) s = .next u
          ∧ (u.station i).link = .offline ∧ (u.station i).present = false
          ∧ (u.station i).slots = (s.station i).slots.map (fun _ => Slot.blank) ∧ (u.station i).selected = .none
          ∧ (u.station i).outLoad = none ∧ (u.station i).outSelect = none ∧ (u.station i).selectPlace = none
          ∧ (u.station i).loadPlace = none ∧ (u.station i).silence = false ∧ (u.station i).switch = none
          ∧ (u.station i).pressure = false ∧ (u.station i).hostPins = (s.station i).hostPins
          ∧ (∀ w, (s.station i).switch = some w → (u.station i).lastSwitch = some
              { cue := w.cue, patch := some w.patch, kind := w.kind, outcome := .missed, lateness := none })
          ∧ ((s.station i).switch = none → (u.station i).lastSwitch = (s.station i).lastSwitch)
          ∧ ((s.station i).excluded = true → (u.station i).faults = (s.station i).faults ∧ u.attention = s.attention)
          ∧ ((s.station i).excluded = false →
            (u.station i).faults.first = faultAfter i .offline ((s.station i).switch.bind (·.cue))
              ((s.station i).switch.map (·.patch)) s u.now
            ∧ u.attention[1]? = s.attention[1]?.map (Condition.raised (.stationFault i .offline) u.now))
          ∧ u.words i = { s.words i with online := false }
          ∧ OnlyStationAndFault i (s.goTo t) { u with stop := s.stop }))
    ∧ (∀ (s : State) (t n : Nat) (i : Fin 6), s.Serving → s.stations.length = 6 → s.stop.words.length = 6 →
      GapHeld (s.station i) 4 (max s.now t) →
      (((s.station i).link = .offline ∨ n < 2 ∨ 8 < n) →
        ∃ u : State, exec (.hello t i n) s = .next u ∧ OnlyStation i (s.goTo t) u
          ∧ u.station i = { s.station i with
              receiver := none, protoErrors := min 65535 ((s.station i).protoErrors + 1) })
      ∧ ((s.station i).link ≠ .offline → 2 ≤ n → n ≤ 8 → s.stop.st.rebuilds = false →
        ∃ u : State, exec (.hello t i n) s = .next u ∧ (u.station i).receiver = none
          ∧ (u.station i).link = .online ∧ (u.station i).slots = List.replicate n Slot.blank
          ∧ (u.station i).selected = .none ∧ (u.station i).victim = 1 ∧ (u.station i).outLoad = none
          ∧ (u.station i).outSelect = none ∧ (u.station i).selectPlace = none
          ∧ (u.station i).excluded = (s.station i).excluded ∧ (u.station i).hostPins = (s.station i).hostPins
          ∧ u.words i = { s.words i with online := true }
          ∧ ((s.station i).excluded = true → (u.station i).switch = none ∧ (u.station i).loadPlace = none)
          ∧ (∀ m p, (s.station i).excluded = false → s.seq.current = some m →
            (trackedPatch s.store.cues m i).map (·.1) = some p → (findMap s.map (i.val + 1) p).isSome = true →
            (u.station i).loadPlace = some p
              ∧ (u.station i).switch = some { patch := p, cue := some m, fireTime := none, kind := .cold
                                              stage := .coldHeld, rebuild := false })
          ∧ OnlyStationAndFault i (s.goTo t) { u with stop := s.stop }))
    ∧ (∀ (s : State) (t n : Nat) (i : Fin 6), s.Serving → s.stations.length = 6 → n = i.val + 1 →
      ∃ u : State, exec (.stationReset t n) s = .next (u.replied .ok []) ∧ OnlyStation i (s.goTo t) u
        ∧ u.station i = { s.station i with
            slots := (s.station i).slots.map fun _ => Slot.blank
            selected := .none, victim := 1, pressure := false, failed := []
            outLoad := none, outSelect := none, silence := false, selectPlace := none, loadPlace := none
            preload := false, switch := none, queryAt := none
            link := if (s.station i).present then .greeting else .offline
            queryDue := (s.station i).present && !(s.station i).excluded
            lastSwitch := match (s.station i).switch with
              | some w => some { cue := w.cue, patch := some w.patch, kind := w.kind, outcome := .dropped
                                 lateness := none }
              | none => (s.station i).lastSwitch })

/-- LOADED for the outstanding LOAD (R115, R119): an unmarked slot becomes RESIDENT and a waiting switch's SELECT goes to
the SELECT place, or waits for an outstanding SELECT of that slot (R123); a slot marked STALE alone becomes RESIDENT and
STALE without a patch id, a FLUSH_PENDING one EMPTY, and a waiting switch then becomes a cold load. An answer for another slot, or
with none outstanding, is a protocol error and nothing more (R113). A LOAD that fails, by LOAD_FAILED or by its
timeout (R115, R126): the slot is EMPTY, the patch joins the failed preloads, a fault of its kind is raised with the
cue of the waiting switch, which ends MISSED, or of the preload; what it does besides in a rebuild is RebuildAndReadiness'. A
row of a frame is stated where no frame in reception has had its gap; the other case is StationLinkSends'. That a frame taken whole leaves the station's receiver hunting
is the model's choice (log 32); other details that are the model's choices: log 2 and log 23. -/
def Obligations.LoadsAreAnswered : Prop :=
  (∀ (s : State) (t k : Nat) (i : Fin 6), s.Serving → s.stations.length = 6 → GapHeld (s.station i) 4 (max s.now t) →
      ((∀ o, (s.station i).outLoad = some o → o.slot ≠ k) →
        ∃ u v : State, exec (.loaded t i k) s = .next u ∧ OnlyStation i (s.goTo t) u
          ∧ exec (.loadFailed t i k) s = .next v ∧ v = u
          ∧ u.station i = { s.station i with
              receiver := none, protoErrors := min 65535 ((s.station i).protoErrors + 1) })
      ∧ (∀ o, (s.station i).outLoad = some o → o.slot = k →
        ∃ u : State, ∃ taken : Station, exec (.loaded t i k) s = .next u ∧ OnlyStationAndFault i (s.goTo t) u
          ∧ taken = { s.station i with slots := (u.station i).slots, outLoad := none, receiver := none }
          ∧ ((∀ w, (s.station i).switch = some w → w.stage ≠ .loading k) → (u.station i).settled = taken.settled)
          ∧ (((s.station i).slot k).stale = false → ((s.station i).slot k).flush = false →
            (u.station i).slots = (s.station i).slots.modify (k - 1) (fun sl => { sl with st := .resident })
            ∧ (∀ w, (s.station i).switch = some w → w.stage = .loading k →
              ((s.station i).outSelect.map (·.slot) ≠ some k →
                (u.station i).settled
                  = ({ taken with selectPlace := some k, switch := some { w with stage := .selectHeld k } } : Station).settled)
              ∧ ((s.station i).outSelect.map (·.slot) = some k →
                (u.station i).settled
                  = ({ taken with switch := some { w with stage := .selecting k } } : Station).settled)))
          ∧ ((((s.station i).slot k).stale = true ∨ ((s.station i).slot k).flush = true) →
            (u.station i).slots = (s.station i).slots.modify (k - 1) (fun _ =>
              if ((s.station i).slot k).flush = true then Slot.blank
              else { st := .resident, patch := none, stale := true, flush := false })
            ∧ (∀ w, (s.station i).switch = some w → w.stage = .loading k →
              (u.station i).settled
                = ({ taken with
                    loadPlace := some w.patch, selectPlace := none
                    switch := some { w with kind := .cold, stage := .coldHeld } } : Station).settled))))
    ∧ (∀ (s : State) (t : Nat) (i : Fin 6) (o : OutLoad), s.Serving → s.stations.length = 6 → s.stop.st.rebuilds = false →
      (s.station i).outLoad = some o →
      ∀ (c : Instr) (kind : FaultKind) (at_ : Nat),
        (c = .loadFailed t i o.slot ∧ GapHeld (s.station i) 4 (max s.now t) ∧ kind = .loadFailed ∧ at_ = max s.now t
          ∨ c = .loadTimeout i ∧ kind = .loadTimeout ∧ (∃ d, o.due = some d ∧ at_ = max s.now d)) →
      ∃ u : State, exec c s = .next u ∧ OnlyStationAndFault i { s with now := at_ } u
        ∧ (u.station i).slots = (s.station i).slots.modify (o.slot - 1) (fun _ => Slot.blank)
        ∧ (u.station i).outLoad = none
        ∧ (u.station i).receiver = (if c = .loadTimeout i then (s.station i).receiver else none)
        ∧ (u.station i).failed = (if (s.station i).failed.contains o.patch then (s.station i).failed
            else (s.station i).failed ++ [o.patch])
        ∧ (∀ w, (s.station i).switch = some w → w.stage = .loading o.slot →
          (u.station i).switch = none
            ∧ (u.station i).lastSwitch = some
              { cue := w.cue, patch := some w.patch, kind := w.kind, outcome := .missed, lateness := none }
            ∧ (u.station i).faults.first = faultAfter i kind w.cue (some o.patch) s at_)
        ∧ ((∀ w, (s.station i).switch = some w → w.stage ≠ .loading o.slot) →
          (u.station i).switch = (s.station i).switch ∧ (u.station i).lastSwitch = (s.station i).lastSwitch
            ∧ (u.station i).faults.first = faultAfter i kind o.cue (some o.patch) s at_)
        ∧ (u.station i).selected = (s.station i).selected ∧ (u.station i).outSelect = (s.station i).outSelect
        ∧ (u.station i).hostPins = (s.station i).hostPins)

/-- SELECTED for the outstanding SELECT makes its slot the selected slot and confirms the switch it served with its
lateness, with a LATE fault above the threshold and none otherwise, ahead of a preload recompute (R116, R122, R125); for
another slot, or with none outstanding, it is a protocol error.
The timeout of a SELECT (R116, R126): the selection becomes UNKNOWN with the slots the rig may be sounding, unless the
slot was selected before, and the switch it served ends MISSED with a SELECT_TIMEOUT fault. What the two do besides in a
rebuild is RebuildAndReadiness'. SELECTED is stated where no frame in reception has had its gap; the other case is
StationLinkSends'. That a frame taken whole leaves the station's receiver
hunting is the model's choice (log 32); other details that are the model's choices: log 2. -/
def Obligations.SelectsAreAnswered : Prop :=
  (∀ (s : State) (t k : Nat) (i : Fin 6), s.Serving → s.stations.length = 6 → s.stop.st.rebuilds = false →
      GapHeld (s.station i) 4 (max s.now t) →
      ((∀ o, (s.station i).outSelect = some o → o.slot ≠ k) →
        ∃ u : State, exec (.selected t i k) s = .next u ∧ OnlyStation i (s.goTo t) u
          ∧ u.station i = { s.station i with
              receiver := none, protoErrors := min 65535 ((s.station i).protoErrors + 1) })
      ∧ (∀ o, (s.station i).outSelect = some o → o.slot = k →
        ∃ u : State, exec (.selected t i k) s = .next u ∧ OnlyStationAndFault i (s.goTo t) u
          ∧ ((∀ w, (s.station i).switch = some w → w.stage ≠ .selecting k) →
            (u.station i).settled = ({ s.station i with
              selected := .slot k, outSelect := none, receiver := none } : Station).settled
            ∧ ∃ x : State, OnlyStation i (s.goTo t) x ∧ RecomputedKeeping i x u
              ∧ x.station i = { s.station i with selected := .slot k, outSelect := none, receiver := none })
          ∧ (∀ w, (s.station i).switch = some w → w.stage = .selecting k →
            (u.station i).settled = ({ s.station i with
                selected := .slot k, outSelect := none, receiver := none, switch := none
                lastSwitch := some { cue := w.cue, patch := some w.patch, kind := w.kind, outcome := .done
                                     lateness := w.fireTime.map fun f => max s.now t - f } } : Station).settled
            ∧ (∀ f, w.fireTime = some f →
              ((s.station i).lateOverride.getD s.seq.settings.lateThreshold) * 1000 < max s.now t - f →
              (u.station i).faults.first = faultAfter i .late w.cue (some w.patch) s (max s.now t))
            ∧ ((∀ f, w.fireTime = some f →
                max s.now t - f ≤ ((s.station i).lateOverride.getD s.seq.settings.lateThreshold) * 1000) →
              ∃ x : State, OnlyStation i (s.goTo t) x ∧ RecomputedKeeping i x u
                ∧ x.station i = { s.station i with
                  selected := .slot k, outSelect := none, receiver := none, switch := none
                  lastSwitch := some { cue := w.cue, patch := some w.patch, kind := w.kind, outcome := .done
                                       lateness := w.fireTime.map fun f => max s.now t - f } }))))
    ∧ (∀ (s : State) (i : Fin 6) (o : OutSelect) (d : Nat), s.powered = true → s.stations.length = 6 →
      s.stop.st.rebuilds = false → (s.station i).outSelect = some o → o.due = some d →
      ∃ u : State, exec (.selectTimeout i) s = .next u ∧ OnlyStationAndFault i (s.goTo d) u
        ∧ (u.station i).outSelect = none ∧ (u.station i).slots = (s.station i).slots
        ∧ (u.station i).outLoad = (s.station i).outLoad ∧ (u.station i).loadPlace = (s.station i).loadPlace
        ∧ (u.station i).selectPlace = (s.station i).selectPlace
        ∧ ((s.station i).selected = .none → (u.station i).selected = .unknown [o.slot])
        ∧ (∀ j, (s.station i).selected = .slot j →
          (u.station i).selected = if j = o.slot then .slot j else .unknown [j, o.slot])
        ∧ (∀ l, (s.station i).selected = .unknown l →
          (u.station i).selected = .unknown (if l.contains o.slot then l else l ++ [o.slot]))
        ∧ (∀ w, (s.station i).switch = some w → w.stage = .selecting o.slot →
          (u.station i).switch = none
            ∧ (u.station i).lastSwitch = some
              { cue := w.cue, patch := some w.patch, kind := w.kind, outcome := .missed, lateness := none }
            ∧ (u.station i).faults.first = faultAfter i .selectTimeout w.cue (some w.patch) s u.now)
        ∧ ((∀ w, (s.station i).switch = some w → w.stage ≠ .selecting o.slot) →
          (u.station i).switch = (s.station i).switch ∧ (u.station i).lastSwitch = (s.station i).lastSwitch))

/-- The link of a station sends from the first place that has a frame ready (R114, R115, R116): nothing while it is
excluded or busy, then SILENCE, a SELECT with none outstanding, a cold LOAD or else the preload into its victim with none
outstanding, also while a SELECT is held behind an outstanding one, a QUERY that is due in GREETING, and else nothing. A
cold load without a victim ends its switch MISSED with PRESSURE, in a rebuild as RebuildAndReadiness adds, and a preload
without one is deferred (R121, R122, R126). The end of a frame on a station's link and a QUERY that comes due again (R111, R114, R116): the timeouts
run from the end of the frame, and the QUERY repeats 500,000 µs after it. Bytes that arrive from the rig and a gap after
them (R113, R188): each frame that the receiver fails adds 1 to the protocol error count and nothing more, and a whole one is
taken as its own row; a gap fails the frame in reception at the first whole µs more than 52 bit times behind its last byte; and
where more than 52 bit times lie between that byte and the next one to come, on whatever row, the frame fails first. During the
power-on load nothing is taken. Details that are the model's choices: log 2, log 13, log 22, log 23 and log 32. -/
def Obligations.StationLinkSends : Prop :=
  (∀ (s : State) (t : Nat) (i : Fin 6), s.Serving → s.stations.length = 6 →
      ((s.station i).excluded = true ∨ (s.station i).sending.isSome = true → exec (.stationSend t i) s = .next (s.goTo t))
      ∧ ((s.station i).excluded = false → (s.station i).sending = none →
        ((s.station i).silence = true →
          ∃ u : State, exec (.stationSend t i) s = .next u ∧ OnlyStation i (s.goTo t) u
            ∧ u.station i = { s.station i with silence := false, sending := some (.silence, max s.now t) })
        ∧ (∀ k, (s.station i).silence = false → (s.station i).selectPlace = some k → (s.station i).outSelect = none →
          ∃ u : State, exec (.stationSend t i) s = .next u ∧ OnlyStation i (s.goTo t) u
            ∧ u.station i = { s.station i with
                selectPlace := none, sending := some (.select k, max s.now t)
                outSelect := some { slot := k, sent := max s.now t, due := none }
                switch := (s.station i).switch.map fun w =>
                  if w.stage = .selectHeld k then { w with stage := .selecting k } else w })
        ∧ ((s.station i).silence = false → ((s.station i).selectPlace = none ∨ (s.station i).outSelect ≠ none) →
          (∀ p, (s.station i).loadPlace = some p → (s.station i).outLoad = none →
            (∀ e k v, findMap s.map (i.val + 1) p = some e → VictimIs false (s.station i) k v →
              ∃ u : State, exec (.stationSend t i) s = .next u ∧ OnlyStation i (s.goTo t) u
                ∧ u.station i = { s.station i with
                    loadPlace := none, victim := v, sending := some (.load k e.bank e.program, max s.now t)
                    slots := (s.station i).slots.modify (k - 1) fun _ =>
                      { st := .loading, patch := some e.patch, stale := false, flush := false }
                    outLoad := some { slot := k, patch := e.patch, cue := (s.station i).switch.bind (·.cue)
                                      sent := max s.now t, limit := (e.load + 2000) * 1000, due := none }
                    switch := (s.station i).switch.map fun w => { w with stage := .loading k } })
            ∧ (∀ w, (s.station i).switch = some w → s.stop.st.rebuilds = false →
              (findMap s.map (i.val + 1) p = none ∨ ∀ k v, ¬VictimIs false (s.station i) k v) →
              ∃ u : State, exec (.stationSend t i) s = .next u ∧ OnlyStationAndFault i (s.goTo t) u
                ∧ u.station i = { s.station i with
                    loadPlace := none, switch := none
                    lastSwitch := some { cue := w.cue, patch := some w.patch, kind := w.kind, outcome := .missed
                                         lateness := none }
                    faults := recordAfter { kind := .pressure, cue := w.cue, patch := some w.patch, time := max s.now t }
                      (s.station i).faults }
                ∧ u.attention[1]? = s.attention[1]?.map (Condition.raised (.stationFault i .pressure) (max s.now t))))
          ∧ ((s.station i).loadPlace = none → (s.station i).outLoad = none → (s.station i).preload = true →
            (∀ cue e k v, PreloadIs s.map i (s.station i) cue e.patch → findMap s.map (i.val + 1) e.patch = some e →
              VictimIs true (s.station i) k v →
              ∃ u : State, exec (.stationSend t i) s = .next u ∧ OnlyStation i (s.goTo t) u
                ∧ u.station i = { s.station i with
                    preload := false, pressure := false, victim := v
                    sending := some (.load k e.bank e.program, max s.now t)
                    slots := (s.station i).slots.modify (k - 1) fun _ =>
                      { st := .loading, patch := some e.patch, stale := false, flush := false }
                    outLoad := some { slot := k, patch := e.patch, cue := cue, sent := max s.now t
                                      limit := (e.load + 2000) * 1000, due := none } })
            ∧ (∀ cue p, PreloadIs s.map i (s.station i) cue p → (∀ k v, ¬VictimIs true (s.station i) k v) →
              ∃ u : State, exec (.stationSend t i) s = .next u ∧ Deferred i cue p (s.goTo t) u)
            ∧ (AllSkipped s.map i (s.station i) (preloadOrder (s.station i)) →
              ∃ u : State, exec (.stationSend t i) s = .next u ∧ OnlyStation i (s.goTo t) u
                ∧ u.station i = { s.station i with preload := false, pressure := false }))
          ∧ (((s.station i).outLoad ≠ none ∨ (s.station i).loadPlace = none ∧ (s.station i).preload = false) →
            ((s.station i).link = .greeting → (s.station i).queryDue = true →
              ∃ u : State, exec (.stationSend t i) s = .next u ∧ OnlyStation i (s.goTo t) u
                ∧ u.station i = { s.station i with queryDue := false, sending := some (.query, max s.now t) })
            ∧ (((s.station i).link ≠ .greeting ∨ (s.station i).queryDue = false) →
              exec (.stationSend t i) s = .next (s.goTo t))))))
    ∧ (∀ (s : State) (t : Nat) (i : Fin 6), s.powered = true → s.stations.length = 6 →
      (∀ f sent, (s.station i).sending = some (f, sent) →
        ∃ u : State, exec (.stationFrameSent i) s = .next u
          ∧ OnlyStation i (s.goTo (sent + bitTimes (10 * f.bytes.length) 230400)) u
          ∧ (∀ k b p, f = .load k b p → u.station i = { s.station i with
              sending := none, outLoad := (s.station i).outLoad.map fun o => { o with due := some (u.now + o.limit) } })
          ∧ (∀ k, f = .select k → u.station i = { s.station i with
              sending := none, outSelect := (s.station i).outSelect.map fun o => { o with due := some (u.now + 200000) } })
          ∧ (f = .silence → u.station i = { s.station i with sending := none })
          ∧ (f = .query → (s.station i).link = .greeting →
            u.station i = { s.station i with sending := none, queryAt := some (u.now + 500000) }))
      ∧ (∀ d, (s.station i).link = .greeting → (s.station i).excluded = false → (s.station i).queryAt = some d →
        ∃ u : State, exec (.queryRepeat i) s = .next u ∧ OnlyStation i (s.goTo d) u
          ∧ u.station i = { s.station i with queryDue := true, queryAt := none })
      ∧ (∀ bytes, s.loading = true →
        exec (.stationFrameBad t ⟨i, bytes⟩) s = .next (s.goTo t) ∧ exec (.stationFrameGap t ⟨i, bytes⟩) s = .next (s.goTo t))
      ∧ (∀ bytes got, s.loading = false → GapHeld (s.station i) bytes.length (max s.now t) →
        (bytes = [] →
          exec (.stationFrameBad t ⟨i, bytes⟩) s = .next (s.goTo t)
          ∧ ((s.station i).receiver = none → exec (.stationFrameGap t ⟨i, bytes⟩) s = .next (s.goTo t))
          ∧ ∀ r n, (s.station i).receiver = some r → rigGap (some r.bytes) = List.replicate (n + 1) .failed →
            ∃ u : State, exec (.stationFrameGap t ⟨i, bytes⟩) s = .next u
              ∧ OnlyStation i ((s.goTo t).goTo (r.last + 226)) u
              ∧ u.station i = { s.station i with
                  receiver := none, protoErrors := min 65535 ((s.station i).protoErrors + n + 1) })
        ∧ (bytes ≠ [] → ∀ open_, open_ = (s.station i).receiver.map (·.bytes) →
          (rigFeed open_ bytes = (got, []) →
            (∃ u : State, exec (.stationFrameBad t ⟨i, bytes⟩) s = .next u ∧ OnlyStation i (s.goTo t) u
              ∧ u.station i = { s.station i with receiver := got.map fun g => { bytes := g, last := max s.now t } })
            ∧ (got = none → exec (.stationFrameGap t ⟨i, bytes⟩) s = exec (.stationFrameBad t ⟨i, bytes⟩) s)
            ∧ ∀ n, rigGap got = List.replicate (n + 1) .failed →
              ∃ u : State, exec (.stationFrameGap t ⟨i, bytes⟩) s = .next u
                ∧ OnlyStation i (s.goTo (max s.now t + 226)) u
                ∧ u.station i = { s.station i with
                    receiver := none, protoErrors := min 65535 ((s.station i).protoErrors + n + 1) })
          ∧ (∀ n, rigFeed open_ bytes = (got, List.replicate (n + 1) .failed) →
            ∃ u : State, exec (.stationFrameBad t ⟨i, bytes⟩) s = .next u ∧ OnlyStation i (s.goTo t) u
              ∧ u.station i = { s.station i with
                  receiver := got.map fun g => { bytes := g, last := max s.now t }
                  protoErrors := min 65535 ((s.station i).protoErrors + n + 1) })
          ∧ ∀ f, rigFeed open_ bytes = (none, [.complete f]) → GapHeld (s.station i) 4 (max s.now t) →
            exec (.stationFrameBad t ⟨i, bytes⟩) s = exec (f.command t i) s))
      ∧ (∀ r n, s.loading = false → (s.station i).receiver = some r →
        rigGap (some r.bytes) = List.replicate (n + 1) .failed →
        ∃ m : State, OnlyStation i (s.goTo t) m
          ∧ m.station i = { s.station i with
              receiver := none, protoErrors := min 65535 ((s.station i).protoErrors + n + 1) }
          ∧ ∀ (c : Instr) (k : Nat),
            ((∃ bytes, k = bytes.length ∧ (c = .stationFrameBad t ⟨i, bytes⟩ ∨ c = .stationFrameGap t ⟨i, bytes⟩))
              ∨ k = 4 ∧ ∃ f : RigFrame, c = f.command t i) →
            ¬GapHeld (s.station i) k (max s.now t) → exec c s = exec c m))

/-- A switch target that reaches a station, with or without the rebuild mark (R123, R124). One that is not ONLINE or is excluded ignores it.
With no switch in progress it is classified in the order of the table: NONE ends DONE; UNMAPPED ends MISSED with its fault;
HOT ends DONE at lateness 0; WARM, where a RESIDENT slot holds the patch, puts its SELECT in the SELECT place, or waits for an
outstanding SELECT of that slot; WAIT, where the LOADING slot holds it, waits for its answer; COLD puts its load in the LOAD
place. With a switch in progress that one ends SUPERSEDED: a target of the same patch takes over its stage, with its own cue,
fire time and rebuild mark, and another finds the station without it and without its unsent SELECT and cold load. In REBUILDING
and READY a switch with the mark that ends at once is reported besides: SATISFIED for NONE and HOT, FAILED for UNMAPPED; one
that goes on is not yet (R125, R128, R167). -/
def Obligations.SwitchesAreClassified : Prop :=
  ∀ (s : State) (i : Fin 6) (cue : Option CueNo) (fireTime : Option Nat) (mark : Bool), s.stations.length = 6 →
    ((s.station i).serves = false → ∀ target, startSwitch i cue target fireTime mark s = s)
    ∧ ((s.station i).serves = true → (s.station i).switch = none → (mark = true → s.stop.st.rebuilds = false) →
      (∃ u : State, u = startSwitch i cue none fireTime mark s ∧ OnlyStation i s u ∧ u.station i = { s.station i with
        lastSwitch := some { cue := cue, patch := none, kind := .none, outcome := .done, lateness := none } })
      ∧ ∀ p, ∃ u : State, u = startSwitch i cue (some p) fireTime mark s ∧
        (findMap s.map (i.val + 1) p = none →
          OnlyStationAndFault i s u ∧ (u.station i).switch = none
          ∧ (u.station i).lastSwitch
            = some { cue := cue, patch := some p, kind := .unmapped, outcome := .missed, lateness := none }
          ∧ (u.station i).faults.first = faultAfter i .unmapped cue (some p) s s.now)
        ∧ ((findMap s.map (i.val + 1) p).isSome = true →
          OnlyStation i s u
          ∧ (∀ k, (s.station i).selected = .slot k → ((s.station i).slot k).holds p = true →
            (s.station i).outSelect = none →
            u.station i = { s.station i with
              lastSwitch := some { cue := cue, patch := some p, kind := .hot, outcome := .done
                                   lateness := fireTime.map fun _ => 0 } })
          ∧ ((s.station i).isHot p = false →
            ∀ w : Switch, w = { patch := p, cue := cue, fireTime := fireTime, kind := .warm, stage := .coldHeld
                                rebuild := mark } →
            (∀ k, (s.station i).findSlot (fun sl => sl.holds p && sl.st == .resident) = some k →
              ((s.station i).outSelect.map (·.slot) ≠ some k →
                u.station i = { s.station i with selectPlace := some k, switch := some { w with stage := .selectHeld k } })
              ∧ ((s.station i).outSelect.map (·.slot) = some k →
                u.station i = { s.station i with switch := some { w with stage := .selecting k } }))
            ∧ (∀ k, (s.station i).findSlot (fun sl => sl.holds p && sl.st == .resident) = none →
              (s.station i).findSlot (fun sl => sl.holds p) = some k →
              u.station i = { s.station i with switch := some { w with kind := .wait, stage := .loading k } })
            ∧ ((∀ sl ∈ (s.station i).slots, sl.holds p = false) →
              u.station i = { s.station i with
                loadPlace := some p, preload := false, switch := some { w with kind := .cold } }))))
    ∧ (∀ w, (s.station i).serves = true → (s.station i).switch = some w →
      ∀ ended : Station, ended = { s.station i with
        lastSwitch := some { cue := w.cue, patch := some w.patch, kind := w.kind, outcome := .superseded, lateness := none } } →
      (∃ u : State, u = startSwitch i cue (some w.patch) fireTime mark s ∧ OnlyStation i s u
        ∧ u.station i = { ended with switch := some { w with cue := cue, fireTime := fireTime, rebuild := mark } })
      ∧ ∀ target, target ≠ some w.patch →
        ∃ v : State, OnlyStation i s v
          ∧ v.station i = { ended with switch := none, selectPlace := none, loadPlace := none }
          ∧ startSwitch i cue target fireTime mark s = startSwitch i cue target fireTime mark v)
    ∧ (∀ r leaves target, (s.station i).serves = true → (s.station i).switch = none → mark = true →
      s.stop.st.rebuilds = true → s.stop.resume = some r → s.RebuildSound → s.CopiesAgree →
      leaves = decide (s.stop.st = .rebuilding) →
      ∃ u v : State, u = startSwitch i cue target fireTime mark s ∧ v = startSwitch i cue target fireTime mark (withStop .run s)
        ∧ AlikeBesideRebuild u v
        ∧ (target = none → AccountTaken r (accountReported i true s) leaves s u)
        ∧ ∀ p, target = some p →
          (findMap s.map (i.val + 1) p = none → AccountTaken r (accountReported i false s) leaves s u)
          ∧ ((findMap s.map (i.val + 1) p).isSome = true →
            ((s.station i).isHot p = true → AccountTaken r (accountReported i true s) leaves s u)
            ∧ ((s.station i).isHot p = false → AccountKept s u)))

/-- Every station request for a number outside 1–6 is refused with RANGE before any other test (06 section 6.7). STATION PIN,
UNPIN and FLUSH (R122, R131, R132): at most two host pins, each accepted or refused as the rules give, with
a preload recompute, which clears the failed preloads, where the station is ONLINE and not excluded; a flush empties every
RESIDENT slot that is neither CURRENT nor the target of a SELECT and marks the LOADING one, and is answered with the number emptied and whether one was marked. STATION SET, with its part in a rebuild in RebuildAndReadiness (R112,
R129, R134): RANGE on either field writes nothing; the late override is written; an exclusion clears SILENCE and the two
places and ends a switch DROPPED, with its word to the Stop Controller; the value already held changes nothing; an inclusion
gives its word and, in GREETING, makes QUERY due, in OFFLINE waits, and ONLINE resyncs: a switch to the tracked patch at the
current cue starts without a fire time, and a preload recompute follows. Details that are the model's choices: log 10 and log 11. -/
def Obligations.StationSettings : Prop :=
  (∀ (s : State) (t n : Nat), s.Serving → ¬(1 ≤ n ∧ n ≤ 6) → ∀ c : Instr,
      ((∃ x, c = .stationSet t n x) ∨ c = .stationGet t n ∨ (∃ p, c = .stationPin t n p ∨ c = .stationUnpin t n p)
        ∨ c = .stationFlush t n ∨ c = .stationReset t n ∨ c = .faultGet t n ∨ c = .faultClear t n) →
      exec c s = .next ((s.goTo t).replied .range []))
    ∧ (∀ (s : State) (t n p : Nat) (i : Fin 6), s.Serving → s.stations.length = 6 → n = i.val + 1 →
      (patchOk p = false → exec (.stationPin t n p) s = .next ((s.goTo t).replied .range [])
        ∧ exec (.stationUnpin t n p) s = .next ((s.goTo t).replied .range []))
      ∧ (patchOk p = true → p ∈ (s.station i).hostPins →
        exec (.stationPin t n p) s = .next ((s.goTo t).replied .ok [])
        ∧ ∃ u : State, exec (.stationUnpin t n p) s = .next (u.replied .ok [])
          ∧ RecomputedFrom i { s.station i with hostPins := (s.station i).hostPins.filter (fun q => q != p) } (s.goTo t) u)
      ∧ (patchOk p = true → p ∉ (s.station i).hostPins →
        exec (.stationUnpin t n p) s = .next ((s.goTo t).replied .notFound [])
        ∧ (2 ≤ (s.station i).hostPins.length →
          exec (.stationPin t n p) s = .next ((s.goTo t).replied .tableFull []))
        ∧ ((s.station i).hostPins.length < 2 →
          ∃ u : State, exec (.stationPin t n p) s = .next (u.replied .ok [])
            ∧ RecomputedFrom i { s.station i with hostPins := (s.station i).hostPins ++ [p] } (s.goTo t) u))
      ∧ (∃ u : State, ∃ freed marked, exec (.stationFlush t n) s = .next (u.replied .ok [.num 1 freed, .flag marked])
        ∧ OnlyStation i (s.goTo t) u
        ∧ freed = ((List.range (s.station i).slots.length).filter fun j => decide (((s.station i).slot (j + 1)).st = .resident
            ∧ (s.station i).isCurrent (j + 1) = false ∧ (s.station i).isSelectTarget (j + 1) = false)).length
        ∧ (marked = true ↔ ∃ sl ∈ (s.station i).slots, sl.st = .loading)
        ∧ u.station i = { s.station i with slots := (u.station i).slots }
        ∧ (u.station i).slots.length = (s.station i).slots.length
        ∧ ∀ k, 1 ≤ k → k ≤ (s.station i).slots.length →
          (u.station i).slot k =
            if ((s.station i).slot k).st = .resident ∧ (s.station i).isCurrent k = false
                ∧ (s.station i).isSelectTarget k = false then Slot.blank
            else if ((s.station i).slot k).st = .loading then { (s.station i).slot k with flush := true }
            else (s.station i).slot k))
    ∧ (∀ (s : State) (t n : Nat) (i : Fin 6), s.Serving → s.stations.length = 6 → s.stop.words.length = 6 → n = i.val + 1 →
      (∀ x o, 1 < x → exec (.stationSet t n { excluded := some x, lateOverride := o }) s
        = .next ((s.goTo t).replied .range []))
      ∧ (∀ x e, ¬(10 ≤ x ∧ x ≤ 1000) → exec (.stationSet t n { excluded := e, lateOverride := some (some x) }) s
        = .next ((s.goTo t).replied .range []))
      ∧ (∀ o : Option (Option Nat), (∀ x, o = some (some x) → 10 ≤ x ∧ x ≤ 1000) →
        ∃ u : State, exec (.stationSet t n { excluded := none, lateOverride := o }) s
            = .next (u.replied .ok [.flag (s.station i).excluded, .opt 2 (u.station i).lateOverride])
          ∧ OnlyStation i (s.goTo t) u
          ∧ u.station i = { s.station i with lateOverride := written o (s.station i).lateOverride })
      ∧ ((s.station i).excluded = false → s.stop.st.rebuilds = false →
        ∃ u : State, exec (.stationSet t n { excluded := some 1, lateOverride := none }) s
            = .next (u.replied .ok [.flag true, .opt 2 (s.station i).lateOverride])
          ∧ u.station i = { s.station i with
              excluded := true, silence := false, selectPlace := none, loadPlace := none, preload := false
              queryDue := false, queryAt := none, switch := none
              lastSwitch := match (s.station i).switch with
                | some w => some { cue := w.cue, patch := some w.patch, kind := w.kind, outcome := .dropped
                                   lateness := none }
                | none => (s.station i).lastSwitch }
          ∧ u.words i = { s.words i with excluded := true }
          ∧ OnlyStation i (s.goTo t) { u with stop := s.stop })
      ∧ (∀ x : Bool, (s.station i).excluded = x →
        exec (.stationSet t n { excluded := some x.toNat, lateOverride := none }) s
          = .next ((s.goTo t).replied .ok [.flag x, .opt 2 (s.station i).lateOverride]))
      ∧ ((s.station i).excluded = true → s.stop.st.rebuilds = false →
        ∃ u : State, exec (.stationSet t n { excluded := some 0, lateOverride := none }) s
            = .next (u.replied .ok [.flag false, .opt 2 (s.station i).lateOverride])
          ∧ u.words i = { s.words i with excluded := false } ∧ (u.station i).excluded = false
          ∧ OnlyStationAndFault i (s.goTo t) { u with stop := s.stop }
          ∧ ((s.station i).link = .greeting →
            u.station i = { s.station i with excluded := false, queryDue := true, queryAt := none })
          ∧ ((s.station i).link = .offline → u.station i = { s.station i with excluded := false })
          ∧ ((s.station i).link = .online →
            ∃ w : State, OnlyStation i (s.goTo t) { w with stop := s.stop } ∧ w.stop = u.stop
              ∧ w.station i = { s.station i with excluded := false }
              ∧ u = recompute false i (startSwitch i s.seq.current
                  (s.seq.current.bind fun c => (trackedPatch s.store.cues c i).map (·.1)) none false w))
          ∧ ((s.station i).link = .online → (s.station i).switch = none →
            (u.station i).slots = (s.station i).slots ∧ (u.station i).selected = (s.station i).selected
            ∧ (u.station i).outLoad = (s.station i).outLoad ∧ (u.station i).outSelect = (s.station i).outSelect
            ∧ ∀ target : Option Nat, target = s.seq.current.bind (fun c => (trackedPatch s.store.cues c i).map (·.1)) →
              (target = none → (u.station i).switch = none ∧ (u.station i).lastSwitch
                = some { cue := s.seq.current, patch := none, kind := .none, outcome := .done, lateness := none })
              ∧ ∀ p, target = some p →
                (findMap s.map n p = none → (u.station i).switch = none ∧ (u.station i).lastSwitch
                    = some { cue := s.seq.current, patch := some p, kind := .unmapped, outcome := .missed, lateness := none }
                  ∧ (u.station i).faults.first = faultAfter i .unmapped s.seq.current (some p) s (max s.now t))
                ∧ ((findMap s.map n p).isSome = true → (s.station i).isHot p = true →
                  (u.station i).switch = none ∧ (u.station i).lastSwitch
                    = some { cue := s.seq.current, patch := some p, kind := .hot, outcome := .done, lateness := none })
                ∧ ((findMap s.map n p).isSome = true → (∀ sl ∈ (s.station i).slots, sl.holds p = false) →
                  (s.station i).isHot p = false →
                  (u.station i).loadPlace = some p ∧ (u.station i).switch
                    = some { patch := p, cue := s.seq.current, fireTime := none, kind := .cold, stage := .coldHeld
                             rebuild := false }))))

/-- A preload recompute of the Station Controller (R120 to R122): a station that is not ONLINE or is excluded takes no part;
the failed preloads are kept or cleared first; the first candidate left, of the standby target, the look-ahead targets and
the host pins, is the preload. With none left the pressure episode closes; the preload waits while a LOAD is outstanding or a
cold load held; it is marked to be sent where a victim qualifies; where none does it is deferred, which opens a closed
pressure episode and raises PRESSURE. The victim of a LOAD is the lowest EMPTY slot, the pointer staying, or the first slot
from the pointer upward, wrapping, that carries no pin that protects it, the pointer moving behind it; there is none where no
slot is EMPTY and none may be taken. The mark that a chosen preload waits in is the model's choice: log 22. -/
def Obligations.PreloadRecompute : Prop :=
  (∀ (s : State) (i : Fin 6), s.stations.length = 6 →
      ((s.station i).serves = false → ∀ keep, recompute keep i s = s)
      ∧ ((s.station i).serves = true → PreloadChosen i s (recompute true i s))
      ∧ RecomputedFrom i (s.station i) s (recompute false i s)
      ∧ (∀ cue p, Deferred i cue p s (deferPreload i (cue, p) s))
      ∧ ((s.station i).serves = true ↔ (s.station i).link = .online ∧ (s.station i).excluded = false))
    ∧ (∀ (map : List MapEntry) (i : Fin 6) (st : Station),
      (∀ cue p, preloadOf map i st = some (cue, p) → PreloadIs map i st cue p)
      ∧ (preloadOf map i st = none → AllSkipped map i st (preloadOrder st)))
    ∧ (∀ (preload : Bool) (st : Station),
      (∀ k v, st.chooseVictim preload = some (k, v) ↔ VictimIs preload st k v)
      ∧ (st.chooseVictim preload = none →
        ∀ k, 1 ≤ k → k ≤ st.slots.length → (st.slot k).st ≠ .empty ∧ ¬MayGo preload st k))

/-- FAULT GET returns the fault record and clears nothing; FAULT CLEAR clears the record and answers it as it stood,
and does not touch STATION_FAULT (R137). -/
def Obligations.FaultGetAndClear : Prop :=
  ∀ (s : State) (t n : Nat) (i : Fin 6), s.Serving → s.stations.length = 6 → n = i.val + 1 →
    exec (.faultGet t n) s = .next ((s.goTo t).replied .ok (faultItems (s.station i).faults))
    ∧ ∃ u : State, exec (.faultClear t n) s = .next (u.replied .ok (faultItems (s.station i).faults))
      ∧ OnlyStation i (s.goTo t) u
      ∧ u.station i = { s.station i with faults := { first := none, count := 0 } }

/-! ## Attention -/

/-- ATTENTION QUERY (R192), also during the power-on load: by number it reports that condition and clears it, keeping
the record; with an empty payload it chooses the enabled pending condition of the lowest number; with none waiting it
reports condition 0 and clears nothing; a number outside 1–9 is refused with RANGE. The layout of the record in the reply is
the model's choice: log 10. -/
def Obligations.AttentionQueryClears : Prop :=
  ∀ (s : State) (t : Nat), s.powered = true → s.attention.length = 9 →
    (∀ (k : Nat) (c : Condition), 1 ≤ k → k ≤ 9 → s.attention[k - 1]? = some c →
      ∃ u : State, exec (.attentionQuery t (some k)) s
          = .next (u.replied .ok ([.num 1 k, .flag c.isPending, .num 1 c.count] ++ keptRecord c.record))
        ∧ u.attention[k - 1]? = some { c with isPending := false, count := 0 }
        ∧ (∀ j, j ≠ k - 1 → u.attention[j]? = s.attention[j]?)
        ∧ { u with attention := s.attention } = s.goTo t
        ∧ (c.isPending = true → c.enabled = true →
          (∀ j d, j < k - 1 → s.attention[j]? = some d → (d.isPending && d.enabled) = false) →
          exec (.attentionQuery t none) s = exec (.attentionQuery t (some k)) s))
    ∧ ((∀ c ∈ s.attention, (c.isPending && c.enabled) = false) →
      exec (.attentionQuery t none) s
        = .next ((s.goTo t).replied .ok [.num 1 0, .flag false, .num 1 0, .opt 5 none]))
    ∧ (∀ k, ¬(1 ≤ k ∧ k ≤ 9) →
      exec (.attentionQuery t (some k)) s = .next ((s.goTo t).replied .range []))

/-- ATTENTION ENABLE (R194): the nine enable flags are replaced whole by the nine low bits, pending flags, records and
counts untouched, with the mask in force in the reply, also during a store; a mask with a bit above the ninth is refused
with RANGE and writes nothing; during the power-on load the request is answered BUSY. -/
def Obligations.AttentionEnableReplacesTheMask : Prop :=
  ∀ (s : State) (t mask : Nat), s.powered = true → s.attention.length = 9 →
    (s.loading = true → exec (.attentionEnable t mask) s = .next ((s.goTo t).replied .busy []))
    ∧ (s.loading = false → 512 ≤ mask → exec (.attentionEnable t mask) s = .next ((s.goTo t).replied .range []))
    ∧ (s.loading = false → mask < 512 →
      ∃ u : State, exec (.attentionEnable t mask) s = .next (u.replied .ok [Item.num 2 mask])
        ∧ (∀ (k : Nat) (c : Condition), s.attention[k]? = some c → u.attention[k]? = some { c with enabled := mask.testBit k })
        ∧ u.attention.length = 9 ∧ { u with attention := s.attention } = s.goTo t)

/-- The ATTN line is asserted exactly when at least one enabled condition is pending, which is when the attention
summary of a reply formed then is above 0; the summary names the first of them, so that a disabled condition does not
appear in it; and the line is deasserted after the internal reset (R182, R191). -/
def Obligations.AttnFollowsTheConditions : Prop :=
  (∀ s : State,
    (attnLine s = true ↔ ∃ c ∈ s.attention, c.isPending = true ∧ c.enabled = true)
    ∧ (attnLine s = true ↔ attentionSummary s ≠ 0)
    ∧ (∀ k, attentionSummary s = k + 1 →
      (∃ c, s.attention[k]? = some c ∧ c.isPending = true ∧ c.enabled = true)
        ∧ ∀ j c, j < k → s.attention[j]? = some c → (c.isPending && c.enabled) = false))
    ∧ attnLine State.reset = false

/-! ## The Show Link -/

/-- A whole intact frame joins a queue of fewer than four, and is counted as an overflow otherwise; during a break
none is received (R178, R179, R180). The other errors of the line: the gap of a frame in reception, a break, which
empties framer and queue and counts once, and the return to mark. The framer on one received byte (R175, R176, R178):
in HUNT a byte other than 0x7E is passed over and 0x7E starts a frame; a length above 240 is a length discard, whose
bytes are examined again; a CRC that differs from the one received is a CRC discard, counted, whose bytes are examined again
from the first length byte, so that a start byte among them begins a new frame with the bytes after it; during a break no
byte is received. Details that are the model's choices: log 2, log 13 and log 38.
-/
def Obligations.LinkEvents : Prop :=
  (∀ (s : State) (t : Nat) (tag kind : Byte) (payload : List Byte), s.powered = true →
      (s.link.inBreak = true → exec (.requestFrameReceived t tag kind payload) s = .next (s.goTo t))
      ∧ (s.link.inBreak = false → payload.length ≤ 240 →
        (s.link.queue.length < 4 →
          exec (.requestFrameReceived t tag kind payload) s
            = .next { s.goTo t with link := { s.link with
                got := none, lastByte := max s.now t
                queue := s.link.queue ++ [{ tag := tag, kind := kind, payload := payload }] } })
        ∧ (4 ≤ s.link.queue.length →
          exec (.requestFrameReceived t tag kind payload) s
            = .next (raise (.linkError .overflow) { s.goTo t with link := { s.link with
                got := none, lastByte := max s.now t, overflows := min 65535 (s.link.overflows + 1) } })))
      ∧ (∀ g, s.link.got = some g →
        exec .gapTimeout s
          = .next (raise (.linkError .gap) { s.goTo (s.link.lastByte + bitTimes 52 s.link.rate.baud) with
              link := { s.link with got := none, gaps := min 65535 (s.link.gaps + 1) } }))
      ∧ (s.link.inBreak = false →
        exec (.breakDeclared t) s
          = .next (raise (.linkError .break_) { s.goTo t with link := { s.link with
              got := none, queue := [], inBreak := true, breaks := min 65535 (s.link.breaks + 1) } }))
      ∧ (s.link.inBreak = true → exec (.breakDeclared t) s = .next (s.goTo t))
      ∧ exec (.lineReturnedToMark t) s = .next { s.goTo t with link := { s.link with inBreak := false } })
    ∧ (∀ (s : State) (t : Nat) (b : Byte), s.powered = true →
      (s.link.inBreak = true → exec (.receivedByte t b) s = .next (s.goTo t))
      ∧ (s.link.inBreak = false → s.link.got = none →
        exec (.receivedByte t b) s = .next { s.goTo t with link := { s.link with
          got := if b = 0x7E then some [] else none, lastByte := max s.now t } })
      ∧ (∀ h : Byte, s.link.inBreak = false → s.link.got = some [h] → 240 < h.toNat * 256 + b.toNat → h ≠ 0x7E →
        exec (.receivedByte t b) s
          = .next (raise (.linkError .length) { s.goTo t with link := { s.link with
              got := if b = 0x7E then some [] else none, lastByte := max s.now t
              lengths := min 65535 (s.link.lengths + 1) } }))
      ∧ (∀ (g : List Byte) (len : Nat), s.link.inBreak = false → s.link.got = some g → len = bytesNat (g.take 2) → len ≤ 240 →
        g.length = len + 5 → (crc (g.take (len + 4))).toNat ≠ bytesNat (g.drop (len + 4) ++ [b]) →
        ∀ (pre new : List Byte), (∀ x ∈ pre, x ≠ 0x7E) →
        (g ++ [b] = pre ∨ g ++ [b] = pre ++ 0x7E :: new ∧ new.length < 6 ∧ (2 ≤ new.length → bytesNat (new.take 2) ≤ 240)) →
        exec (.receivedByte t b) s
          = .next (raise (.linkError .crc) { s.goTo t with link := { s.link with
              got := if g ++ [b] = pre then none else some new, lastByte := max s.now t
              crcs := min 65535 (s.link.crcs + 1) } })))

/-- Every frame of at most 240 payload bytes that arrives byte by byte on a quiet link is taken whole: the framer is
back in HUNT, and the frame stands last in the queue, no error counted (R175, R179). The frames of the Station Links (R188):
each that the part sends is 0xA5, its type, its body and a check byte that makes the sum of the last three a multiple of
256; each that the rig sends is taken whole by the part's receiver. A type the rig does not send, a wrong sum and a gap each
fail a frame, and the bytes after its start byte are examined again; a frame that begins among the bytes before a gap fails
with it; a byte that is no start byte is passed over. The lines bit by bit (R174, R178, R188): a byte goes out as a start bit at
space, its data bits from the least significant on and a stop bit at mark, back to back with the next, each bit for one bit
time of the line's rate, and LTXD and the line to a station rest at mark between replies and frames. On LRXD bytes with any idle
between them are received as they went out; a stop bit at space changes nothing; the line at space for 20 bit times or more
is a break, whose first start bit begins no byte. On SRXn each byte comes at the end of its stop bit, whatever idle was before
it, and 52 bit times after a byte without the end of another bring the gap; each as a row of its own, so that a frame the rig
sends on the line bit by bit is taken whole. Details that are the model's choices: log 13, log 32 and log 38. -/
def Obligations.EveryFrameIsReceived : Prop :=
  (∀ (s : State) (t : Nat) (tag kind : Byte) (payload : List Byte), s.powered = true → s.link.inBreak = false →
    s.link.got = none → s.link.queue.length < 4 → payload.length ≤ 240 →
    Host.Core.run Sys2Proof.core (frameBytes tag kind payload).length
        { s with pending := (frameBytes tag kind payload).map (Instr.receivedByte t) }
      = .next { s.goTo t with
          pending := []
          link := { s.link with
            lastByte := max s.now t
            queue := s.link.queue ++ [{ tag := tag, kind := kind, payload := payload }] } })
    ∧ (∀ f : TxFrame, ∃ check : Byte, byteSum (f.bytes.tail) = 0 ∧ f.bytes = (match f with
      | .load slot bank program => [0xA5, 0x01, BitVec.ofNat 8 slot, BitVec.ofNat 8 (bank / 256), BitVec.ofNat 8 bank,
          BitVec.ofNat 8 program, check]
      | .select slot => [0xA5, 0x02, BitVec.ofNat 8 slot, check]
      | .silence => [0xA5, 0x03, check]
      | .query => [0xA5, 0x04, check]))
    ∧ (∀ (type body check : Byte), byteSum [type, body, check] = 0 →
      (type = 0x81 → rigFeed none [0xA5, type, body, check] = (none, [.complete (.hello body.toNat)]))
      ∧ (type = 0x82 → rigFeed none [0xA5, type, body, check] = (none, [.complete (.loaded body.toNat)]))
      ∧ (type = 0x83 → rigFeed none [0xA5, type, body, check] = (none, [.complete (.loadFailed body.toNat)]))
      ∧ (type = 0x84 → rigFeed none [0xA5, type, body, check] = (none, [.complete (.selected body.toNat)])))
    ∧ (∀ (type body check b : Byte), (b ≠ 0xA5 → rigFeed none [b] = (none, []))
      ∧ ((∀ k ∈ [0x81, 0x82, 0x83, 0x84], type ≠ k) →
        rigFeed (some []) [type] = (if type = 0xA5 then some [] else none, [.failed]))
      ∧ (type ∈ [(0x81 : Byte), 0x82, 0x83, 0x84] → byteSum [type, body, check] ≠ 0 → body ≠ 0xA5 →
        rigFeed (some [type, body]) [check] = (if check = 0xA5 then some [] else none, [.failed]))
      ∧ (type ∈ [(0x81 : Byte), 0x82, 0x83, 0x84] →
        rigGap (some []) = [.failed] ∧ rigGap (some [type]) = [.failed]
        ∧ rigGap (some [type, body]) = (if body = 0xA5 then [.failed, .failed] else [.failed]))
      ∧ rigGap none = [])
    ∧ ((∀ b : Byte, byteBits b = [false, b.getLsbD 0, b.getLsbD 1, b.getLsbD 2, b.getLsbD 3, b.getLsbD 4, b.getLsbD 5,
          b.getLsbD 6, b.getLsbD 7, true])
      ∧ (∀ (bytes : List Byte) (j k : Nat) (b : Byte), bytes[j]? = some b → k < 10 →
        (lineBits bytes)[10 * j + k]? = (byteBits b)[k]?)
      ∧ ∀ (s : State) (st : Station) (t : Nat), (s.link.sending = none → ltxd s t = true)
        ∧ (st.sending = none → st.txLevel t = true)
        ∧ ∀ (bytes : List Byte) (f : TxFrame) (start k : Nat), start ≤ t →
          (s.link.sending = some (bytes, start) → k * 1000000 ≤ (t - start) * s.link.rate.baud →
            (t - start) * s.link.rate.baud < (k + 1) * 1000000 →
            (k < 10 * bytes.length → some (ltxd s t) = (lineBits bytes)[k]?)
            ∧ (10 * bytes.length ≤ k → ltxd s t = true))
          ∧ (st.sending = some (f, start) → k * 1000000 ≤ (t - start) * 230400 → (t - start) * 230400 < (k + 1) * 1000000 →
            (k < 10 * f.bytes.length → some (st.txLevel t) = (lineBits f.bytes)[k]?)
            ∧ (10 * f.bytes.length ≤ k → st.txLevel t = true)))
    ∧ (∀ items : List (Nat × Byte),
        readLevels .atMark (items.flatMap fun x => List.replicate x.1 true ++ byteBits x.2)
          = (.atMark, items.map fun x => .byte x.2))
    ∧ (∀ b : Byte, readLevels .atMark ((byteBits b).take 9 ++ [false, true]) = (.atMark, [.byte b]))
    ∧ (∀ n, (10 ≤ n → n < 20 → readLevels .atMark (List.replicate n false ++ [true]) = (.atMark, [.byte 0]))
      ∧ (20 ≤ n → readLevels .atMark (List.replicate n false ++ [true]) = (.atMark, [.break_, .toMark])))
    ∧ (∀ (k n : Nat) (b : Byte) (levels : List Bool), ∀ later : SrxRx × List (Nat × SrxEvent),
      later = readSrx (k + n + 10) .afterByte levels →
      readSrx k .idle (List.replicate n true ++ byteBits b ++ levels) = (later.1, (k + n + 10, .byte b) :: later.2)
      ∧ readSrx k .afterByte (List.replicate n true ++ byteBits b ++ levels)
        = (later.1, (if 43 ≤ n then [(k + 52, .silence)] else []) ++ (k + n + 10, .byte b) :: later.2)
      ∧ (readSrx k .afterByte ((byteBits b).take 9 ++ [false, true])).2 = [(k + 10, .byte b)])
    ∧ ∀ (s : State) (i : Fin 6) (start n : Nat) (f : RigFrame), s.stations.length = 6 → (s.station i).receiver = none →
      n < 256 → f ∈ [.hello n, .loaded n, .loadFailed n, .selected n] →
      Host.Core.run Sys2Proof.core 4 { s with pending := srxCommands i start (lineBits f.bytes) }
        = exec (f.command (start + 174) i) { s with pending := [] }

/-- The cue record that CUE GET sends reads back, as CUE PUT carries it, as the same cue, for every cue within the
ranges of R72 whose actions stand in order (R68, R78, R187). A number in the fewest bytes that hold it, most
significant byte first, reads back as itself, and an absent one as absent (R187). -/
def Obligations.CueRecordReadsBack : Prop :=
  (∀ (c : Cue) (rest : List Byte), cueOk c = true → c.patches.Pairwise (fun a b => a.station < b.station) →
      c.clicks.Pairwise (fun a b => a.channel < b.channel) →
      ∃ raw, readCueRecord ((cueItems c).flatMap Item.bytes ++ rest) = some (raw, rest) ∧ readCue raw = some c)
    ∧ ((∀ w n, n < 256 ^ w → ∀ rest, readNum w (natBytes w n ++ rest) = some (n, rest))
      ∧ (∀ w (v : Option Nat) rest, (∀ n, v = some n → n + 1 < 256 ^ w) → 1 ≤ w →
        readOpt w ((Item.opt w v).bytes ++ rest) = some (v, rest)))

/-- A request is taken from the queue only when no formed reply waits (R179, R181, R182): a kind that no request has
is answered BAD_KIND, a payload that does not fit BAD_LENGTH, and a fitting one as the same request is answered
directly; the reply, with the request's tag and its kind plus 0x80, is sent at once where the transmitter is free and
waits otherwise. A reply that has been sent frees the transmitter, and one that waits begins to be sent (R174, R179).
Details that are the model's choices: log 2, log 8 and log 13. -/
def Obligations.RequestsAndReplies : Prop :=
  (∀ (s : State) (t : Nat), s.powered = true →
      ((s.link.waiting.isSome = true ∨ s.link.queue = []) → exec (.requestTaken t) s = .next (s.goTo t))
      ∧ (∀ f fs, s.link.waiting = none → s.link.queue = f :: fs →
        (∀ why, readRequest (max s.now t) f = .error why →
          exec (.requestTaken t) s
            = .next (giveReply (replyBytes f { status := why, summary := attentionSummary s, body := [] })
                ({ s.goTo t with link := { s.link with queue := fs } }.replied why [])))
        ∧ (∀ c, readRequest (max s.now t) f = .ok c → (requestOf c).isSome = true →
          ∃ u : State, ∃ r : Reply,
            exec c { s with now := max s.now t, link := { s.link with queue := fs } } = .next u
            ∧ u.link.lastReply = some r
            ∧ exec (.requestTaken t) s = .next (giveReply (replyBytes f r) u))))
    ∧ (∀ (s : State) (bytes : List Byte) (began : Nat), s.powered = true → s.link.sending = some (bytes, began) →
      ∃ u : State, exec .replySent s = .next u
        ∧ u.now = max s.now (began + bitTimes (10 * bytes.length) s.link.rate.baud)
        ∧ u.link = { s.link with sending := s.link.waiting.map (fun b => (b, u.now)), waiting := none }
        ∧ { u with now := s.now, link := s.link } = s)

/-- RESTART SHOW (R2, R29, R64, R90, R130, R152, R173, R185, R190): the clock is IDLE with spacing reference and C
kept, the follower FREE with its settings kept, every channel off with its bursts standing, the Sequencer empty, the
stop state RUN, every condition cleared without a record and its enable flag kept; list, map, protection, settings,
flash and desk stay. Details that are the model's choices: log 20. -/
def Obligations.RestartShowClearsTheShow : Prop :=
  ∀ (s : State) (t : Nat), s.Serving → s.stations.length = 6 →
    ∃ u : State, exec (.restartShow t) s = .next (u.replied .ok [])
      ∧ u.clock = { BeatClock.initial with spacing := s.clock.spacing, lead := s.clock.lead }
      ∧ u.follower = { Follower.initial with settings := s.follower.settings }
      ∧ u.channels = s.channels.map (fun c =>
          { c with trackedOn := false, trackedSub := 1, override := .none, lateCount := 0 })
      ∧ (u.seq.current = none ∧ u.seq.pointer = none ∧ u.seq.latch = none ∧ u.seq.timer = .idle
        ∧ u.seq.lastFire = none ∧ u.seq.settings = s.seq.settings ∧ u.seq.ahead = lookAhead u)
      ∧ (∀ i, TargetsHeld i u)
      ∧ u.stop = { StopController.initial with words := s.stop.words }
      ∧ (u.video.content = Content.initial ∧ u.video.lastError = 0 ∧ u.video.lateCount = 0
        ∧ u.video.waiting = s.video.waiting.map (fun p => { p with displays := false })
        ∧ u.video.lit = s.video.lit ∧ u.video.genlock = s.video.genlock ∧ u.video.settings = s.video.settings
        ∧ u.video.mode = s.video.mode)
      ∧ (∀ (k : Nat) (c : Condition), s.attention[k]? = some c →
        u.attention[k]? = some { c with isPending := false, count := 0, record := none })
      ∧ (∀ i, (u.station i).slots = (s.station i).slots ∧ (u.station i).selected = (s.station i).selected
        ∧ (u.station i).outLoad = (s.station i).outLoad ∧ (u.station i).outSelect = (s.station i).outSelect
        ∧ (u.station i).hostPins = (s.station i).hostPins ∧ (u.station i).switch = none
        ∧ (u.station i).selectPlace = none ∧ (u.station i).loadPlace = none
        ∧ (u.station i).silence = ((s.station i).silence || (s.station i).serves))
      ∧ { u with clock := s.clock, follower := s.follower, channels := s.channels, seq := s.seq, stop := s.stop,
                 video := s.video, attention := s.attention, stations := s.stations } = s.goTo t
end

