-- ==== Sys2Proof/Laws/Line.lean ====
section
/-! SUPPORT. What the serial lines bring and carry, once. -/

namespace Sys2Proof.Machine

open Sys2Proof

/-- LRXD read in two stretches: the second goes on where the first has left the receiver. -/
theorem readLevels_append (r : LineRx) (a b : List Bool) :
    readLevels r (a ++ b)
      = ((readLevels (readLevels r a).1 b).1, (readLevels r a).2 ++ (readLevels (readLevels r a).1 b).2) := by
  induction a generalizing r with
  | nil => simp [readLevels]
  | cons x xs ih => simp only [List.cons_append, readLevels, ih, List.append_assoc]

/-- An idle line brings nothing. -/
@[simp] theorem readLevels_idle (n : Nat) : readLevels .atMark (List.replicate n true) = (.atMark, []) := by
  induction n with
  | zero => rfl
  | succ n ih => simp [List.replicate_succ, readLevels, LineRx.take, ih]

/-- SRXn read in two stretches: the second goes on where the first has left the receiver and the count. -/
theorem readSrx_append (k : Nat) (r : SrxRx) (a b : List Bool) :
    readSrx k r (a ++ b)
      = ((readSrx (k + a.length) (readSrx k r a).1 b).1,
        (readSrx k r a).2 ++ (readSrx (k + a.length) (readSrx k r a).1 b).2) := by
  induction a generalizing k r with
  | nil => simp [readSrx]
  | cons x xs ih =>
    simp only [List.cons_append, readSrx, ih, List.append_assoc, List.length_cons]
    rw [show k + 1 + xs.length = k + (xs.length + 1) by omega]

/-- An idle Station Link brings nothing before a byte. -/
@[simp] theorem readSrx_idle (k n : Nat) : readSrx k .idle (List.replicate n true) = (.idle, []) := by
  induction n generalizing k with
  | zero => rfl
  | succ n ih =>
    have h := ih (k + 1)
    simp only [SrxRx.idle] at h ⊢
    simp [List.replicate_succ, readSrx, SrxRx.take, SrxPlace.take, h]

/-- A byte takes ten bit times. -/
@[simp] theorem lineBits_length (bytes : List Byte) : (lineBits bytes).length = 10 * bytes.length := by
  induction bytes with
  | nil => rfl
  | cons b bs ih =>
    simp only [lineBits, byteBits, List.flatMap_cons, List.length_append, List.length_cons, List.length_map,
      List.length_range, List.length_nil] at *
    omega

end Sys2Proof.Machine
end

