-- ==== Sys2Proof/Laws/State.lean ====
section
/-! SUPPORT. The fields of the state after each named update: one lemma for each field of each update. -/

namespace Sys2Proof.Machine

open Sys2Proof

variable (s : State)

@[simp] theorem State.goTo_pending (t : Nat) : (s.goTo t).pending = s.pending := rfl
@[simp] theorem State.goTo_powered (t : Nat) : (s.goTo t).powered = s.powered := rfl
@[simp] theorem State.goTo_loading (t : Nat) : (s.goTo t).loading = s.loading := rfl
@[simp] theorem State.goTo_now (t : Nat) : (s.goTo t).now = max s.now t := rfl
@[simp] theorem State.goTo_flash (t : Nat) : (s.goTo t).flash = s.flash := rfl
@[simp] theorem State.goTo_clock (t : Nat) : (s.goTo t).clock = s.clock := rfl
@[simp] theorem State.goTo_follower (t : Nat) : (s.goTo t).follower = s.follower := rfl
@[simp] theorem State.goTo_channels (t : Nat) : (s.goTo t).channels = s.channels := rfl
@[simp] theorem State.goTo_store (t : Nat) : (s.goTo t).store = s.store := rfl
@[simp] theorem State.goTo_seq (t : Nat) : (s.goTo t).seq = s.seq := rfl
@[simp] theorem State.goTo_desk (t : Nat) : (s.goTo t).desk = s.desk := rfl
@[simp] theorem State.goTo_stations (t : Nat) : (s.goTo t).stations = s.stations := rfl
@[simp] theorem State.goTo_map (t : Nat) : (s.goTo t).map = s.map := rfl
@[simp] theorem State.goTo_video (t : Nat) : (s.goTo t).video = s.video := rfl
@[simp] theorem State.goTo_stop (t : Nat) : (s.goTo t).stop = s.stop := rfl
@[simp] theorem State.goTo_attention (t : Nat) : (s.goTo t).attention = s.attention := rfl
@[simp] theorem State.goTo_link (t : Nat) : (s.goTo t).link = s.link := rfl

@[simp] theorem State.setStation_pending (i : Fin 6) (f : Station → Station) :
    (s.setStation i f).pending = s.pending := rfl
@[simp] theorem State.setStation_powered (i : Fin 6) (f : Station → Station) :
    (s.setStation i f).powered = s.powered := rfl
@[simp] theorem State.setStation_loading (i : Fin 6) (f : Station → Station) :
    (s.setStation i f).loading = s.loading := rfl
@[simp] theorem State.setStation_now (i : Fin 6) (f : Station → Station) : (s.setStation i f).now = s.now := rfl
@[simp] theorem State.setStation_flash (i : Fin 6) (f : Station → Station) : (s.setStation i f).flash = s.flash := rfl
@[simp] theorem State.setStation_clock (i : Fin 6) (f : Station → Station) : (s.setStation i f).clock = s.clock := rfl
@[simp] theorem State.setStation_follower (i : Fin 6) (f : Station → Station) :
    (s.setStation i f).follower = s.follower := rfl
@[simp] theorem State.setStation_channels (i : Fin 6) (f : Station → Station) :
    (s.setStation i f).channels = s.channels := rfl
@[simp] theorem State.setStation_store (i : Fin 6) (f : Station → Station) : (s.setStation i f).store = s.store := rfl
@[simp] theorem State.setStation_seq (i : Fin 6) (f : Station → Station) : (s.setStation i f).seq = s.seq := rfl
@[simp] theorem State.setStation_desk (i : Fin 6) (f : Station → Station) : (s.setStation i f).desk = s.desk := rfl
@[simp] theorem State.setStation_stations (i : Fin 6) (f : Station → Station) :
    (s.setStation i f).stations = s.stations.modify i f := rfl
@[simp] theorem State.setStation_map (i : Fin 6) (f : Station → Station) : (s.setStation i f).map = s.map := rfl
@[simp] theorem State.setStation_video (i : Fin 6) (f : Station → Station) : (s.setStation i f).video = s.video := rfl
@[simp] theorem State.setStation_stop (i : Fin 6) (f : Station → Station) : (s.setStation i f).stop = s.stop := rfl
@[simp] theorem State.setStation_attention (i : Fin 6) (f : Station → Station) :
    (s.setStation i f).attention = s.attention := rfl
@[simp] theorem State.setStation_link (i : Fin 6) (f : Station → Station) : (s.setStation i f).link = s.link := rfl

@[simp] theorem State.setChannel_pending (i : Fin 16) (f : Channel → Channel) :
    (s.setChannel i f).pending = s.pending := rfl
@[simp] theorem State.setChannel_powered (i : Fin 16) (f : Channel → Channel) :
    (s.setChannel i f).powered = s.powered := rfl
@[simp] theorem State.setChannel_loading (i : Fin 16) (f : Channel → Channel) :
    (s.setChannel i f).loading = s.loading := rfl
@[simp] theorem State.setChannel_now (i : Fin 16) (f : Channel → Channel) : (s.setChannel i f).now = s.now := rfl
@[simp] theorem State.setChannel_flash (i : Fin 16) (f : Channel → Channel) :
    (s.setChannel i f).flash = s.flash := rfl
@[simp] theorem State.setChannel_clock (i : Fin 16) (f : Channel → Channel) :
    (s.setChannel i f).clock = s.clock := rfl
@[simp] theorem State.setChannel_follower (i : Fin 16) (f : Channel → Channel) :
    (s.setChannel i f).follower = s.follower := rfl
@[simp] theorem State.setChannel_channels (i : Fin 16) (f : Channel → Channel) :
    (s.setChannel i f).channels = s.channels.modify i f := rfl
@[simp] theorem State.setChannel_store (i : Fin 16) (f : Channel → Channel) :
    (s.setChannel i f).store = s.store := rfl
@[simp] theorem State.setChannel_seq (i : Fin 16) (f : Channel → Channel) : (s.setChannel i f).seq = s.seq := rfl
@[simp] theorem State.setChannel_desk (i : Fin 16) (f : Channel → Channel) : (s.setChannel i f).desk = s.desk := rfl
@[simp] theorem State.setChannel_stations (i : Fin 16) (f : Channel → Channel) :
    (s.setChannel i f).stations = s.stations := rfl
@[simp] theorem State.setChannel_map (i : Fin 16) (f : Channel → Channel) : (s.setChannel i f).map = s.map := rfl
@[simp] theorem State.setChannel_video (i : Fin 16) (f : Channel → Channel) :
    (s.setChannel i f).video = s.video := rfl
@[simp] theorem State.setChannel_stop (i : Fin 16) (f : Channel → Channel) : (s.setChannel i f).stop = s.stop := rfl
@[simp] theorem State.setChannel_attention (i : Fin 16) (f : Channel → Channel) :
    (s.setChannel i f).attention = s.attention := rfl
@[simp] theorem State.setChannel_link (i : Fin 16) (f : Channel → Channel) : (s.setChannel i f).link = s.link := rfl

@[simp] theorem State.setClock_pending (f : BeatClock → BeatClock) : (s.setClock f).pending = s.pending := rfl
@[simp] theorem State.setClock_powered (f : BeatClock → BeatClock) : (s.setClock f).powered = s.powered := rfl
@[simp] theorem State.setClock_loading (f : BeatClock → BeatClock) : (s.setClock f).loading = s.loading := rfl
@[simp] theorem State.setClock_now (f : BeatClock → BeatClock) : (s.setClock f).now = s.now := rfl
@[simp] theorem State.setClock_flash (f : BeatClock → BeatClock) : (s.setClock f).flash = s.flash := rfl
@[simp] theorem State.setClock_clock (f : BeatClock → BeatClock) : (s.setClock f).clock = f s.clock := rfl
@[simp] theorem State.setClock_follower (f : BeatClock → BeatClock) : (s.setClock f).follower = s.follower := rfl
@[simp] theorem State.setClock_channels (f : BeatClock → BeatClock) : (s.setClock f).channels = s.channels := rfl
@[simp] theorem State.setClock_store (f : BeatClock → BeatClock) : (s.setClock f).store = s.store := rfl
@[simp] theorem State.setClock_seq (f : BeatClock → BeatClock) : (s.setClock f).seq = s.seq := rfl
@[simp] theorem State.setClock_desk (f : BeatClock → BeatClock) : (s.setClock f).desk = s.desk := rfl
@[simp] theorem State.setClock_stations (f : BeatClock → BeatClock) : (s.setClock f).stations = s.stations := rfl
@[simp] theorem State.setClock_map (f : BeatClock → BeatClock) : (s.setClock f).map = s.map := rfl
@[simp] theorem State.setClock_video (f : BeatClock → BeatClock) : (s.setClock f).video = s.video := rfl
@[simp] theorem State.setClock_stop (f : BeatClock → BeatClock) : (s.setClock f).stop = s.stop := rfl
@[simp] theorem State.setClock_attention (f : BeatClock → BeatClock) : (s.setClock f).attention = s.attention := rfl
@[simp] theorem State.setClock_link (f : BeatClock → BeatClock) : (s.setClock f).link = s.link := rfl

@[simp] theorem State.setFollower_pending (f : Follower → Follower) : (s.setFollower f).pending = s.pending := rfl
@[simp] theorem State.setFollower_powered (f : Follower → Follower) : (s.setFollower f).powered = s.powered := rfl
@[simp] theorem State.setFollower_loading (f : Follower → Follower) : (s.setFollower f).loading = s.loading := rfl
@[simp] theorem State.setFollower_now (f : Follower → Follower) : (s.setFollower f).now = s.now := rfl
@[simp] theorem State.setFollower_flash (f : Follower → Follower) : (s.setFollower f).flash = s.flash := rfl
@[simp] theorem State.setFollower_clock (f : Follower → Follower) : (s.setFollower f).clock = s.clock := rfl
@[simp] theorem State.setFollower_follower (f : Follower → Follower) :
    (s.setFollower f).follower = f s.follower := rfl
@[simp] theorem State.setFollower_channels (f : Follower → Follower) : (s.setFollower f).channels = s.channels := rfl
@[simp] theorem State.setFollower_store (f : Follower → Follower) : (s.setFollower f).store = s.store := rfl
@[simp] theorem State.setFollower_seq (f : Follower → Follower) : (s.setFollower f).seq = s.seq := rfl
@[simp] theorem State.setFollower_desk (f : Follower → Follower) : (s.setFollower f).desk = s.desk := rfl
@[simp] theorem State.setFollower_stations (f : Follower → Follower) : (s.setFollower f).stations = s.stations := rfl
@[simp] theorem State.setFollower_map (f : Follower → Follower) : (s.setFollower f).map = s.map := rfl
@[simp] theorem State.setFollower_video (f : Follower → Follower) : (s.setFollower f).video = s.video := rfl
@[simp] theorem State.setFollower_stop (f : Follower → Follower) : (s.setFollower f).stop = s.stop := rfl
@[simp] theorem State.setFollower_attention (f : Follower → Follower) :
    (s.setFollower f).attention = s.attention := rfl
@[simp] theorem State.setFollower_link (f : Follower → Follower) : (s.setFollower f).link = s.link := rfl

@[simp] theorem State.setVideo_pending (f : Video → Video) : (s.setVideo f).pending = s.pending := rfl
@[simp] theorem State.setVideo_powered (f : Video → Video) : (s.setVideo f).powered = s.powered := rfl
@[simp] theorem State.setVideo_loading (f : Video → Video) : (s.setVideo f).loading = s.loading := rfl
@[simp] theorem State.setVideo_now (f : Video → Video) : (s.setVideo f).now = s.now := rfl
@[simp] theorem State.setVideo_flash (f : Video → Video) : (s.setVideo f).flash = s.flash := rfl
@[simp] theorem State.setVideo_clock (f : Video → Video) : (s.setVideo f).clock = s.clock := rfl
@[simp] theorem State.setVideo_follower (f : Video → Video) : (s.setVideo f).follower = s.follower := rfl
@[simp] theorem State.setVideo_channels (f : Video → Video) : (s.setVideo f).channels = s.channels := rfl
@[simp] theorem State.setVideo_store (f : Video → Video) : (s.setVideo f).store = s.store := rfl
@[simp] theorem State.setVideo_seq (f : Video → Video) : (s.setVideo f).seq = s.seq := rfl
@[simp] theorem State.setVideo_desk (f : Video → Video) : (s.setVideo f).desk = s.desk := rfl
@[simp] theorem State.setVideo_stations (f : Video → Video) : (s.setVideo f).stations = s.stations := rfl
@[simp] theorem State.setVideo_map (f : Video → Video) : (s.setVideo f).map = s.map := rfl
@[simp] theorem State.setVideo_video (f : Video → Video) : (s.setVideo f).video = f s.video := rfl
@[simp] theorem State.setVideo_stop (f : Video → Video) : (s.setVideo f).stop = s.stop := rfl
@[simp] theorem State.setVideo_attention (f : Video → Video) : (s.setVideo f).attention = s.attention := rfl
@[simp] theorem State.setVideo_link (f : Video → Video) : (s.setVideo f).link = s.link := rfl

@[simp] theorem State.setSeq_pending (f : Sequencer → Sequencer) : (s.setSeq f).pending = s.pending := rfl
@[simp] theorem State.setSeq_powered (f : Sequencer → Sequencer) : (s.setSeq f).powered = s.powered := rfl
@[simp] theorem State.setSeq_loading (f : Sequencer → Sequencer) : (s.setSeq f).loading = s.loading := rfl
@[simp] theorem State.setSeq_now (f : Sequencer → Sequencer) : (s.setSeq f).now = s.now := rfl
@[simp] theorem State.setSeq_flash (f : Sequencer → Sequencer) : (s.setSeq f).flash = s.flash := rfl
@[simp] theorem State.setSeq_clock (f : Sequencer → Sequencer) : (s.setSeq f).clock = s.clock := rfl
@[simp] theorem State.setSeq_follower (f : Sequencer → Sequencer) : (s.setSeq f).follower = s.follower := rfl
@[simp] theorem State.setSeq_channels (f : Sequencer → Sequencer) : (s.setSeq f).channels = s.channels := rfl
@[simp] theorem State.setSeq_store (f : Sequencer → Sequencer) : (s.setSeq f).store = s.store := rfl
@[simp] theorem State.setSeq_seq (f : Sequencer → Sequencer) : (s.setSeq f).seq = f s.seq := rfl
@[simp] theorem State.setSeq_desk (f : Sequencer → Sequencer) : (s.setSeq f).desk = s.desk := rfl
@[simp] theorem State.setSeq_stations (f : Sequencer → Sequencer) : (s.setSeq f).stations = s.stations := rfl
@[simp] theorem State.setSeq_map (f : Sequencer → Sequencer) : (s.setSeq f).map = s.map := rfl
@[simp] theorem State.setSeq_video (f : Sequencer → Sequencer) : (s.setSeq f).video = s.video := rfl
@[simp] theorem State.setSeq_stop (f : Sequencer → Sequencer) : (s.setSeq f).stop = s.stop := rfl
@[simp] theorem State.setSeq_attention (f : Sequencer → Sequencer) : (s.setSeq f).attention = s.attention := rfl
@[simp] theorem State.setSeq_link (f : Sequencer → Sequencer) : (s.setSeq f).link = s.link := rfl

@[simp] theorem State.setStore_pending (f : CueStore → CueStore) : (s.setStore f).pending = s.pending := rfl
@[simp] theorem State.setStore_powered (f : CueStore → CueStore) : (s.setStore f).powered = s.powered := rfl
@[simp] theorem State.setStore_loading (f : CueStore → CueStore) : (s.setStore f).loading = s.loading := rfl
@[simp] theorem State.setStore_now (f : CueStore → CueStore) : (s.setStore f).now = s.now := rfl
@[simp] theorem State.setStore_flash (f : CueStore → CueStore) : (s.setStore f).flash = s.flash := rfl
@[simp] theorem State.setStore_clock (f : CueStore → CueStore) : (s.setStore f).clock = s.clock := rfl
@[simp] theorem State.setStore_follower (f : CueStore → CueStore) : (s.setStore f).follower = s.follower := rfl
@[simp] theorem State.setStore_channels (f : CueStore → CueStore) : (s.setStore f).channels = s.channels := rfl
@[simp] theorem State.setStore_store (f : CueStore → CueStore) : (s.setStore f).store = f s.store := rfl
@[simp] theorem State.setStore_seq (f : CueStore → CueStore) : (s.setStore f).seq = s.seq := rfl
@[simp] theorem State.setStore_desk (f : CueStore → CueStore) : (s.setStore f).desk = s.desk := rfl
@[simp] theorem State.setStore_stations (f : CueStore → CueStore) : (s.setStore f).stations = s.stations := rfl
@[simp] theorem State.setStore_map (f : CueStore → CueStore) : (s.setStore f).map = s.map := rfl
@[simp] theorem State.setStore_video (f : CueStore → CueStore) : (s.setStore f).video = s.video := rfl
@[simp] theorem State.setStore_stop (f : CueStore → CueStore) : (s.setStore f).stop = s.stop := rfl
@[simp] theorem State.setStore_attention (f : CueStore → CueStore) : (s.setStore f).attention = s.attention := rfl
@[simp] theorem State.setStore_link (f : CueStore → CueStore) : (s.setStore f).link = s.link := rfl

@[simp] theorem State.setDesk_pending (f : Desk → Desk) : (s.setDesk f).pending = s.pending := rfl
@[simp] theorem State.setDesk_powered (f : Desk → Desk) : (s.setDesk f).powered = s.powered := rfl
@[simp] theorem State.setDesk_loading (f : Desk → Desk) : (s.setDesk f).loading = s.loading := rfl
@[simp] theorem State.setDesk_now (f : Desk → Desk) : (s.setDesk f).now = s.now := rfl
@[simp] theorem State.setDesk_flash (f : Desk → Desk) : (s.setDesk f).flash = s.flash := rfl
@[simp] theorem State.setDesk_clock (f : Desk → Desk) : (s.setDesk f).clock = s.clock := rfl
@[simp] theorem State.setDesk_follower (f : Desk → Desk) : (s.setDesk f).follower = s.follower := rfl
@[simp] theorem State.setDesk_channels (f : Desk → Desk) : (s.setDesk f).channels = s.channels := rfl
@[simp] theorem State.setDesk_store (f : Desk → Desk) : (s.setDesk f).store = s.store := rfl
@[simp] theorem State.setDesk_seq (f : Desk → Desk) : (s.setDesk f).seq = s.seq := rfl
@[simp] theorem State.setDesk_desk (f : Desk → Desk) : (s.setDesk f).desk = f s.desk := rfl
@[simp] theorem State.setDesk_stations (f : Desk → Desk) : (s.setDesk f).stations = s.stations := rfl
@[simp] theorem State.setDesk_map (f : Desk → Desk) : (s.setDesk f).map = s.map := rfl
@[simp] theorem State.setDesk_video (f : Desk → Desk) : (s.setDesk f).video = s.video := rfl
@[simp] theorem State.setDesk_stop (f : Desk → Desk) : (s.setDesk f).stop = s.stop := rfl
@[simp] theorem State.setDesk_attention (f : Desk → Desk) : (s.setDesk f).attention = s.attention := rfl
@[simp] theorem State.setDesk_link (f : Desk → Desk) : (s.setDesk f).link = s.link := rfl

@[simp] theorem State.setStopCtl_pending (f : StopController → StopController) :
    (s.setStopCtl f).pending = s.pending := rfl
@[simp] theorem State.setStopCtl_powered (f : StopController → StopController) :
    (s.setStopCtl f).powered = s.powered := rfl
@[simp] theorem State.setStopCtl_loading (f : StopController → StopController) :
    (s.setStopCtl f).loading = s.loading := rfl
@[simp] theorem State.setStopCtl_now (f : StopController → StopController) : (s.setStopCtl f).now = s.now := rfl
@[simp] theorem State.setStopCtl_flash (f : StopController → StopController) : (s.setStopCtl f).flash = s.flash := rfl
@[simp] theorem State.setStopCtl_clock (f : StopController → StopController) : (s.setStopCtl f).clock = s.clock := rfl
@[simp] theorem State.setStopCtl_follower (f : StopController → StopController) :
    (s.setStopCtl f).follower = s.follower := rfl
@[simp] theorem State.setStopCtl_channels (f : StopController → StopController) :
    (s.setStopCtl f).channels = s.channels := rfl
@[simp] theorem State.setStopCtl_store (f : StopController → StopController) : (s.setStopCtl f).store = s.store := rfl
@[simp] theorem State.setStopCtl_seq (f : StopController → StopController) : (s.setStopCtl f).seq = s.seq := rfl
@[simp] theorem State.setStopCtl_desk (f : StopController → StopController) : (s.setStopCtl f).desk = s.desk := rfl
@[simp] theorem State.setStopCtl_stations (f : StopController → StopController) :
    (s.setStopCtl f).stations = s.stations := rfl
@[simp] theorem State.setStopCtl_map (f : StopController → StopController) : (s.setStopCtl f).map = s.map := rfl
@[simp] theorem State.setStopCtl_video (f : StopController → StopController) : (s.setStopCtl f).video = s.video := rfl
@[simp] theorem State.setStopCtl_stop (f : StopController → StopController) : (s.setStopCtl f).stop = f s.stop := rfl
@[simp] theorem State.setStopCtl_attention (f : StopController → StopController) :
    (s.setStopCtl f).attention = s.attention := rfl
@[simp] theorem State.setStopCtl_link (f : StopController → StopController) : (s.setStopCtl f).link = s.link := rfl

@[simp] theorem State.setLink_pending (f : Link → Link) : (s.setLink f).pending = s.pending := rfl
@[simp] theorem State.setLink_powered (f : Link → Link) : (s.setLink f).powered = s.powered := rfl
@[simp] theorem State.setLink_loading (f : Link → Link) : (s.setLink f).loading = s.loading := rfl
@[simp] theorem State.setLink_now (f : Link → Link) : (s.setLink f).now = s.now := rfl
@[simp] theorem State.setLink_flash (f : Link → Link) : (s.setLink f).flash = s.flash := rfl
@[simp] theorem State.setLink_clock (f : Link → Link) : (s.setLink f).clock = s.clock := rfl
@[simp] theorem State.setLink_follower (f : Link → Link) : (s.setLink f).follower = s.follower := rfl
@[simp] theorem State.setLink_channels (f : Link → Link) : (s.setLink f).channels = s.channels := rfl
@[simp] theorem State.setLink_store (f : Link → Link) : (s.setLink f).store = s.store := rfl
@[simp] theorem State.setLink_seq (f : Link → Link) : (s.setLink f).seq = s.seq := rfl
@[simp] theorem State.setLink_desk (f : Link → Link) : (s.setLink f).desk = s.desk := rfl
@[simp] theorem State.setLink_stations (f : Link → Link) : (s.setLink f).stations = s.stations := rfl
@[simp] theorem State.setLink_map (f : Link → Link) : (s.setLink f).map = s.map := rfl
@[simp] theorem State.setLink_video (f : Link → Link) : (s.setLink f).video = s.video := rfl
@[simp] theorem State.setLink_stop (f : Link → Link) : (s.setLink f).stop = s.stop := rfl
@[simp] theorem State.setLink_attention (f : Link → Link) : (s.setLink f).attention = s.attention := rfl
@[simp] theorem State.setLink_link (f : Link → Link) : (s.setLink f).link = f s.link := rfl

@[simp] theorem State.replied_pending (status : Status) (body : List Item) :
    (s.replied status body).pending = s.pending := rfl
@[simp] theorem State.replied_powered (status : Status) (body : List Item) :
    (s.replied status body).powered = s.powered := rfl
@[simp] theorem State.replied_loading (status : Status) (body : List Item) :
    (s.replied status body).loading = s.loading := rfl
@[simp] theorem State.replied_now (status : Status) (body : List Item) : (s.replied status body).now = s.now := rfl
@[simp] theorem State.replied_flash (status : Status) (body : List Item) :
    (s.replied status body).flash = s.flash := rfl
@[simp] theorem State.replied_clock (status : Status) (body : List Item) :
    (s.replied status body).clock = s.clock := rfl
@[simp] theorem State.replied_follower (status : Status) (body : List Item) :
    (s.replied status body).follower = s.follower := rfl
@[simp] theorem State.replied_channels (status : Status) (body : List Item) :
    (s.replied status body).channels = s.channels := rfl
@[simp] theorem State.replied_store (status : Status) (body : List Item) :
    (s.replied status body).store = s.store := rfl
@[simp] theorem State.replied_seq (status : Status) (body : List Item) : (s.replied status body).seq = s.seq := rfl
@[simp] theorem State.replied_desk (status : Status) (body : List Item) : (s.replied status body).desk = s.desk := rfl
@[simp] theorem State.replied_stations (status : Status) (body : List Item) :
    (s.replied status body).stations = s.stations := rfl
@[simp] theorem State.replied_map (status : Status) (body : List Item) : (s.replied status body).map = s.map := rfl
@[simp] theorem State.replied_video (status : Status) (body : List Item) :
    (s.replied status body).video = s.video := rfl
@[simp] theorem State.replied_stop (status : Status) (body : List Item) : (s.replied status body).stop = s.stop := rfl
@[simp] theorem State.replied_attention (status : Status) (body : List Item) :
    (s.replied status body).attention = s.attention := rfl
@[simp] theorem State.replied_link (status : Status) (body : List Item) :
    (s.replied status body).link =
      { s.link with lastReply := some { status := status, summary := attentionSummary s, body := body } } := rfl

@[simp] theorem raise_pending (r : CondRecord) : (raise r s).pending = s.pending := rfl
@[simp] theorem raise_powered (r : CondRecord) : (raise r s).powered = s.powered := rfl
@[simp] theorem raise_loading (r : CondRecord) : (raise r s).loading = s.loading := rfl
@[simp] theorem raise_now (r : CondRecord) : (raise r s).now = s.now := rfl
@[simp] theorem raise_flash (r : CondRecord) : (raise r s).flash = s.flash := rfl
@[simp] theorem raise_clock (r : CondRecord) : (raise r s).clock = s.clock := rfl
@[simp] theorem raise_follower (r : CondRecord) : (raise r s).follower = s.follower := rfl
@[simp] theorem raise_channels (r : CondRecord) : (raise r s).channels = s.channels := rfl
@[simp] theorem raise_store (r : CondRecord) : (raise r s).store = s.store := rfl
@[simp] theorem raise_seq (r : CondRecord) : (raise r s).seq = s.seq := rfl
@[simp] theorem raise_desk (r : CondRecord) : (raise r s).desk = s.desk := rfl
@[simp] theorem raise_stations (r : CondRecord) : (raise r s).stations = s.stations := rfl
@[simp] theorem raise_map (r : CondRecord) : (raise r s).map = s.map := rfl
@[simp] theorem raise_video (r : CondRecord) : (raise r s).video = s.video := rfl
@[simp] theorem raise_stop (r : CondRecord) : (raise r s).stop = s.stop := rfl
@[simp] theorem raise_attention (r : CondRecord) : (raise r s).attention = s.attention.modify r.place (Condition.raised r s.now) := rfl
@[simp] theorem raise_link (r : CondRecord) : (raise r s).link = s.link := rfl

@[simp] theorem setStop_pending (st : StopSt) : (setStop st s).pending = s.pending := rfl
@[simp] theorem setStop_powered (st : StopSt) : (setStop st s).powered = s.powered := rfl
@[simp] theorem setStop_loading (st : StopSt) : (setStop st s).loading = s.loading := rfl
@[simp] theorem setStop_now (st : StopSt) : (setStop st s).now = s.now := rfl
@[simp] theorem setStop_flash (st : StopSt) : (setStop st s).flash = s.flash := rfl
@[simp] theorem setStop_clock (st : StopSt) : (setStop st s).clock = s.clock := rfl
@[simp] theorem setStop_follower (st : StopSt) : (setStop st s).follower = s.follower := rfl
@[simp] theorem setStop_channels (st : StopSt) : (setStop st s).channels = s.channels := rfl
@[simp] theorem setStop_store (st : StopSt) : (setStop st s).store = s.store := rfl
@[simp] theorem setStop_seq (st : StopSt) : (setStop st s).seq = s.seq := rfl
@[simp] theorem setStop_desk (st : StopSt) : (setStop st s).desk = s.desk := rfl
@[simp] theorem setStop_stations (st : StopSt) : (setStop st s).stations = s.stations := rfl
@[simp] theorem setStop_map (st : StopSt) : (setStop st s).map = s.map := rfl
@[simp] theorem setStop_video (st : StopSt) :
    (setStop st s).video = { s.video with content := { s.video.content with stopState := st } } := rfl
@[simp] theorem setStop_stop (st : StopSt) : (setStop st s).stop = { s.stop with st := st } := rfl
@[simp] theorem setStop_attention (st : StopSt) : (setStop st s).attention = s.attention := rfl
@[simp] theorem setStop_link (st : StopSt) : (setStop st s).link = s.link := rfl

@[simp] theorem setWords_pending (i : Fin 6) (f : StationWords → StationWords) :
    (setWords i f s).pending = s.pending := rfl
@[simp] theorem setWords_powered (i : Fin 6) (f : StationWords → StationWords) :
    (setWords i f s).powered = s.powered := rfl
@[simp] theorem setWords_loading (i : Fin 6) (f : StationWords → StationWords) :
    (setWords i f s).loading = s.loading := rfl
@[simp] theorem setWords_now (i : Fin 6) (f : StationWords → StationWords) : (setWords i f s).now = s.now := rfl
@[simp] theorem setWords_flash (i : Fin 6) (f : StationWords → StationWords) : (setWords i f s).flash = s.flash := rfl
@[simp] theorem setWords_clock (i : Fin 6) (f : StationWords → StationWords) : (setWords i f s).clock = s.clock := rfl
@[simp] theorem setWords_follower (i : Fin 6) (f : StationWords → StationWords) :
    (setWords i f s).follower = s.follower := rfl
@[simp] theorem setWords_channels (i : Fin 6) (f : StationWords → StationWords) :
    (setWords i f s).channels = s.channels := rfl
@[simp] theorem setWords_store (i : Fin 6) (f : StationWords → StationWords) : (setWords i f s).store = s.store := rfl
@[simp] theorem setWords_seq (i : Fin 6) (f : StationWords → StationWords) : (setWords i f s).seq = s.seq := rfl
@[simp] theorem setWords_desk (i : Fin 6) (f : StationWords → StationWords) : (setWords i f s).desk = s.desk := rfl
@[simp] theorem setWords_stations (i : Fin 6) (f : StationWords → StationWords) :
    (setWords i f s).stations = s.stations := rfl
@[simp] theorem setWords_map (i : Fin 6) (f : StationWords → StationWords) : (setWords i f s).map = s.map := rfl
@[simp] theorem setWords_video (i : Fin 6) (f : StationWords → StationWords) : (setWords i f s).video = s.video := rfl
@[simp] theorem setWords_stop (i : Fin 6) (f : StationWords → StationWords) :
    (setWords i f s).stop = { s.stop with words := s.stop.words.modify i f } := rfl
@[simp] theorem setWords_attention (i : Fin 6) (f : StationWords → StationWords) :
    (setWords i f s).attention = s.attention := rfl
@[simp] theorem setWords_link (i : Fin 6) (f : StationWords → StationWords) : (setWords i f s).link = s.link := rfl

end Sys2Proof.Machine
end

