-- ==== Sys2Proof/Laws/Ops.lean ====
section
/-! SUPPORT. What each shared operation can do, once: the gates of power and of the load, requests and replies, the
records of stations and channels, conditions, readiness and the rebuild account. -/

namespace Sys2Proof.Machine

open Sys2Proof

/-! ## Gates and requests -/

/-- A level counts once it has been held long enough, and no longer than the part has looked at its lines (log 12). -/
@[simp] theorem hasHeld_iff (need held : Nat) (s : State) : s.hasHeld need held = true ↔ need ≤ held ∧ need ≤ s.now := by
  simp [State.hasHeld]

theorem whenPowered_on {f : State → State} {s : State} (h : s.powered = true) : whenPowered f s = .next (f s) := by
  simp [whenPowered, h]

theorem whenPowered_off {f : State → State} {s : State} (h : s.powered = false) : whenPowered f s = .next s := by
  simp [whenPowered, h]

theorem event_on {f : State → State} {s : State} (t : Nat) (h : s.powered = true) :
    event t f s = .next (f (s.goTo t)) := by
  simp [event, whenPowered, h]

theorem selfTimed_due {due : State → Option Nat} {f : State → State} {s : State} {d : Nat} (h : s.powered = true)
    (hd : due s = some d) : selfTimed due f s = .next (f (s.goTo d)) := by
  simp [selfTimed, whenPowered, h, hd]

theorem selfTimed_not_due {due : State → Option Nat} {f : State → State} {s : State} (hd : due s = none) :
    selfTimed due f s = .next s := by
  simp [selfTimed, whenPowered, hd]

theorem request_serving {f : State → State × Answer} {s : State} (t : Nat) (b : Bool) (h : s.Serving) :
    request t b f s
      = .next ((f (s.goTo t)).1.replied (f (s.goTo t)).2.status (f (s.goTo t)).2.body) := by
  simp [request, event, whenPowered, h.1, takeRequest, h.2, keepReply, formReply, State.replied]

theorem request_while_loading {f : State → State × Answer} {s : State} (t : Nat) (h : s.powered = true)
    (hl : s.loading = true) : request t false f s = .next ((s.goTo t).replied .busy []) := by
  simp [request, event, whenPowered, h, takeRequest, hl, keepReply, formReply, State.replied, refuse]

theorem request_always {f : State → State × Answer} {s : State} (t : Nat) (h : s.powered = true) :
    request t true f s
      = .next ((f (s.goTo t)).1.replied (f (s.goTo t)).2.status (f (s.goTo t)).2.body) := by
  simp [request, event, whenPowered, h, takeRequest, keepReply, formReply, State.replied]

theorem goTo_of_le {s : State} {t : Nat} (h : t ≤ s.now) : s.goTo t = s := by
  simp [State.goTo, Nat.max_eq_left h]

/-! ## Cue numbers and the tracked state -/

theorem cueLe_refl (a : CueNo) : cueLe a a = true := by simp [cueLe, cueLt]

theorem cueLe_of_lt {a b : CueNo} (h : cueLt a b = true) : cueLe a b = true := by
  simp only [cueLe, cueLt, Bool.or_eq_true, Bool.and_eq_true, decide_eq_true_eq, beq_iff_eq, Bool.not_eq_true',
    Bool.or_eq_false_iff, Bool.and_eq_false_iff, decide_eq_false_iff_not, beq_eq_false_iff_ne] at *
  omega

theorem cueLt_trans {a b c : CueNo} (h : cueLt a b = true) (h' : cueLt b c = true) : cueLt a c = true := by
  simp only [cueLt, Bool.or_eq_true, Bool.and_eq_true, decide_eq_true_eq, beq_iff_eq] at *
  omega

theorem cueLe_lt_trans {a b c : CueNo} (h : cueLe a b = true) (h' : cueLt b c = true) : cueLt a c = true := by
  simp only [cueLe, cueLt, Bool.or_eq_true, Bool.and_eq_true, decide_eq_true_eq, beq_iff_eq, Bool.not_eq_true',
    Bool.or_eq_false_iff, Bool.and_eq_false_iff, decide_eq_false_iff_not, beq_eq_false_iff_ne] at *
  omega

/-- A list in increasing order stands so pair by pair (R70). -/
theorem increasing_pairwise {cues : List Cue} (h : increasing cues = true) :
    cues.Pairwise fun a b => cueLt a.number b.number = true := by
  induction cues with
  | nil => exact .nil
  | cons a l ih =>
    cases l with
    | nil => simp
    | cons b l =>
      simp only [increasing, Bool.and_eq_true] at h
      have ih := ih h.2
      refine List.pairwise_cons.mpr ⟨fun c hc => ?_, ih⟩
      rcases List.mem_cons.mp hc with rfl | hc
      · exact h.1
      · exact cueLt_trans h.1 ((List.pairwise_cons.mp ih).1 c hc)

/-- A part of the tracked state is that of the greatest number at or before `n` that carries it (R80). -/
theorem trackedPart_is {α : Type} (part : Cue → Option α) {cues : List Cue} (n : CueNo) (h : increasing cues = true) :
    TrackedIs part cues n (trackedPart part cues n) := by
  have hp := increasing_pairwise h
  clear h
  unfold trackedPart
  generalize hf : (fun (acc : Option (α × CueNo)) (c : Cue) => if cueLe c.number n then
    match part c with
    | some a => some (a, c.number)
    | none => acc
    else acc) = f
  induction cues using List.reverseRecOn with
  | nil => exact ⟨by simp, by simp⟩
  | append_singleton l x ih =>
    obtain ⟨hl, -, hx⟩ := List.pairwise_append.mp hp
    have hx : ∀ c ∈ l, cueLt c.number x.number = true := fun c hc => hx c hc x (by simp)
    obtain ⟨ih₁, ih₂⟩ := ih hl
    rw [List.foldl_append, List.foldl_cons, List.foldl_nil]
    by_cases hn : cueLe x.number n = true
    · cases hpx : part x with
      | some a =>
        have e : ∀ acc, f acc x = some (a, x.number) := fun acc => by rw [← hf]; simp [hn, hpx]
        rw [e]
        refine ⟨fun b k hk => ?_, by simp⟩
        simp only [Option.some.injEq, Prod.mk.injEq] at hk
        obtain ⟨rfl, rfl⟩ := hk
        refine ⟨x, by simp, rfl, hpx, hn, fun d hd _ _ => ?_⟩
        rcases List.mem_append.mp hd with hd | hd
        · exact cueLe_of_lt (hx d hd)
        · rw [List.mem_singleton.mp hd]; exact cueLe_refl _
      | none =>
        have e : ∀ acc, f acc x = acc := fun acc => by rw [← hf]; simp [hpx]
        rw [e]
        refine ⟨fun a k hk => ?_, fun hk d hd hdn => ?_⟩
        · obtain ⟨c, hc, h₁, h₂, h₃, h₄⟩ := ih₁ a k hk
          refine ⟨c, List.mem_append_left _ hc, h₁, h₂, h₃, fun d hd hdn hdp => ?_⟩
          rcases List.mem_append.mp hd with hd | hd
          · exact h₄ d hd hdn hdp
          · rw [List.mem_singleton.mp hd, hpx] at hdp; cases hdp
        · rcases List.mem_append.mp hd with hd | hd
          · exact ih₂ hk d hd hdn
          · rw [List.mem_singleton.mp hd]; exact hpx
    · have e : ∀ acc, f acc x = acc := fun acc => by rw [← hf]; simp [hn]
      rw [e]
      refine ⟨fun a k hk => ?_, fun hk d hd hdn => ?_⟩
      · obtain ⟨c, hc, h₁, h₂, h₃, h₄⟩ := ih₁ a k hk
        refine ⟨c, List.mem_append_left _ hc, h₁, h₂, h₃, fun d hd hdn hdp => ?_⟩
        rcases List.mem_append.mp hd with hd | hd
        · exact h₄ d hd hdn hdp
        · rw [List.mem_singleton.mp hd] at hdn; exact absurd hdn hn
      · rcases List.mem_append.mp hd with hd | hd
        · exact ih₂ hk d hd hdn
        · rw [List.mem_singleton.mp hd] at hdn; exact absurd hdn hn

/-! ## Stations -/

theorem setStation_length (s : State) (i : Fin 6) (f : Station → Station) :
    (s.setStation i f).stations.length = s.stations.length := by
  simp [State.setStation]

theorem station_setStation_same {s : State} (i : Fin 6) (f : Station → Station) (h : s.stations.length = 6) :
    (s.setStation i f).station i = f (s.station i) := by
  have hi : i.val < s.stations.length := by omega
  simp [State.setStation, State.station, List.getD_eq_getElem?_getD, hi]

theorem station_setStation_other (s : State) {i j : Fin 6} (f : Station → Station) (h : j ≠ i) :
    (s.setStation i f).station j = s.station j := by
  have hne : i.val ≠ j.val := fun e => h (Fin.ext e.symm)
  simp [State.setStation, State.station, List.getD_eq_getElem?_getD, hne]

/-- Two writes of one station's record are one. -/
theorem setStation_setStation (s : State) (i : Fin 6) (f g : Station → Station) :
    (s.setStation i f).setStation i g = s.setStation i (g ∘ f) := by
  simp [State.setStation, List.modify_modify_eq]

theorem station_congr {s u : State} (h : u.stations = s.stations) (i : Fin 6) : u.station i = s.station i := by
  simp [State.station, h]

/-- Only station i differs: reflexive, transitive, and kept by a write of station i. -/
theorem OnlyStation.refl (i : Fin 6) (s : State) : OnlyStation i s s := ⟨fun _ _ => rfl, rfl⟩

theorem OnlyStation.trans {i : Fin 6} {s u v : State} (h : OnlyStation i s u) (h' : OnlyStation i u v) :
    OnlyStation i s v := by
  refine ⟨fun j hj => (h'.1 j hj).trans (h.1 j hj), ?_⟩
  obtain ⟨-, hs⟩ := h; obtain ⟨-, hu⟩ := h'
  rw [← hu] at hs
  exact hs

theorem onlyStation_setStation (i : Fin 6) (s : State) (f : Station → Station) :
    OnlyStation i s (s.setStation i f) :=
  ⟨fun _ hj => station_setStation_other s f hj, rfl⟩

theorem OnlyStation.andFault {i : Fin 6} {s u : State} (h : OnlyStation i s u) : OnlyStationAndFault i s u := by
  refine ⟨h.1, fun k _ => ?_, ?_⟩
  · have := congrArg State.attention h.2; simp at this; rw [this]
  · have := congrArg State.attention h.2; simp at this
    have h2 := h.2; rw [← this]; exact h2

theorem OnlyStationAndFault.refl (i : Fin 6) (s : State) : OnlyStationAndFault i s s :=
  (OnlyStation.refl i s).andFault

theorem OnlyStationAndFault.trans {i : Fin 6} {s u v : State} (h : OnlyStationAndFault i s u)
    (h' : OnlyStationAndFault i u v) : OnlyStationAndFault i s v := by
  refine ⟨fun j hj => (h'.1 j hj).trans (h.1 j hj), fun k hk => (h'.2.1 k hk).trans (h.2.1 k hk), ?_⟩
  obtain ⟨-, -, hs⟩ := h; obtain ⟨-, -, hu⟩ := h'
  rw [← hu] at hs
  exact hs

/-! ## Conditions -/

theorem raise_same (r : CondRecord) (s : State) :
    (raise r s).attention[r.place]? = s.attention[r.place]?.map (Condition.raised r s.now) := by
  simp [raise]

theorem raise_other (r : CondRecord) (s : State) {k : Nat} (h : k ≠ r.place) :
    (raise r s).attention[k]? = s.attention[k]? := by
  simp [raise, Ne.symm h]

theorem raise_length (r : CondRecord) (s : State) : (raise r s).attention.length = s.attention.length := by
  simp [raise]

theorem onlyStationAndFault_raise (i : Fin 6) (kind : FaultKind) (s : State) :
    OnlyStationAndFault i s (raise (.stationFault i kind) s) :=
  ⟨fun _ _ => rfl, fun _ hk => raise_other _ s hk, rfl⟩

/-- A fault record after a fault, in the words of R136. -/
theorem FaultRecord.take_eq (f : StationFault) (r : FaultRecord) : r.take f = recordAfter f r := by
  unfold FaultRecord.take recordAfter satInc
  cases h : r.first <;> simp [Config.maxCount8]

/-- A station fault: the record's first fault and the condition, nothing else but the count. -/
theorem stationFault_spec (i : Fin 6) (kind : FaultKind) (cue : Option CueNo) (patch : Option Nat) {s : State}
    (h : s.stations.length = 6) :
    OnlyStationAndFault i s (stationFault i kind cue patch s)
      ∧ (stationFault i kind cue patch s).station i = { s.station i with
          faults := (s.station i).faults.take { kind := kind, cue := cue, patch := patch, time := s.now } }
      ∧ (stationFault i kind cue patch s).stations.length = 6
      ∧ (stationFault i kind cue patch s).attention[1]?
        = s.attention[1]?.map (Condition.raised (.stationFault i kind) s.now)
      ∧ (stationFault i kind cue patch s).now = s.now := by
  refine ⟨?_, ?_, ?_, ?_, rfl⟩
  · exact (onlyStation_setStation i s _).andFault.trans (onlyStationAndFault_raise i kind _)
  · rw [stationFault]; exact station_setStation_same i _ h
  · rw [stationFault]; simp [h]
  · exact raise_same (.stationFault i kind) _

theorem faultRecord_take_first (f : StationFault) (r : FaultRecord) :
    (r.take f).first = match r.first with
      | some g => some g
      | none => some f := by
  unfold FaultRecord.take; cases r.first <;> rfl

/-! ## Readiness and the account -/

theorem setAccount_outside {i : Fin 6} {f : Account → Account} {s : State} (h : s.stop.st.rebuilds = false) :
    setAccount i f s = s := by
  simp [setAccount, h]

theorem reportSwitch_outside {i : Fin 6} {b : Bool} {s : State} (h : s.stop.st.rebuilds = false) :
    reportSwitch i b s = s := by
  simp [reportSwitch, setAccount, h]

theorem reportEnd_outside {i : Fin 6} {b : Bool} {o : SwitchEnd} {s : State} (h : s.stop.st.rebuilds = false) :
    reportEnd i b o s = s := by
  unfold reportEnd; split <;> simp [reportSwitch_outside h]

/-- Readiness touches the stop state, the overlay's copy of it and RESUME_READY alone. -/
theorem evaluateReady_frame (s : State) :
    { evaluateReady s with stop := s.stop, video := s.video, attention := s.attention } = s
      ∧ { (evaluateReady s).stop with st := s.stop.st } = s.stop
      ∧ { (evaluateReady s).video with
          content := { (evaluateReady s).video.content with stopState := s.video.content.stopState } } = s.video
      ∧ ∀ k, k ≠ 2 → (evaluateReady s).attention[k]? = s.attention[k]? := by
  unfold evaluateReady
  split
  · dsimp only
    split
    · exact ⟨rfl, rfl, rfl, fun _ _ => rfl⟩
    · exact ⟨rfl, rfl, rfl, fun k hk => raise_other _ _ hk⟩
  · dsimp only
    split <;> exact ⟨rfl, rfl, rfl, fun _ _ => rfl⟩
  · exact ⟨rfl, rfl, rfl, fun _ _ => rfl⟩

/-- After an evaluation with a resume point, READY stands exactly where no entry blocks. -/
theorem evaluateReady_st {s : State} {r : ResumePoint} (hr : s.stop.resume = some r)
    (h : s.stop.st.rebuilds = true) :
    (evaluateReady s).stop.st = if s.stop.account.any Account.blocks then .rebuilding else .ready := by
  unfold evaluateReady
  cases hst : s.stop.st <;> simp [StopSt.rebuilds, hst] at h <;> simp only [hr] <;>
    cases s.stop.account.any Account.blocks <;> simp [hst, raise, setStop]

theorem setAccount_frame (i : Fin 6) (f : Account → Account) (s : State) :
    { setAccount i f s with stop := s.stop, video := s.video, attention := s.attention } = s
      ∧ { (setAccount i f s).stop with st := s.stop.st, account := s.stop.account } = s.stop
      ∧ { (setAccount i f s).video with
          content := { (setAccount i f s).video.content with stopState := s.video.content.stopState } } = s.video
      ∧ ∀ k, k ≠ 2 → (setAccount i f s).attention[k]? = s.attention[k]? := by
  unfold setAccount
  split
  · obtain ⟨h₁, h₂, h₃, h₄⟩ :=
      evaluateReady_frame { s with stop := { s.stop with account := s.stop.account.modify i f } }
    refine ⟨?_, ?_, h₃, h₄⟩
    · have := congrArg (fun u : State => { u with stop := s.stop }) h₁
      exact this
    · have := congrArg (fun c : StopController => { c with account := s.stop.account }) h₂
      exact this
  · exact ⟨rfl, rfl, rfl, fun _ _ => rfl⟩

/-! ## Switches -/

/-- The end of a switch outside a rebuild: station i alone, its switch and its last switch. -/
theorem endSwitch_outside {i : Fin 6} {o : SwitchEnd} {l : Option Nat} {s : State}
    (h : s.stop.st.rebuilds = false) :
    endSwitch i o l s = match (s.station i).switch with
      | none => s
      | some w => s.setStation i fun st =>
          { st with switch := none
                    lastSwitch := some { cue := w.cue, patch := some w.patch, kind := w.kind, outcome := o,
                                         lateness := l } } := by
  unfold endSwitch
  cases (s.station i).switch with
  | none => rfl
  | some w => simp only; rw [reportEnd_outside (by simpa using h)]

theorem onlyStation_endSwitch {i : Fin 6} {o : SwitchEnd} {l : Option Nat} {s : State}
    (h : s.stop.st.rebuilds = false) : OnlyStation i s (endSwitch i o l s) := by
  rw [endSwitch_outside h]
  cases (s.station i).switch with
  | none => exact OnlyStation.refl i s
  | some w => exact onlyStation_setStation i s _

theorem station_endSwitch {i : Fin 6} {o : SwitchEnd} {l : Option Nat} {s : State}
    (h : s.stop.st.rebuilds = false) (hl : s.stations.length = 6) :
    (endSwitch i o l s).station i = match (s.station i).switch with
      | none => s.station i
      | some w => { s.station i with
          switch := none
          lastSwitch := some { cue := w.cue, patch := some w.patch, kind := w.kind, outcome := o, lateness := l } } := by
  rw [endSwitch_outside h]
  cases hw : (s.station i).switch with
  | none => rfl
  | some w => exact station_setStation_same i _ hl

/-- Two writes that agree on the station's record are one write. -/
theorem setStation_congr {i : Fin 6} {s : State} {f g : Station → Station} (h : f (s.station i) = g (s.station i)) :
    s.setStation i f = s.setStation i g := by
  simp only [State.setStation]
  congr 1
  apply List.ext_getElem?
  intro j
  simp only [List.getElem?_modify]
  split
  · rename_i hj
    subst hj
    cases hx : s.stations[i.val]? with
    | none => rfl
    | some x => simp [State.station, List.getD_eq_getElem?_getD, hx] at h; simp [h]
  · rfl

theorem setStation_self {i : Fin 6} {s : State} {f : Station → Station} (h : f (s.station i) = s.station i) :
    s.setStation i f = s := by
  rw [setStation_congr (g := id) h]
  simp [State.setStation]

/-- A switch that ends DROPPED reports nothing, in a rebuild too. -/
theorem endSwitch_dropped (i : Fin 6) (s : State) : endSwitch i .dropped none s = s.setStation i fun st =>
    { st with
      switch := none
      lastSwitch := match st.switch with
        | some w => some { cue := w.cue, patch := some w.patch, kind := w.kind, outcome := .dropped, lateness := none }
        | none => st.lastSwitch } := by
  unfold endSwitch
  cases hw : (s.station i).switch with
  | none => rw [setStation_self]; simp only [hw]; rw [← hw]
  | some w =>
    have : ∀ b u, reportEnd i b .dropped u = u := by intro b u; cases b <;> rfl
    simp only [this]
    apply setStation_congr
    simp [hw]

/-! ## Lists in order of a key -/

theorem insertBy_perm {α : Type} (key : α → Int) (x : α) (l : List α) : (insertBy key x l).Perm (x :: l) := by
  induction l with
  | nil => exact .refl _
  | cons y ys ih =>
    unfold insertBy
    split
    · exact .refl _
    · exact (ih.cons y).trans (.swap x y ys)

/-- A value placed into a list in order leaves it in order. -/
theorem insertBy_sorted {α : Type} (key : α → Int) (x : α) {l : List α} (h : l.Pairwise fun a b => key a ≤ key b) :
    (insertBy key x l).Pairwise fun a b => key a ≤ key b := by
  induction l with
  | nil => simp [insertBy]
  | cons y ys ih =>
    obtain ⟨hy, hys⟩ := List.pairwise_cons.mp h
    unfold insertBy
    split
    · rename_i hlt
      refine List.pairwise_cons.mpr ⟨fun z hz => ?_, h⟩
      rcases List.mem_cons.mp hz with rfl | hz
      · omega
      · have := hy z hz
        omega
    · rename_i hge
      refine List.pairwise_cons.mpr ⟨fun z hz => ?_, ih hys⟩
      rcases List.mem_cons.mp ((insertBy_perm key x ys).mem_iff.mp hz) with rfl | hz
      · omega
      · exact hy z hz

/-! ## Output fields -/

@[simp] theorem Video.nextField_eq (ref : Nat) (v : Video) : v.nextField ref = fieldAfter ref v := rfl

/-- A flash is late exactly where a field that had started before its commit was nearer to T − D (R151). -/
theorem flashLate_iff (p : PendingFlash) (start delay : Nat) (ideal : Int) (h : ideal = (p.time : Int) - (delay : Int)) :
    flashLate p start delay = true ↔ p.conducted = false ∧ ∃ x ∈ p.before :: p.earlier.toList,
      ((x : Int) - ideal).natAbs < ((start : Int) - ideal).natAbs := by
  subst h
  simp [flashLate]

/-- What a field brings once its number and its start stand. -/
theorem enterField_begins (overlay : Bool) (v : Video) : FieldBegins overlay v (enterField overlay v) := by
  have dark : v.lit = none → litAfter v.lit = none := fun h => by rw [h]; rfl
  have goes : ∀ l, v.lit = some l → litAfter v.lit
      = if l.pit ≤ 1 ∧ l.stage ≤ 1 then none else some { pit := l.pit - 1, stage := l.stage - 1 } :=
    fun l h => by rw [h]; rfl
  by_cases hf : ∃ p, v.waiting = some p ∧ p.field = v.fieldNo
  · obtain ⟨p, hw, hf⟩ := hf
    have e : enterField overlay v = takeSnapshot overlay (startFlash p { v with lit := litAfter v.lit }) := by
      simp only [enterField, hw, if_pos hf]
    rw [e]
    refine ⟨fun q hq _ => ?_, fun h => absurd hf (h p hw), rfl, rfl⟩
    cases hw.symm.trans hq
    refine ⟨rfl, rfl, rfl, rfl, fun ideal hi => ?_⟩
    have hl := flashLate_iff p (refTime v.fieldStart) v.settings.delay ideal hi
    by_cases h : flashLate p (refTime v.fieldStart) v.settings.delay = true
    · rw [if_pos (hl.1 h)]; exact if_pos h
    · rw [if_neg (mt hl.2 h)]; exact if_neg h
  · have e : enterField overlay v = takeSnapshot overlay { v with lit := litAfter v.lit } := by
      unfold enterField
      cases hw : v.waiting with
      | none => rfl
      | some p => simp only [if_neg fun h => hf ⟨p, hw, h⟩]
    rw [e]
    exact ⟨fun p hw h => absurd ⟨p, hw, h⟩ hf, fun _ => ⟨rfl, rfl, rfl, rfl, dark, goes⟩, rfl, rfl⟩

end Sys2Proof.Machine
end

