-- ==== Sys2Proof/Laws/Stations.lean ====
section
/-! SUPPORT. What each operation of the Station Controller can do, once. -/

namespace Sys2Proof.Machine

open Sys2Proof

/-- The preload candidates are those of R122, in its order. -/
theorem Station.candidates_eq (st : Station) : st.candidates = preloadOrder st := by
  unfold Station.candidates preloadOrder
  cases st.standbyTarget <;> rfl

/-- The gap of a frame in reception is passed where more than the 52 bit times lie before the bytes that come. -/
theorem gapPassed_iff (r : Reception) (n now : Nat) :
    r.gapPassed n now = true ↔ ¬(now - r.last) * 230400 ≤ (52 + 10 * (n - 1)) * 1000000 := by
  rw [Reception.gapPassed, moreThanBits, decide_eq_true_iff, Config.stationBaud, not_le]

/-- Without a gap passed nothing fails before the bytes that come. -/
theorem passGap_held {i : Fin 6} {n : Nat} {s : State} (h : GapHeld (s.station i) n s.now) : passGap i n s = s := by
  unfold passGap
  split
  · next r hr => rw [if_neg ((gapPassed_iff r n s.now).not.mpr (not_not.mpr (h r hr)))]
  · rfl

/-- A gap passed fails the frame in reception before the bytes that come. -/
theorem passGap_passed {i : Fin 6} {n : Nat} {r : Reception} {s : State} (hr : (s.station i).receiver = some r)
    (h : ¬GapHeld (s.station i) n s.now) : passGap i n s = gapFails i r s := by
  unfold passGap
  simp only [hr]
  refine if_pos ((gapPassed_iff r n s.now).mpr fun c => h fun q hq => ?_)
  cases hr.symm.trans hq
  exact c

/-- A frame of the rig is taken on a station whose receiver hunts again. -/
theorem frameComes_held {i : Fin 6} (f : RigFrame) {s : State} (h : GapHeld (s.station i) 4 s.now) :
    frameComes i f s = takeRigFrame i f (s.setStation i fun st => { st with receiver := none }) := by
  simp [frameComes, passGap_held h, receiverComes, takeRigEvent]

/-- Some frames that fail their check count, and leave of the station nothing else but its receiver. -/
theorem receiverComes_failed (i : Fin 6) (got : Option (List Byte)) (n : Nat) {s : State} (h : s.stations.length = 6) :
    OnlyStation i s (receiverComes i (got, List.replicate (n + 1) .failed) s)
      ∧ (receiverComes i (got, List.replicate (n + 1) .failed) s).station i = { s.station i with
          receiver := got.map fun g => { bytes := g, last := s.now }
          protoErrors := min 65535 ((s.station i).protoErrors + n + 1) } := by
  have fold : ∀ (n : Nat) (u : State), u.stations.length = 6 →
      OnlyStation i u ((List.replicate (n + 1) RigEvent.failed).foldl (takeRigEvent i) u)
        ∧ ((List.replicate (n + 1) RigEvent.failed).foldl (takeRigEvent i) u).station i = { u.station i with
            protoErrors := min 65535 ((u.station i).protoErrors + n + 1) } := by
    intro n
    induction n with
    | zero =>
      intro u hu
      exact ⟨onlyStation_setStation i u _, station_setStation_same i _ hu⟩
    | succ n ih =>
      intro u hu
      obtain ⟨a, b⟩ := ih (protocolError i u) (by simp [protocolError, hu])
      refine ⟨(onlyStation_setStation i u _).trans a, b.trans ?_⟩
      rw [show (protocolError i u).station i = _ from station_setStation_same i _ hu]
      simp only [satInc, Config.maxCount16]
      congr 1
      omega
  obtain ⟨a, b⟩ := fold n (s.setStation i fun st => { st with receiver := got.map fun g => { bytes := g, last := s.now } })
    (by simp [h])
  exact ⟨(onlyStation_setStation i s _).trans a, b.trans (by rw [station_setStation_same i _ h])⟩

/-- A gap after which only frames fail leaves of the station its count and a receiver that hunts. -/
theorem gapFails_failed {i : Fin 6} {r : Reception} {n : Nat} {s : State} (h : s.stations.length = 6)
    (hr : rigGap (some r.bytes) = List.replicate (n + 1) .failed) :
    OnlyStation i s (gapFails i r s) ∧ (gapFails i r s).station i = { s.station i with
      receiver := none, protoErrors := min 65535 ((s.station i).protoErrors + n + 1) } := by
  rw [gapFails, hr]
  exact receiverComes_failed i none n h

/-- A station's record after a preload recompute, and all else: only the preload, the pressure episode, the failed
preloads and the fault record may move, and a first fault stays. -/
structure Recomputed (keepFailed : Bool) (i : Fin 6) (s u : State) : Prop where
  frame : OnlyStationAndFault i s u
  length : u.stations.length = 6
  now : u.now = s.now
  station : { u.station i with failed := (s.station i).failed }.settled = (s.station i).settled
  failed : keepFailed = true → (u.station i).failed = (s.station i).failed
  first : ∀ f, (s.station i).faults.first = some f → (u.station i).faults.first = some f

theorem Recomputed.refl (k : Bool) (i : Fin 6) {s : State} (h : s.stations.length = 6) : Recomputed k i s s :=
  ⟨OnlyStationAndFault.refl i s, h, rfl, rfl, fun _ => rfl, fun _ h => h⟩

/-- A write of the preload and the pressure episode is a recompute's. -/
theorem recomputed_setStation (k : Bool) (i : Fin 6) {s : State} (h : s.stations.length = 6)
    (f : Station → Station)
    (hf : (f (s.station i)).settled = (s.station i).settled)
    (hx : (f (s.station i)).faults = (s.station i).faults) : Recomputed k i s (s.setStation i f) := by
  have e := station_setStation_same i f h
  have hfailed : (f (s.station i)).failed = (s.station i).failed := by
    have := congrArg (fun st : Station => st.failed) hf
    exact this
  refine ⟨(onlyStation_setStation i s f).andFault, by simp [h], rfl, ?_, ?_, ?_⟩
  · rw [e, ← hfailed]; exact hf
  · intro _; rw [e]; exact hfailed
  · intro g hg; rw [e, hx]; exact hg

theorem choosePreload_spec (i : Fin 6) {s : State} (h : s.stations.length = 6) :
    Recomputed true i s (choosePreload i s) := by
  unfold choosePreload deferPreload
  dsimp only
  split
  · exact recomputed_setStation true i h _ rfl rfl
  · rename_i c _
    split
    · exact recomputed_setStation true i h _ rfl rfl
    · split
      · exact recomputed_setStation true i h _ rfl rfl
      · split
        · exact recomputed_setStation true i h _ rfl rfl
        · have r := recomputed_setStation true i h
            (fun st => { st with preload := false, pressure := true }) rfl rfl
          obtain ⟨f₁, f₂, f₃, -, f₅⟩ := stationFault_spec i .pressure c.1 (some c.2) r.length
          refine ⟨r.frame.trans f₁, f₃, f₅.trans r.now, ?_, ?_, ?_⟩
          · rw [f₂]; exact r.station
          · intro hk; rw [f₂]; exact r.failed hk
          · intro g hg
            rw [f₂]
            have := r.first g hg
            simp only [FaultRecord.take, this]

/-- A preload recompute, outside and inside a rebuild. -/
theorem recompute_spec (k : Bool) (i : Fin 6) {s : State} (h : s.stations.length = 6) :
    Recomputed k i s (recompute k i s) := by
  unfold recompute
  split
  · cases k with
    | true => exact choosePreload_spec i h
    | false =>
      have e := station_setStation_same i (fun st => { st with failed := [] }) h
      have r := choosePreload_spec i
        (s := s.setStation i fun st => { st with failed := [] }) (by simp [h])
      refine ⟨(onlyStation_setStation i s _).andFault.trans r.frame, r.length, r.now, ?_, ?_, ?_⟩
      · have := r.station
        rw [e] at this
        have := congrArg (fun st : Station => { st with failed := (s.station i).failed }) this
        exact this
      · intro hk; cases hk
      · intro g hg; exact r.first g (by rw [e]; exact hg)
  · exact Recomputed.refl k i h

/-- A protocol error counts, and nothing more. -/
theorem protocolError_spec (i : Fin 6) {s : State} (h : s.stations.length = 6) :
    OnlyStation i s (protocolError i s)
      ∧ (protocolError i s).station i
        = { s.station i with protoErrors := min 65535 ((s.station i).protoErrors + 1) } :=
  ⟨onlyStation_setStation i s _, station_setStation_same i _ h⟩

/-- The switch in progress ends MISSED with a fault, outside a rebuild. -/
theorem missSwitch_spec (i : Fin 6) (kind : FaultKind) {s : State} (h : s.stations.length = 6)
    (hr : s.stop.st.rebuilds = false) :
    OnlyStationAndFault i s (missSwitch i kind s) ∧ (missSwitch i kind s).stations.length = 6
      ∧ (missSwitch i kind s).now = s.now
      ∧ ((s.station i).switch = none → missSwitch i kind s = s)
      ∧ ∀ w, (s.station i).switch = some w →
        (missSwitch i kind s).station i = { s.station i with
          switch := none
          lastSwitch := some { cue := w.cue, patch := some w.patch, kind := w.kind, outcome := .missed,
                               lateness := none }
          faults := (s.station i).faults.take { kind := kind, cue := w.cue, patch := some w.patch, time := s.now } } := by
  unfold missSwitch
  cases hw : (s.station i).switch with
  | none =>
    exact ⟨OnlyStationAndFault.refl i s, h, rfl, fun _ => rfl, fun w h => by cases h⟩
  | some w =>
    have e := onlyStation_endSwitch (i := i) (o := .missed) (l := none) hr
    have e₂ := station_endSwitch (i := i) (o := .missed) (l := none) hr h
    have hlen : (endSwitch i .missed none s).stations.length = 6 := by
      rw [endSwitch_outside hr, hw]; simp [h]
    have hnow : (endSwitch i .missed none s).now = s.now := by
      rw [endSwitch_outside hr, hw]; rfl
    obtain ⟨f₁, f₂, f₃, -, f₅⟩ := stationFault_spec i kind w.cue (some w.patch) hlen
    refine ⟨e.andFault.trans f₁, f₃, f₅.trans hnow, fun h => (by cases h), fun v hv => ?_⟩
    cases hv
    rw [hw] at e₂
    simp only [f₂, e₂, hnow]

/-- A frame that goes out on a link is all that changes. -/
theorem sendFrame_spec (i : Fin 6) (f : TxFrame) {s : State} (h : s.stations.length = 6) :
    OnlyStation i s (sendFrame i f s)
      ∧ (sendFrame i f s).station i = { s.station i with sending := some (f, s.now) } :=
  ⟨onlyStation_setStation i s _, station_setStation_same i _ h⟩

/-- Only the stations and their condition differ. -/
def StationsOnly (s u : State) : Prop :=
  { u with stations := s.stations, attention := s.attention } = s ∧ u.stations.length = s.stations.length
    ∧ ∀ k, k ≠ 1 → u.attention[k]? = s.attention[k]?

theorem StationsOnly.refl (s : State) : StationsOnly s s := ⟨rfl, rfl, fun _ _ => rfl⟩

theorem StationsOnly.trans {s u v : State} (h : StationsOnly s u) (h' : StationsOnly u v) : StationsOnly s v := by
  obtain ⟨a₁, a₂, a₃⟩ := h
  obtain ⟨b₁, b₂, b₃⟩ := h'
  refine ⟨?_, b₂.trans a₂, fun k hk => (b₃ k hk).trans (a₃ k hk)⟩
  rw [← b₁] at a₁; exact a₁

theorem stationsOnly_setStation (i : Fin 6) (f : Station → Station) (s : State) :
    StationsOnly s (s.setStation i f) := ⟨rfl, by simp, fun _ _ => rfl⟩

theorem stationsOnly_stationFault (i : Fin 6) (kind : FaultKind) (cue : Option CueNo) (patch : Option Nat)
    (s : State) : StationsOnly s (stationFault i kind cue patch s) :=
  ⟨rfl, by simp [stationFault], fun _ h => raise_other (.stationFault i kind) _ h⟩

theorem stationsOnly_recompute (k : Bool) (i : Fin 6) (s : State) : StationsOnly s (recompute k i s) := by
  have choose : ∀ u : State, StationsOnly u (choosePreload i u) := by
    intro u
    unfold choosePreload deferPreload
    dsimp only
    split
    · exact stationsOnly_setStation i _ u
    · split
      · exact stationsOnly_setStation i _ u
      · split
        · exact stationsOnly_setStation i _ u
        · split
          · exact stationsOnly_setStation i _ u
          · exact (stationsOnly_setStation i _ u).trans (stationsOnly_stationFault i _ _ _ _)
  unfold recompute
  split
  · cases k with
    | true => exact choose s
    | false => exact (stationsOnly_setStation i _ s).trans (choose _)
  · exact StationsOnly.refl s

theorem stationsOnly_takeAhead (set : List CueNo) (latch : Option CueNo) (i : Fin 6) (s : State) :
    StationsOnly s (takeAhead set latch i s) :=
  (stationsOnly_setStation i _ s).trans (stationsOnly_recompute false i _)

theorem stationsOnly_eachStation {f : Fin 6 → State → State} (h : ∀ i s, StationsOnly s (f i s)) (s : State) :
    StationsOnly s (eachStation f s) := by
  have : ∀ (l : List (Fin 6)) (s : State), StationsOnly s (l.foldl (fun s i => f i s) s) := by
    intro l
    induction l with
    | nil => exact StationsOnly.refl
    | cons i l ih => intro s; exact (h i s).trans (ih _)
  exact this _ s

/-- What the orders and notices of the stations leave of everything else: they touch the stations, their condition,
and in a rebuild, through the rebuild account, the stop state, its copy in the overlay and RESUME_READY. -/
def StationsAndAccount (s u : State) : Prop :=
  { u with stations := s.stations, attention := s.attention, stop := s.stop, video := s.video } = s
    ∧ { u.stop with st := s.stop.st, account := s.stop.account } = s.stop
    ∧ { u.video with content := { u.video.content with stopState := s.video.content.stopState } } = s.video
    ∧ u.stations.length = s.stations.length
    ∧ (∀ k, k ≠ 1 → k ≠ 2 → u.attention[k]? = s.attention[k]?)
    ∧ (s.stop.st.rebuilds = false → u.stop = s.stop ∧ u.video = s.video ∧ u.attention[2]? = s.attention[2]?)

theorem StationsAndAccount.refl (s : State) : StationsAndAccount s s :=
  ⟨rfl, rfl, rfl, rfl, fun _ _ _ => rfl, fun _ => ⟨rfl, rfl, rfl⟩⟩

/-- Outside a rebuild only the stations and their condition move. -/
theorem StationsAndAccount.outside {s u : State} (h : StationsAndAccount s u) (hr : s.stop.st.rebuilds = false) :
    { u with stations := s.stations, attention := s.attention } = s
      ∧ ∀ k, k ≠ 1 → u.attention[k]? = s.attention[k]? := by
  obtain ⟨h₁, -, -, -, h₅, h₆⟩ := h
  obtain ⟨a, b, c⟩ := h₆ hr
  refine ⟨?_, fun k hk => ?_⟩
  · rw [← a, ← b] at h₁; exact h₁
  · by_cases h2 : k = 2
    · subst h2; exact c
    · exact h₅ k hk h2

/-- The parts that orders to the stations do not touch. -/
theorem StationsAndAccount.rest {s u : State} (h : StationsAndAccount s u) :
    u.seq = s.seq ∧ u.store = s.store ∧ u.clock = s.clock ∧ u.follower = s.follower ∧ u.channels = s.channels
      ∧ u.now = s.now ∧ u.map = s.map ∧ u.desk = s.desk ∧ u.powered = s.powered ∧ u.loading = s.loading
      ∧ u.stop.words = s.stop.words ∧ u.stop.resume = s.stop.resume := by
  have a : ∀ {α : Type} (g : State → α), _ := fun g => congrArg g h.1
  have b : ∀ {α : Type} (g : StopController → α), _ := fun g => congrArg g h.2.1
  exact ⟨a (·.seq), a (·.store), a (·.clock), a (·.follower), a (·.channels), a (·.now), a (·.map), a (·.desk),
    a (·.powered), a (·.loading), b (·.words), b (·.resume)⟩

theorem StationsAndAccount.trans {s u v : State} (h : StationsAndAccount s u) (h' : StationsAndAccount u v) :
    StationsAndAccount s v := by
  obtain ⟨a₁, a₂, a₃, a₄, a₅, a₆⟩ := h
  obtain ⟨b₁, b₂, b₃, b₄, b₅, b₆⟩ := h'
  refine ⟨?_, ?_, ?_, b₄.trans a₄, fun k h₁ h₂ => (b₅ k h₁ h₂).trans (a₅ k h₁ h₂), fun hr => ?_⟩
  · rw [← b₁] at a₁; exact a₁
  · rw [← b₂] at a₂; exact a₂
  · rw [← b₃] at a₃; exact a₃
  · obtain ⟨x, y, z⟩ := a₆ hr
    obtain ⟨x', y', z'⟩ := b₆ (by rw [x]; exact hr)
    exact ⟨x'.trans x, y'.trans y, z'.trans z⟩

theorem StationsOnly.andAccount {s u : State} (h : StationsOnly s u) : StationsAndAccount s u := by
  obtain ⟨a, b, c⟩ := h
  have e : ∀ {α : Type} (g : State → α), _ := fun g => congrArg g a
  have hs : u.stop = s.stop := e (·.stop)
  have hv : u.video = s.video := e (·.video)
  refine ⟨?_, by rw [hs], by rw [hv], b, fun k h _ => c k h, fun _ => ⟨hs, hv, c 2 (by decide)⟩⟩
  rw [← hs, ← hv]; exact a

theorem stationsAndAccount_setStation (i : Fin 6) (f : Station → Station) (s : State) :
    StationsAndAccount s (s.setStation i f) :=
  ⟨rfl, rfl, rfl, by simp, fun _ _ _ => rfl, fun _ => ⟨rfl, rfl, rfl⟩⟩

theorem stationsAndAccount_stationFault (i : Fin 6) (kind : FaultKind) (cue : Option CueNo) (patch : Option Nat)
    (s : State) : StationsAndAccount s (stationFault i kind cue patch s) :=
  ⟨rfl, rfl, rfl, by simp [stationFault], fun _ h _ => raise_other (.stationFault i kind) _ h,
    fun _ => ⟨rfl, rfl, raise_other (.stationFault i kind) _ (by simp [CondRecord.place])⟩⟩

theorem stationsAndAccount_setAccount (i : Fin 6) (f : Account → Account) (s : State) :
    StationsAndAccount s (setAccount i f s) := by
  obtain ⟨h₁, h₂, h₃, h₄⟩ := setAccount_frame i f s
  have hst : (setAccount i f s).stations = s.stations := by
    have := congrArg (fun u : State => u.stations) h₁
    exact this
  refine ⟨?_, h₂, h₃, by rw [hst], fun k _ h => h₄ k h, fun hr => ?_⟩
  swap
  · rw [setAccount_outside hr]; exact ⟨rfl, rfl, rfl⟩
  have := congrArg (fun u : State => { u with stations := s.stations }) h₁
  exact this

theorem stationsAndAccount_reportEnd (i : Fin 6) (b : Bool) (o : SwitchEnd) (s : State) :
    StationsAndAccount s (reportEnd i b o s) := by
  unfold reportEnd reportSwitch
  split <;> first | exact stationsAndAccount_setAccount i _ s | exact StationsAndAccount.refl s

theorem stationsAndAccount_endSwitch (i : Fin 6) (o : SwitchEnd) (l : Option Nat) (s : State) :
    StationsAndAccount s (endSwitch i o l s) := by
  unfold endSwitch
  split
  · exact StationsAndAccount.refl s
  · exact (stationsAndAccount_setStation i _ s).trans (stationsAndAccount_reportEnd i _ _ _)

theorem stationsAndAccount_missSwitch (i : Fin 6) (kind : FaultKind) (s : State) :
    StationsAndAccount s (missSwitch i kind s) := by
  unfold missSwitch
  split
  · exact StationsAndAccount.refl s
  · exact (stationsAndAccount_endSwitch i _ _ s).trans (stationsAndAccount_stationFault i kind _ _ _)

theorem stationsAndAccount_classifySwitch (i : Fin 6) (cue : Option CueNo) (target : Option Nat)
    (fireTime : Option Nat) (rebuild : Bool) (s : State) :
    StationsAndAccount s (classifySwitch i cue target fireTime rebuild s) := by
  have quick : ∀ l, StationsAndAccount s (quickEnd i l rebuild s) := fun l =>
    (stationsAndAccount_setStation i _ s).trans (stationsAndAccount_reportEnd i _ _ _)
  unfold classifySwitch
  split
  · exact quick _
  · split
    · exact (quick _).trans (stationsAndAccount_stationFault i _ _ _ _)
    · split
      · exact quick _
      · exact stationsAndAccount_setStation i _ s

theorem stationsAndAccount_startSwitch (i : Fin 6) (cue : Option CueNo) (target : Option Nat)
    (fireTime : Option Nat) (rebuild : Bool) (s : State) :
    StationsAndAccount s (startSwitch i cue target fireTime rebuild s) := by
  unfold startSwitch
  split
  · split
    · exact stationsAndAccount_classifySwitch i cue target fireTime rebuild s
    · split
      · exact (stationsAndAccount_endSwitch i _ _ s).trans (stationsAndAccount_setStation i _ _)
      · exact ((stationsAndAccount_endSwitch i _ _ s).trans (stationsAndAccount_setStation i _ _)).trans
          (stationsAndAccount_classifySwitch i cue target fireTime rebuild _)
  · exact StationsAndAccount.refl s

theorem stationsAndAccount_stationStop (i : Fin 6) (s : State) : StationsAndAccount s (stationStop i s) := by
  unfold stationStop
  split
  · exact (stationsAndAccount_setStation i _ s).trans (stationsAndAccount_endSwitch i _ _ _)
  · exact StationsAndAccount.refl s

theorem stationsAndAccount_stationRestart (i : Fin 6) (s : State) : StationsAndAccount s (stationRestart i s) :=
  (stationsAndAccount_setStation i _ s).trans (stationsAndAccount_endSwitch i _ _ _)

/-- An order to all six stations leaves of everything else what each order leaves. -/
theorem stationsAndAccount_eachStation {f : Fin 6 → State → State} (h : ∀ i s, StationsAndAccount s (f i s))
    (s : State) : StationsAndAccount s (eachStation f s) := by
  have : ∀ (l : List (Fin 6)) (s : State), StationsAndAccount s (l.foldl (fun s i => f i s) s) := by
    intro l
    induction l with
    | nil => exact StationsAndAccount.refl
    | cons i l ih => intro s; exact (h i s).trans (ih _)
  exact this _ s

/-! ## What an order to one station reads, and what it leaves to the others -/

/-- The two states are the same for an order to station `i`: its record, the map, the time and the cue list. -/
structure SameFor (i : Fin 6) (s u : State) : Prop where
  left : s.stations.length = 6
  right : u.stations.length = 6
  station : u.station i = s.station i
  map : u.map = s.map
  now : u.now = s.now
  store : u.store = s.store

theorem SameFor.refl (i : Fin 6) {s : State} (h : s.stations.length = 6) : SameFor i s s := ⟨h, h, rfl, rfl, rfl, rfl⟩

theorem SameFor.symm {i : Fin 6} {s u : State} (h : SameFor i s u) : SameFor i u s :=
  ⟨h.right, h.left, h.station.symm, h.map.symm, h.now.symm, h.store.symm⟩

theorem SameFor.trans {i : Fin 6} {s u v : State} (h : SameFor i s u) (h' : SameFor i u v) : SameFor i s v :=
  ⟨h.left, h'.right, h'.station.trans h.station, h'.map.trans h.map, h'.now.trans h.now, h'.store.trans h.store⟩

/-- The same write of the station's record on both sides. -/
theorem SameFor.write {i : Fin 6} {s u : State} (h : SameFor i s u) {f g : Station → Station}
    (e : g (s.station i) = f (s.station i)) : SameFor i (s.setStation i f) (u.setStation i g) where
  left := by simp [h.left]
  right := by simp [h.right]
  station := by
    rw [station_setStation_same i g h.right, station_setStation_same i f h.left, h.station, e]
  map := h.map
  now := h.now
  store := h.store

/-- A write of another station's record. -/
theorem sameFor_setStation_other {i j : Fin 6} (hj : i ≠ j) (f : Station → Station) {s : State}
    (h : s.stations.length = 6) : SameFor i s (s.setStation j f) :=
  ⟨h, by simp [h], station_setStation_other s f hj, rfl, rfl, rfl⟩

/-- An operation that leaves the stations alone. -/
theorem sameFor_of_stations (i : Fin 6) {s u : State} (h : s.stations.length = 6) (e : StationsAndAccount s u)
    (hs : u.stations = s.stations) : SameFor i s u :=
  have r := e.rest
  ⟨h, by rw [hs, h], station_congr hs i, r.2.2.2.2.2.2.1, r.2.2.2.2.2.1, r.2.1⟩

theorem stations_reportEnd (i : Fin 6) (b : Bool) (o : SwitchEnd) (s : State) :
    (reportEnd i b o s).stations = s.stations := by
  have e : ∀ f, (setAccount i f s).stations = s.stations := fun f => by
    have := congrArg (fun u : State => u.stations) (setAccount_frame i f s).1
    exact this
  unfold reportEnd reportSwitch
  split <;> first | exact e _ | rfl

theorem sameFor_reportEnd (i j : Fin 6) (b : Bool) (o : SwitchEnd) {s : State} (h : s.stations.length = 6) :
    SameFor i s (reportEnd j b o s) :=
  sameFor_of_stations i h (stationsAndAccount_reportEnd j b o s) (stations_reportEnd j b o s)

theorem SameFor.report {i : Fin 6} {s u : State} (h : SameFor i s u) (b : Bool) (o : SwitchEnd) :
    SameFor i (reportEnd i b o s) (reportEnd i b o u) :=
  (sameFor_reportEnd i i b o h.left).symm.trans (h.trans (sameFor_reportEnd i i b o h.right))

theorem SameFor.fault {i : Fin 6} {s u : State} (h : SameFor i s u) (kind : FaultKind) (cue : Option CueNo)
    (patch : Option Nat) : SameFor i (stationFault i kind cue patch s) (stationFault i kind cue patch u) := by
  have w := h.write (f := fun st => { st with faults := st.faults.take { kind := kind, cue := cue, patch := patch, time := s.now } })
    (g := fun st => { st with faults := st.faults.take { kind := kind, cue := cue, patch := patch, time := u.now } })
    (by simp only [h.now])
  exact ⟨w.left, w.right, w.station, w.map, w.now, w.store⟩

theorem sameFor_stationFault_other {i j : Fin 6} (hj : i ≠ j) (kind : FaultKind) (cue : Option CueNo) (patch : Option Nat)
    {s : State} (h : s.stations.length = 6) : SameFor i s (stationFault j kind cue patch s) := by
  have w := sameFor_setStation_other hj
    (fun st => { st with faults := st.faults.take { kind := kind, cue := cue, patch := patch, time := s.now } }) h
  exact ⟨w.left, w.right, w.station, w.map, w.now, w.store⟩

theorem SameFor.endSwitch {i : Fin 6} {s u : State} (h : SameFor i s u) (o : SwitchEnd) (l : Option Nat) :
    SameFor i (endSwitch i o l s) (endSwitch i o l u) := by
  unfold Machine.endSwitch
  rw [h.station]
  split
  · exact h
  · exact (h.write (by rfl)).report _ _

theorem sameFor_endSwitch_other {i j : Fin 6} (hj : i ≠ j) (o : SwitchEnd) (l : Option Nat) {s : State}
    (h : s.stations.length = 6) : SameFor i s (endSwitch j o l s) := by
  unfold Machine.endSwitch
  split
  · exact .refl i h
  · exact (sameFor_setStation_other hj _ h).trans (sameFor_reportEnd i j _ _ (by simp [h]))

theorem SameFor.classifySwitch {i : Fin 6} {s u : State} (h : SameFor i s u) (cue : Option CueNo) (target : Option Nat)
    (fireTime : Option Nat) (rebuild : Bool) :
    SameFor i (classifySwitch i cue target fireTime rebuild s) (classifySwitch i cue target fireTime rebuild u) := by
  have quick : ∀ l, SameFor i (quickEnd i l rebuild s) (quickEnd i l rebuild u) := fun l => (h.write (by rfl)).report _ _
  unfold Machine.classifySwitch
  rw [h.map, h.station]
  split
  · exact quick _
  · split
    · exact (quick _).fault _ _ _
    · split
      · exact quick _
      · exact h.write (by rfl)

theorem sameFor_classifySwitch_other {i j : Fin 6} (hj : i ≠ j) (cue : Option CueNo) (target : Option Nat)
    (fireTime : Option Nat) (rebuild : Bool) {s : State} (h : s.stations.length = 6) :
    SameFor i s (classifySwitch j cue target fireTime rebuild s) := by
  have quick : ∀ l, SameFor i s (quickEnd j l rebuild s) := fun l =>
    (sameFor_setStation_other hj _ h).trans (sameFor_reportEnd i j _ _ (by simp [h]))
  unfold Machine.classifySwitch
  split
  · exact quick _
  · split
    · exact (quick _).trans (sameFor_stationFault_other hj _ _ _ (quick _).right)
    · split
      · exact quick _
      · exact sameFor_setStation_other hj _ h

/-- A switch target reads its own station, the map and the time. -/
theorem SameFor.startSwitch {i : Fin 6} {s u : State} (h : SameFor i s u) (cue : Option CueNo) (target : Option Nat)
    (fireTime : Option Nat) (rebuild : Bool) :
    SameFor i (startSwitch i cue target fireTime rebuild s) (startSwitch i cue target fireTime rebuild u) := by
  unfold Machine.startSwitch
  rw [h.station]
  split
  · split
    · exact h.classifySwitch _ _ _ _
    · split
      · exact (h.endSwitch _ _).write rfl
      · exact ((h.endSwitch _ _).write rfl).classifySwitch _ _ _ _
  · exact h

/-- A switch target leaves every other station as it was. -/
theorem sameFor_startSwitch_other {i j : Fin 6} (hj : i ≠ j) (cue : Option CueNo) (target : Option Nat)
    (fireTime : Option Nat) (rebuild : Bool) {s : State} (h : s.stations.length = 6) :
    SameFor i s (startSwitch j cue target fireTime rebuild s) := by
  have ended : ∀ f, SameFor i s ((endSwitch j .superseded none s).setStation j f) := fun f =>
    have e := sameFor_endSwitch_other hj .superseded none h
    e.trans (sameFor_setStation_other hj f e.right)
  unfold Machine.startSwitch
  split
  · split
    · exact sameFor_classifySwitch_other hj _ _ _ _ h
    · split
      · exact ended _
      · exact (ended _).trans (sameFor_classifySwitch_other hj _ _ _ _ (ended _).right)
  · exact .refl i h

/-- A preload recompute reads its own station, the map and the time. -/
theorem SameFor.recompute {i : Fin 6} {s u : State} (h : SameFor i s u) (keep : Bool) :
    SameFor i (recompute keep i s) (recompute keep i u) := by
  have choose : ∀ {s u : State}, SameFor i s u → SameFor i (choosePreload i s) (choosePreload i u) := by
    intro s u h
    unfold choosePreload deferPreload
    rw [h.station, h.map]
    dsimp only
    split
    · exact h.write (by rfl)
    · split
      · exact h.write (by rfl)
      · split
        · exact h.write (by rfl)
        · split
          · exact h.write (by rfl)
          · exact (h.write (by rfl)).fault _ _ _
  unfold Machine.recompute
  rw [h.station]
  split
  · split
    · exact choose h
    · exact choose (h.write (by rfl))
  · exact h

/-- A preload recompute does not look at the cue list. -/
theorem recompute_store (keep : Bool) (i : Fin 6) (s : State) (cs : CueStore) :
    recompute keep i { s with store := cs } = { recompute keep i s with store := cs } := by
  have choose : ∀ s : State, choosePreload i { s with store := cs } = { choosePreload i s with store := cs } := by
    intro s
    unfold choosePreload deferPreload
    rw [show ({ s with store := cs } : State).station i = s.station i from rfl]
    dsimp only
    split
    · rfl
    · split
      · rfl
      · split
        · rfl
        · split <;> rfl
  unfold recompute
  rw [show ({ s with store := cs } : State).station i = s.station i from rfl]
  split
  · split
    · exact choose s
    · exact choose (s.setStation i fun st => { st with failed := [] })
  · rfl

/-- A preload recompute leaves every other station as it was. -/
theorem sameFor_recompute_other {i j : Fin 6} (hj : i ≠ j) (keep : Bool) {s : State} (h : s.stations.length = 6) :
    SameFor i s (recompute keep j s) := by
  have f := (recompute_spec keep j h).frame
  have e := congrArg (fun u : State => (u.map, u.now, u.store)) f.2.2
  exact ⟨h, (recompute_spec keep j h).length, f.1 i hj, congrArg (·.1) e, congrArg (·.2.1) e, congrArg (·.2.2) e⟩

/-- The hand-over as one station takes it reads its own station, the map, the time and the list. -/
theorem SameFor.takeAhead {i : Fin 6} {s u : State} (h : SameFor i s u) (set : List CueNo) (latch : Option CueNo) :
    SameFor i (takeAhead set latch i s) (takeAhead set latch i u) :=
  (h.write (by simp only [h.store])).recompute false

theorem sameFor_takeAhead_other {i j : Fin 6} (hj : i ≠ j) (set : List CueNo) (latch : Option CueNo) {s : State}
    (h : s.stations.length = 6) : SameFor i s (takeAhead set latch j s) :=
  (sameFor_setStation_other hj _ h).trans (sameFor_recompute_other hj false (by simp [h]))

/-- After an order to all six stations, station `i` stands as its own order leaves it. -/
theorem sameFor_eachStation {f : Fin 6 → State → State} (i : Fin 6)
    (own : ∀ s u, SameFor i s u → SameFor i (f i s) (f i u))
    (others : ∀ j s, i ≠ j → s.stations.length = 6 → SameFor i s (f j s)) {s : State} (h : s.stations.length = 6) :
    SameFor i (f i s) (eachStation f s) := by
  have skip : ∀ (l : List (Fin 6)) (u v : State), i ∉ l → SameFor i u v → SameFor i u (l.foldl (fun s i => f i s) v) := by
    intro l
    induction l with
    | nil => intro u v _ h; exact h
    | cons j l ih =>
      intro u v hn h
      rw [List.mem_cons, not_or] at hn
      exact ih u _ hn.2 (h.trans (others j v hn.1 h.right))
  have go : ∀ (l : List (Fin 6)), l.Nodup → i ∈ l → ∀ v, SameFor i s v → SameFor i (f i s) (l.foldl (fun s i => f i s) v) := by
    intro l
    induction l with
    | nil => intro _ hi; cases hi
    | cons j l ih =>
      intro hn hi v hv
      obtain ⟨hj, hl⟩ := List.nodup_cons.mp hn
      by_cases e : i = j
      · subst e
        exact skip l _ _ hj (own _ _ hv)
      · exact ih hl ((List.mem_cons.mp hi).resolve_left e) _ (hv.trans (others j v e hv.right))
  have mem : ∀ i, i ∈ allStations := by decide
  exact go allStations (by decide) (mem i) s (.refl i h)

end Sys2Proof.Machine
end

