-- ==== Sys2Proof/Laws/Show.lean ====
section
/-! SUPPORT. What the shared operations of the Cue Sequencer and the Stop Controller can do, once. -/

namespace Sys2Proof.Machine

open Sys2Proof

/-! ## Next cue and look-ahead -/

/-- The next cue and the look-ahead set depend on the list and the Sequencer alone. -/
theorem nextCue_congr {s u : State} (h₁ : u.store = s.store) (h₂ : u.seq.pointer = s.seq.pointer)
    (h₃ : u.seq.current = s.seq.current) : nextCue u = nextCue s := by
  simp [nextCue, h₁, h₂, h₃]

/-- Before the first cue behind a test that only ever turns true, none passes it; from there on all do. -/
theorem find_increasing {cues : List Cue} (h : increasing cues = true) (f : CueNo → Bool)
    (mono : ∀ a b, cueLt a b = true → f a = true → f b = true) :
    ∃ before rest : List Cue, cues = before ++ rest ∧ (∀ c ∈ before, f c.number = false) ∧ (∀ c ∈ rest, f c.number = true)
      ∧ (∀ c, rest.head? = some c → ∀ d ∈ rest, cueLe c.number d.number = true)
      ∧ cues.find? (fun c => f c.number) = rest.head? ∧ cues.filter (fun c => f c.number) = rest := by
  have hp := increasing_pairwise h
  clear h
  induction cues with
  | nil => exact ⟨[], [], rfl, by simp, by simp, by simp, rfl, rfl⟩
  | cons x xs ih =>
    obtain ⟨hx, hxs⟩ := List.pairwise_cons.mp hp
    cases hf : f x.number with
    | true =>
      have all : ∀ c ∈ xs, f c.number = true := fun c hc => mono _ _ (hx c hc) hf
      refine ⟨[], x :: xs, rfl, by simp, ?_, ?_, ?_, ?_⟩
      · intro c hc
        rcases List.mem_cons.mp hc with rfl | hc
        · exact hf
        · exact all c hc
      · rintro c hc d hd
        cases hc
        rcases List.mem_cons.mp hd with rfl | hd
        · exact cueLe_refl _
        · exact cueLe_of_lt (hx d hd)
      · simp [hf]
      · rw [List.filter_cons_of_pos (by simpa using hf), List.filter_eq_self.mpr all]
    | false =>
      obtain ⟨before, rest, e, hb, hr, hh, hfind, hfil⟩ := ih hxs
      refine ⟨x :: before, rest, by rw [e]; rfl, ?_, hr, hh, ?_, ?_⟩
      · intro c hc
        rcases List.mem_cons.mp hc with rfl | hc
        · exact hf
        · exact hb c hc
      · rw [List.find?_cons, hf]; exact hfind
      · rw [List.filter_cons_of_neg (by simp [hf])]; exact hfil

/-- The cue after a current one, of a list in increasing order (R91). -/
theorem nextIs_afterCurrent {cues : List Cue} (h : increasing cues = true) (current : Option CueNo) :
    NextIs cues current (afterCurrent cues current) := by
  cases current with
  | none =>
    obtain ⟨before, rest, e, hb, -, hh, -, -⟩ := find_increasing h (fun _ => true) (fun _ _ _ _ => rfl)
    have : before = [] := List.eq_nil_iff_forall_not_mem.mpr fun c hc => by cases hb c hc
    subst this
    have e : cues = rest := e
    subst e
    unfold afterCurrent
    cases hd : cues.head? with
    | none =>
      have hn : cues = [] := List.head?_eq_none_iff.mp hd
      subst hn
      exact ⟨by simp, by simp⟩
    | some c =>
      refine ⟨fun m hm => ?_, by simp⟩
      obtain rfl : c.number = m := by simpa using hm
      exact ⟨⟨c, List.mem_of_mem_head? hd, rfl⟩, by simp, fun d hd' _ => hh c hd d hd'⟩
  | some k =>
    obtain ⟨before, rest, e, hb, hr, hh, hf, -⟩ := find_increasing h (fun n => cueLt k n) (fun a b hab ha => cueLt_trans ha hab)
    have es : afterCurrent cues (some k) = rest.head?.map (·.number) := by rw [← hf]; rfl
    rw [es]
    cases hd : rest.head? with
    | none =>
      have hn : rest = [] := List.head?_eq_none_iff.mp hd
      subst hn
      rw [List.append_nil] at e
      exact ⟨by simp, fun _ d hd => ⟨k, rfl, hb d (by rw [← e]; exact hd)⟩⟩
    | some c =>
      have mem : c ∈ rest := List.mem_of_mem_head? hd
      refine ⟨fun m hm => ?_, by simp⟩
      obtain rfl : c.number = m := by simpa using hm
      refine ⟨⟨c, by rw [e]; exact List.mem_append_right _ mem, rfl⟩, fun k' hk => by cases hk; exact hr c mem, ?_⟩
      intro d hd' hlt
      rw [e] at hd'
      rcases List.mem_append.mp hd' with hd' | hd'
      · have := hb d hd'
        rw [hlt k rfl] at this; cases this
      · exact hh c hd d hd'

/-- The look-ahead set of a list in increasing order: its first cues from the next cue on (R104). -/
theorem lookAhead_of_next {s : State} (h : increasing s.store.cues = true) {n : CueNo} (hn : nextCue s = some n) :
    ∃ before rest : List Cue, s.store.cues = before ++ rest ∧ (∀ c ∈ before, cueLt c.number n = true)
      ∧ (∀ c ∈ rest, cueLe n c.number = true)
      ∧ lookAhead s = (rest.map (·.number)).take s.seq.settings.lookAhead := by
  obtain ⟨before, rest, e, hb, hr, -, -, hf⟩ := find_increasing h (fun m => cueLe n m)
    (fun a b hab ha => cueLe_of_lt (cueLe_lt_trans ha hab))
  refine ⟨before, rest, e, fun c hc => by simpa [cueLe] using hb c hc, hr, ?_⟩
  simp only [lookAhead, hn, hf]

theorem lookAhead_congr {s u : State} (h₁ : u.store = s.store) (h₂ : u.seq.pointer = s.seq.pointer)
    (h₃ : u.seq.current = s.seq.current) (h₄ : u.seq.settings = s.seq.settings) : lookAhead u = lookAhead s := by
  simp [lookAhead, nextCue_congr h₁ h₂ h₃, h₁, h₄]

/-- The hand-over writes the look-ahead set, the stations and their condition. -/
theorem handOver_spec (s : State) :
    StationsOnly { s with seq := { s.seq with ahead := lookAhead s } } (handOver s) :=
  stationsOnly_eachStation (fun i u => stationsOnly_takeAhead _ _ i u) _

theorem handOver_rest (s : State) : { handOver s with stations := s.stations, attention := s.attention }
    = { s with seq := { s.seq with ahead := lookAhead s } } := by
  have h := (handOver_spec s).1
  generalize handOver s = u at *
  exact h

theorem handOver_seq (s : State) : (handOver s).seq = { s.seq with ahead := lookAhead s } := by
  have h := (handOver_spec s).1
  generalize handOver s = u at *
  have e := congrArg (fun v : State => v.seq) h
  exact e

theorem handOver_store (s : State) : (handOver s).store = s.store := by
  have h := (handOver_spec s).1
  generalize handOver s = u at *
  have e := congrArg (fun v : State => v.store) h
  exact e

/-- A state that differs in the stations and their condition alone, written out. -/
theorem StationsOnly.eq {s u : State} (h : StationsOnly s u) : ∃ st att,
    u = { s with stations := st, attention := att } ∧ st.length = s.stations.length
      ∧ ∀ k, k ≠ 1 → att[k]? = s.attention[k]? := by
  obtain ⟨h₁, h₂, h₃⟩ := h
  refine ⟨u.stations, u.attention, ?_, h₂, h₃⟩
  have := congrArg (fun v : State => { v with stations := u.stations, attention := u.attention }) h₁
  exact this

theorem StationsAndAccount.eq {s u : State} (h : StationsAndAccount s u) (hr : s.stop.st.rebuilds = false) :
    ∃ st att, u = { s with stations := st, attention := att } ∧ st.length = s.stations.length
      ∧ ∀ k, k ≠ 1 → att[k]? = s.attention[k]? := by
  obtain ⟨h₁, h₂⟩ := h.outside hr
  exact StationsOnly.eq ⟨h₁, h.2.2.2.1, h₂⟩

theorem handOver_eq (s : State) : ∃ st att,
    handOver s = { s with seq := { s.seq with ahead := lookAhead s }, stations := st, attention := att }
      ∧ st.length = s.stations.length ∧ ∀ k, k ≠ 1 → att[k]? = s.attention[k]? :=
  (handOver_spec s).eq

/-- What a hand-over leaves at station `i`, whose record stood in `v` as in `m`. -/
theorem targetsHanded_of {i : Fin 6} {m v u : State} (hm : m.stations.length = 6 → SameFor i m v)
    (hu : m.stations.length = 6 → SameFor i (takeAhead u.seq.ahead u.seq.latch i v) u) : TargetsHanded i m u := by
  intro hl
  have h := hm hl
  have w := hu hl
  have e := recompute_spec false i (s := v.setStation i fun st =>
    { st with ahead := u.seq.ahead.map (targetOf v.store.cues i)
              standbyTarget := u.seq.latch.map (targetOf v.store.cues i) }) (by simp [h.right])
  have st : u.station i = (recompute false i (v.setStation i fun st =>
      { st with ahead := u.seq.ahead.map (targetOf v.store.cues i)
                standbyTarget := u.seq.latch.map (targetOf v.store.cues i) })).station i := w.station
  have hs : u.store = v.store := w.store.trans (stationsOnly_recompute false i _).andAccount.rest.2.1
  have own := e.station
  rw [← st, station_setStation_same i _ h.right] at own
  have a : (u.station i).ahead = u.seq.ahead.map (targetOf v.store.cues i) := congrArg (fun st : Station => st.ahead) own
  have b : (u.station i).standbyTarget = u.seq.latch.map (targetOf v.store.cues i) :=
    congrArg (fun st : Station => st.standbyTarget) own
  refine ⟨⟨by rw [a, hs], by rw [b, hs]⟩, ?_⟩
  rw [a, b, st]
  exact ((h.write rfl).recompute false).station

/-- A hand-over gives each station its targets. -/
theorem targetsHanded_handOver (i : Fin 6) (s : State) : TargetsHanded i s (handOver s) := by
  have e := handOver_seq s
  refine targetsHanded_of (v := { s with seq := { s.seq with ahead := lookAhead s } })
    (fun h => ⟨h, h, rfl, rfl, rfl, rfl⟩) fun h => ?_
  rw [e]
  exact sameFor_eachStation i (fun _ _ h => h.takeAhead _ _) (fun _ _ hj h => sameFor_takeAhead_other hj _ _ h) h

/-- Targets stay handed where the Sequencer's set and latch, the list and the stations stay. -/
theorem TargetsHanded.congr {i : Fin 6} {m u v : State} (h : TargetsHanded i m u) (h₀ : v.seq.ahead = u.seq.ahead)
    (h₁ : v.seq.latch = u.seq.latch) (h₂ : v.store = u.store) (h₃ : v.stations = u.stations) : TargetsHanded i m v := by
  intro hl
  unfold TargetsHeld
  rw [h₀, h₁, h₂, station_congr h₃ i]
  exact h hl

/-- Targets handed from a state are handed from any with the same record of the station, map and time. -/
theorem TargetsHanded.from {i : Fin 6} {m m' u : State} (h : TargetsHanded i m u)
    (hl : m'.stations.length = 6 → m.stations.length = 6) (hs : m'.stations.length = 6 → m'.station i = m.station i)
    (hm : m'.map = m.map) (hn : m'.now = m.now) : TargetsHanded i m' u := by
  intro l
  obtain ⟨a, c⟩ := h (hl l)
  have e : SameFor i { m' with store := m.store } m := ⟨l, hl l, (hs l).symm, hm.symm, hn.symm, rfl⟩
  have r := recompute_store false i (m'.setStation i fun st =>
    { st with ahead := (u.station i).ahead, standbyTarget := (u.station i).standbyTarget }) m.store
  have w := congrArg (fun v : State => v.station i) r
  exact ⟨a, c.trans (((e.write rfl).recompute false).station.trans w)⟩

/-! ## Fires -/

theorem tempoHanded_eq (c : Cue) (s : State) : fireTempo (firesTracked c s) s.store.cues c = tempoHanded c s := rfl

/-- The switch target of a fire, as station `i` takes it. -/
theorem fireTarget_eq (c : Cue) (i : Fin 6) (s : State) : fireTarget (firesTracked c s) c i s = switchedBy c i s := by
  unfold fireTarget switchedBy cuePatch
  cases c.patches.find? fun a => a.station == i.val + 1 <;> rfl

theorem SameFor.fireTarget {i : Fin 6} {s u : State} (h : SameFor i s u) (tracked : Bool) (c : Cue) :
    SameFor i (fireTarget tracked c i s) (fireTarget tracked c i u) := by
  unfold Machine.fireTarget
  rw [h.store, h.now]
  split
  · exact h.startSwitch _ _ _ _
  · split
    · exact h.startSwitch _ _ _ _
    · exact h

theorem sameFor_fireTarget_other {i j : Fin 6} (hj : i ≠ j) (tracked : Bool) (c : Cue) {s : State}
    (h : s.stations.length = 6) : SameFor i s (Machine.fireTarget tracked c j s) := by
  unfold Machine.fireTarget
  split
  · exact sameFor_startSwitch_other hj _ _ _ _ h
  · split
    · exact sameFor_startSwitch_other hj _ _ _ _ h
    · exact .refl i h

/-- The orders of a fire to the stations. -/
theorem stationsAndAccount_fireTarget (tracked : Bool) (c : Cue) (i : Fin 6) (s : State) :
    StationsAndAccount s (fireTarget tracked c i s) := by
  unfold fireTarget
  split
  · exact stationsAndAccount_startSwitch _ _ _ _ _ _
  · split
    · exact stationsAndAccount_startSwitch _ _ _ _ _ _
    · exact StationsAndAccount.refl s

/-- The clock parts of a fire on a clock that is not IDLE: they start nothing and commit nothing (R11, R17). -/
theorem clockFire_running {cue : CueNo} {b : Option Nat} {r : Option TempoRecord} {v : Option VampBars} {s : State}
    (h : s.clock.st ≠ .idle) :
    clockFire cue b r v s = ({ s with clock := { s.clock with
        position := { s.clock.position with cue := some cue }
        barSet := b.or s.clock.barSet
        pendingRec := r.or s.clock.pendingRec
        vamp := vampAfterFire v s.clock.position.bar s.clock.vamp } }, Committed.nothing) := by
  have hv : ∀ c : BeatClock, c.vamp = s.clock.vamp → c.position.bar = s.clock.position.bar →
      (match v with
        | some v => match vampTestBar false c with
          | some b => dropAbove b (some { first := v.first, last := v.last, loops := 0, release := false })
          | none => some { first := v.first, last := v.last, loops := 0, release := false }
        | none => c.vamp.map fun v => { v with release := true })
        = vampAfterFire v s.clock.position.bar s.clock.vamp := by
    intro c h₁ h₂
    cases v with
    | none => simp [vampAfterFire, h₁]
    | some v =>
      simp only [vampTestBar, vampAfterFire, h₂]
      cases s.clock.position.bar with
      | none => simp
      | some b =>
        by_cases hb : b ≤ v.last
        · have : ¬ v.last < b := by omega
          simp [dropAbove, Option.filter, hb, this]
        · have : v.last < b := by omega
          simp [dropAbove, Option.filter, hb, this]
  cases b <;> cases r <;> simp [clockFire, clockBarSet, clockTempo, State.setClock, clockVamp, h] <;>
    exact hv _ rfl rfl

/-- What a fire leaves beside the clock stands where only clock, follower and BEAT_LOCK move on. -/
theorem FiresBesideClock.moved {c : Cue} {src : FireSource} {s m u : State} (h : FiresBesideClock c src s m)
    (e : { u with clock := m.clock, follower := m.follower, attention := m.attention } = m)
    (ha : ∀ k, k ≠ 3 → u.attention[k]? = m.attention[k]?) : FiresBesideClock c src s u := by
  obtain ⟨h₁, h₂, h₃, h₄, h₅, h₆, h₇⟩ := h
  have g : ∀ {α : Type} (f : State → α), f { u with clock := m.clock, follower := m.follower, attention := m.attention } = f m :=
    fun f => congrArg f e
  have seq : u.seq = m.seq := g (·.seq)
  have store : u.store = m.store := g (·.store)
  have la : lookAhead u = lookAhead m :=
    lookAhead_congr store (by rw [seq]) (by rw [seq]) (by rw [seq])
  refine ⟨?_, ?_, ?_, fun i => (h₄ i).congr ?_ ?_ store (g (·.stations)), ?_, fun k a b d => ?_, ?_⟩
  · rw [la, seq]; exact h₁
  · exact (g (·.channels)).trans h₂
  · exact (g (·.video)).trans h₃
  · rw [seq]
  · rw [seq]
  · exact (ha 6 (by decide)).trans h₅
  · exact (ha k b).trans (h₆ k a b d)
  · rw [← e] at h₇; exact h₇

/-- A fire outside a rebuild does to everything but the Beat Clock what R101 and R102 say, and then hands it its parts. -/
theorem fireCue_spec (c : Cue) (src : FireSource) (s : State) (hr : s.stop.st.rebuilds = false) :
    ∃ m : State, FiresBesideClock c src s m ∧ m.clock = s.clock ∧ m.follower = s.follower
      ∧ m.attention[3]? = s.attention[3]?
      ∧ fireCue c src s = clockFire c.number c.barSet (tempoHanded c s) c.vamp m := by
  unfold fireCue
  dsimp only
  generalize hs0 : clearLatch (s.setSeq fun q =>
    { q with current := some c.number, pointer := none, timer := .idle }) = s0
  have e0 : s0 = { s with
      seq := { s.seq with current := some c.number, pointer := none, latch := none, timer := .idle }
      video := { s.video with content := { s.video.content with standby := none } } } := by
    rw [← hs0]; rfl
  have switched : ∀ i, switchedBy c i s = fireTarget (firesTracked c s) c i s := fun i => (fireTarget_eq c i s).symm
  unfold FiresBesideClock
  simp only [switched, ← tempoHanded_eq]
  generalize ht : firesTracked c s = tr
  obtain ⟨chs, ch, hchs⟩ : ∃ chs, (if tr then clickTracked c.number s0 else clickFire c s0) = { s0 with channels := chs }
      ∧ chs = (if tr then clickTracked c.number s else clickFire c s).channels := by
    cases tr <;> exact ⟨_, rfl, by rw [e0]; rfl⟩
  unfold fireRigs
  dsimp only
  rw [ch]
  generalize hs1 : videoFire c.number (if tr then some (captionAt s0.store.cues c.number) else c.caption)
    { s0 with channels := chs } = s1
  have own : ∀ i, s.stations.length = 6 → SameFor i (fireTarget tr c i s) (eachStation (fireTarget tr c) s1) := by
    intro i hl
    have b : SameFor i s s1 := by rw [← hs1, e0]; exact ⟨hl, hl, rfl, rfl, rfl, rfl⟩
    exact (b.fireTarget tr c).trans (sameFor_eachStation i (fun _ _ h => h.fireTarget tr c)
      (fun _ _ hj h => sameFor_fireTarget_other hj tr c h) b.right)
  have len : ∀ i, (fireTarget tr c i s).stations.length = s.stations.length := fun i =>
    (stationsAndAccount_fireTarget tr c i s).2.2.2.1
  obtain ⟨st, att, e1, -, a1⟩ := (stationsAndAccount_eachStation
    (fun i u => stationsAndAccount_fireTarget tr c i u) s1).eq (by rw [← hs1, e0]; exact hr)
  rw [e1] at own ⊢
  generalize hs2 : ({ s1 with stations := st, attention := att } : State) = s2 at own ⊢
  generalize hs3 : (s2.setSeq fun q => { q with timer := timerFor s2.store.cues (nextCue s2) s2.now }) = s3
  have handed : ∀ i, TargetsHanded i (fireTarget tr c i s) (handOver s3) := fun i =>
    have o (hl : (fireTarget tr c i s).stations.length = 6) := own i (by rw [← len i]; exact hl)
    have r := (stationsAndAccount_fireTarget tr c i s).rest
    (targetsHanded_handOver i s3).from (fun hl => by rw [← hs3]; exact (o hl).right)
      (fun hl => by rw [← hs3]; exact (o hl).station.symm)
      (by rw [← hs3, ← hs2, ← hs1, e0]; exact r.2.2.2.2.2.2.1) (by rw [← hs3, ← hs2, ← hs1, e0]; exact r.2.2.2.2.2.1)
  obtain ⟨st3, att3, e3, -, a3⟩ := handOver_eq s3
  rw [e3] at handed ⊢
  generalize hs4 : ({ s3 with seq := { s3.seq with ahead := lookAhead s3 }, stations := st3, attention := att3 } : State)
    = s4 at handed ⊢
  generalize hs5 : raise (.cueFired c.number src) (s4.setSeq fun q =>
    { q with lastFire := some { cue := c.number, source := src, time := s4.now, tracked := tr } }) = s5
  obtain ⟨k1, k2, k3, k4⟩ : s2.seq = { s.seq with
        current := some c.number, pointer := none, latch := none, timer := .idle }
      ∧ s2.store = s.store ∧ s2.now = s.now ∧ s2.channels = chs := by
    rw [← hs2, ← hs1, e0]; exact ⟨rfl, rfl, rfl, rfl⟩
  have nx : nextCue s2 = afterCurrent s.store.cues (some c.number) := by simp [nextCue, k1, k2]
  have k6 : s2.video = { s.video with content := { s.video.content with
      cue := some c.number, standby := none
      caption := if tr then captionAt s.store.cues c.number else c.caption.getD s.video.content.caption } } := by
    rw [← hs2, ← hs1, e0]; cases tr <;> rfl
  have ka : ∀ k, k ≠ 1 → att3[k]? = s.attention[k]? := by
    intro k hk
    refine (a3 k hk).trans ?_
    rw [← hs3, ← hs2]
    refine (a1 k hk).trans ?_
    rw [← hs1, e0]; rfl
  have la : lookAhead s5 = lookAhead s3 := by
    rw [← hs5, ← hs4]; exact lookAhead_congr rfl rfl rfl rfl
  refine ⟨s5, ⟨?_, ?_, ?_, fun i => (handed i).congr ?_ ?_ ?_ ?_, ?_, ?_, ?_⟩, ?_, ?_, ?_, ?_⟩
  · rw [la, ← hs5, ← hs4, ← hs3]
    simp only [raise, State.setSeq, nx, k1, k2, k3]
    rfl
  · rw [← hs5, ← hs4, ← hs3, ← hchs]; exact k4
  · rw [← hs5, ← hs4, ← hs3]; exact k6
  · rw [← hs5]; rfl
  · rw [← hs5]; rfl
  · rw [← hs5]; rfl
  · rw [← hs5]; rfl
  · rw [← hs5, ← hs4, ← hs3]
    simp [raise, CondRecord.place, k3, ka 6 (by decide)]
  · intro k h1 _ h6
    rw [← hs5, ← hs4]
    simp [raise, CondRecord.place, Ne.symm h6, ka k h1]
  · rw [← hs5, ← hs4, ← hs3, ← hs2, ← hs1, e0]; rfl
  · rw [← hs5, ← hs4, ← hs3, ← hs2, ← hs1, e0]; rfl
  · rw [← hs5, ← hs4, ← hs3, ← hs2, ← hs1, e0]; rfl
  · rw [← hs5, ← hs4]
    simp [raise, CondRecord.place, ka 3 (by decide)]
  · have : s5.store = s.store := by rw [← hs5, ← hs4, ← hs3]; exact k2
    rw [this]

/-- A fire on a clock that is not IDLE, outside a rebuild, commits nothing, and does what R101 and R102 say. -/
theorem fireCue_running (c : Cue) (src : FireSource) (s : State) (hc : s.clock.st ≠ .idle)
    (hr : s.stop.st.rebuilds = false) :
    (fireCue c src s).2 = Committed.nothing ∧ Fires c src s (fireCue c src s).1 := by
  obtain ⟨m, h, hk, hf, ha, e⟩ := fireCue_spec c src s hr
  rw [e, clockFire_running (by rw [hk]; exact hc)]
  refine ⟨rfl, h.moved rfl (fun _ _ => rfl), ?_, hf, ha⟩
  simp only [hk]
  rfl

/-! ## The stop state -/

theorem stationsAndAccount_stationRebuild (n : CueNo) (i : Fin 6) (s : State) :
    StationsAndAccount s (stationRebuild n i s) := stationsAndAccount_startSwitch _ _ _ _ _ _

/-- The end of a ramp at a freeze touches the ramp, the period and the band (R16). -/
theorem endRamp_spec (s : State) : ∃ g p b x, endRamp s = { s with
    clock := { s.clock with ramp := none, gov := g, period := p }
    follower := { s.follower with band := b, clamped := x } } ∨ endRamp s = s := by
  unfold endRamp
  split
  · dsimp only
    split
    · exact ⟨_, _, _, _, .inl rfl⟩
    · exact ⟨_, _, s.follower.band, s.follower.clamped, .inl rfl⟩
  · exact ⟨none, none, none, true, .inr rfl⟩

/-- The stop order to the clock (R25): the clock and the follower alone, and what it keeps of them. -/
theorem clockStop_spec (s : State) : ∃ k f, clockStop s = { s with clock := k, follower := f }
    ∧ (s.clock.st.beats = false → f = s.follower)
    ∧ (f.st = s.follower.st ∧ f.accepted = s.follower.accepted ∧ f.rejected = s.follower.rejected
      ∧ f.missed = s.follower.missed ∧ f.settings = s.follower.settings)
    ∧ (k.st = (if s.clock.st = .idle then .idle else .frozen) ∧ k.holdArmed = false
      ∧ (s.clock.st.beats = true → k.next = none) ∧ k.position = s.clock.position
      ∧ k.vamp = s.clock.vamp.map (fun x => { x with release := false }) ∧ k.spacing = s.clock.spacing
      ∧ k.pendingRec = s.clock.pendingRec ∧ k.barSet = s.clock.barSet ∧ k.lastShowBar = s.clock.lastShowBar
      ∧ k.lead = s.clock.lead) := by
  unfold clockStop
  dsimp only
  by_cases hb : s.clock.st.beats = true
  · have hne : ¬ s.clock.st = .idle := by intro h; rw [h] at hb; cases hb
    rw [if_pos hb]
    unfold clockFreezes
    obtain ⟨g, p, b, x, e | e⟩ := endRamp_spec s <;> rw [e] <;>
      exact ⟨_, _, rfl, fun h => by simp [h] at hb, ⟨rfl, rfl, rfl, rfl, rfl⟩, by simp [followerFreeze, hne], rfl,
        fun _ => rfl, rfl, rfl, rfl, rfl, rfl, rfl, rfl⟩
  · rw [if_neg hb]
    refine ⟨_, _, rfl, fun _ => rfl, ⟨rfl, rfl, rfl, rfl, rfl⟩, ?_, rfl, fun h => absurd h hb, rfl, rfl, rfl, rfl,
      rfl, rfl, rfl⟩
    revert hb
    cases s.clock.st <;> simp [ClockSt.beats]

/-- A beat that no AT_BAR cue waits for leaves the Sequencer alone (R98). -/
theorem takeBeat_none {s : State} {r : BeatRec} (h : ∀ n c, nextCue s = some n → findCue s.store.cues n = some c →
    c.trigger ≠ .atBar r.bar r.beat) : takeBeat r s = s := by
  have e : atBarCue r s = none := by
    unfold atBarCue
    split
    · simp only [Option.filter_eq_none_iff]
      intro c hc
      cases hn : nextCue s with
      | none => simp [hn] at hc
      | some n => simp [hn] at hc; simpa using h n c hn hc
    · rfl
  unfold takeBeat
  rw [e]

/-- No beat is committed before its time (R4). -/
theorem commitIfDue_early {s : State} (h : ∀ d, commitDue s = some d → s.now < d) :
    commitIfDue s = (s, Committed.nothing) := by
  unfold commitIfDue
  cases hd : commitDue s with
  | none => rfl
  | some d =>
    have := h d hd
    simp only
    rw [if_neg (by omega)]

theorem windowAccount_free {s : State} (t : Nat) (h : s.follower.st = .free) : windowAccount t s = s := by
  simp [windowAccount, keepsWindows, h]

theorem clickCommit_conducted {r : BeatRec} (s : State) (h : r.mode = .conducted) : clickCommit r s = s := by
  simp [clickCommit, h]

theorem clickCommit_other {r : BeatRec} (s : State) (h : r.mode ≠ .conducted) :
    clickCommit r s = { s with channels := s.channels.map (scheduleChannel r s.clock.lead) } := by
  unfold clickCommit
  cases hm : r.mode <;> first | rfl | exact absurd hm h

theorem afterCommit_nothing (s : State) : afterCommit (s, Committed.nothing) = s := rfl

/-! ## Starts of the clock -/

/-- The window account of a commit behind which no window stands open (R34). -/
theorem windowAccount_closed {s : State} (t : Nat) (h : ∀ l, s.follower.last = some l → l.isOpen = false) :
    windowAccount t s = { s with follower := windowOpened t s.follower } := by
  have hc : closeWindow s = s := by
    unfold closeWindow
    cases hl : s.follower.last with
    | none => rfl
    | some l => simp [h l hl]
  unfold windowAccount windowOpened keepsWindows
  rw [hc]
  cases hf : s.follower.st <;> simp [State.setFollower, hf]

/-- A beat committed under a FIXED or FOLLOW record, no window standing open (R4, R5, R6, R18). -/
theorem commitAs_spec {g : Governing} {s : State} {p : Nat} (t bar beat : Nat) (phase : Phase) (hg : s.clock.gov = some g)
    (hm : g.record.mode ≠ .conducted) (hp : s.clock.period = some p)
    (hw : ∀ l, s.follower.last = some l → l.isOpen = false) :
    ∃ (u : State) (r : BeatRec), r = { showBeat g s.clock s.now t bar beat with phase := phase }
      ∧ commitAs t bar beat phase s
        = (u, { beat := some r, held := none, countInEnd := s.clock.st == .countingIn && phase == .inShow })
      ∧ (phase = .inShow → u.clock = showWritten s.clock s.follower t bar beat (some p)
          (showNext (some (t + p)) g.record.meter bar beat))
      ∧ (∀ n, phase = .countIn n → u.clock = beatWritten s.clock s.follower t bar beat phase (some p)
          { time := some (t + p), kind := if n < (s.clock.start.map (·.beats)).getD 0 then .countIn (n + 1) else .down })
      ∧ u.follower = windowOpened t s.follower
      ∧ u.channels = s.channels.map (scheduleChannel r s.clock.lead)
      ∧ FlashPending s.now s.clock.lead t false
          { bar := bar, beat := beat, pass := (s.clock.vamp.map (·.loops)).getD 0, phase := phase
            tempo := displayedTempo (some p) } s.video u.video
      ∧ { u with clock := s.clock, follower := s.follower, channels := s.channels, video := s.video } = s := by
  generalize hr : ({ showBeat g s.clock s.now t bar beat with phase := phase } : BeatRec) = r
  have hb : beatRecord g s.clock s.now t bar beat phase = r := by
    rw [← hr]
    unfold beatRecord periodField showBeat
    cases hmode : g.record.mode <;> first | exact absurd hmode hm | rfl
  have hrm : r.mode ≠ .conducted := by rw [← hr]; exact hm
  have hct : (r.mode == TempoMode.conducted) = false := by simpa using hrm
  have ht : nextTime g (some p) t = some (t + p) := by
    unfold nextTime
    cases hmode : g.record.mode <;> first | exact absurd hmode hm | rfl
  have e : commitAs t bar beat phase s = (videoCommit r { writeBeat g r s with
        follower := windowOpened t s.follower, channels := s.channels.map (scheduleChannel r s.clock.lead) },
      { beat := some r, held := none, countInEnd := s.clock.st == .countingIn && phase == .inShow }) := by
    unfold commitAs
    simp only [hg, hb]
    rw [windowAccount_closed (s := writeBeat g r s) t hw, clickCommit_other _ hrm]
    rfl
  refine ⟨_, r, rfl, e, ?_, ?_, rfl, rfl, ?_, rfl⟩
  all_goals simp only [videoCommit, State.setVideo, hct]
  · rintro rfl
    rw [← hr]
    simp [writeBeat, State.setClock, showWritten, beatWritten, showBeat, showNext, nextKind, ht, hp]
  · rintro n rfl
    rw [← hr]
    simp [writeBeat, State.setClock, beatWritten, showBeat, nextKind, ht, hp]
  · rw [← hr, ← hp]; rfl

/-- A fire that hands an IDLE clock no record to start with leaves it IDLE (R11). -/
theorem clockFire_stays {cue : CueNo} {b : Option Nat} {r : Option TempoRecord} {v : Option VampBars} {s : State}
    (h : s.clock.st = .idle) (hr : ∀ x, r = some x → x.mode = .tacet) :
    clockFire cue b r v s = ({ s with clock := { s.clock with
        position := { s.clock.position with cue := some cue }
        barSet := b.or s.clock.barSet
        vamp := vampAfterFire v s.clock.position.bar s.clock.vamp } }, Committed.nothing) := by
  have hn : clockFire cue b r v s = clockFire cue b none v s := by
    cases r with
    | none => rfl
    | some x => cases b <;> simp [clockFire, clockBarSet, clockTempo, State.setClock, h, hr x rfl]
  rw [hn]
  have run := clockFire_running (cue := cue) (b := b) (r := none) (v := v)
    (s := { s with clock := { s.clock with st := .running } }) (by simp)
  cases b <;> simp [clockFire, clockBarSet, clockTempo, State.setClock, clockVamp] at run ⊢ <;> exact run

/-- The vamp of a fire on a clock whose start gives bar `b`. -/
theorem vampAfter_eq (v : Option VampBars) (b : Nat) (armed : Option Vamp) :
    (match v with
      | some v => dropAbove b (some { first := v.first, last := v.last, loops := 0, release := false })
      | none => armed.map fun v => { v with release := true }) = vampAfterFire v (some b) armed := by
  cases v with
  | none => rfl
  | some v =>
    by_cases hb : b ≤ v.last
    · have : ¬ v.last < b := by omega
      simp [vampAfterFire, dropAbove, Option.filter, hb, this]
    · have : v.last < b := by omega
      simp [vampAfterFire, dropAbove, Option.filter, hb, this]

/-- The follower enters FREE, and nothing else changes but BEAT_LOCK (R31). -/
theorem enterFree_spec (s : State) :
    FollowerFreed s (enterFree s) ∧ { enterFree s with follower := s.follower, attention := s.attention } = s
      ∧ ∀ k, k ≠ 3 → (enterFree s).attention[k]? = s.attention[k]? := by
  by_cases hf : s.follower.st = .free
  · have e : enterFree s = { s with follower := { s.follower with
        st := .free, band := none, coasting := false, clamped := false, push := none, good := 0, rejectedRun := 0
        missedRun := 0, fastLeft := 0, nextMatched := false
        last := s.follower.last.map fun l => { l with isOpen := false } } } := by
      simp [enterFree, followerGoes, followerFreeze, State.setFollower, hf]
    rw [e]
    exact ⟨⟨rfl, by rw [if_pos hf]⟩, rfl, fun _ _ => rfl⟩
  · have e : enterFree s = raise (.beatLock .free) { s with follower := { s.follower with
        st := .free, band := none, coasting := false, clamped := false, push := none, good := 0, rejectedRun := 0
        missedRun := 0, fastLeft := 0, nextMatched := false
        last := s.follower.last.map fun l => { l with isOpen := false } } } := by
      simp [enterFree, followerGoes, followerFreeze, State.setFollower, hf, raise]
    rw [e]
    refine ⟨⟨rfl, ?_⟩, rfl, fun k hk => ?_⟩
    · rw [if_neg hf]; simp [raise, CondRecord.place]
    · simp [raise, CondRecord.place, Ne.symm hk]

/-- The follower that is told the record of a start (R31). -/
theorem tellRecord_start (g : Governing) (s : State) :
    FollowerTold g s (tellRecord true g s)
      ∧ { tellRecord true g s with follower := s.follower, attention := s.attention } = s
      ∧ ∀ k, k ≠ 3 → (tellRecord true g s).attention[k]? = s.attention[k]? := by
  by_cases hm : g.record.mode = .follow
  · by_cases hs : s.follower.st = .seeking
    · have e : tellRecord true g s = { s with
          follower := { s.follower.afresh with band := some (bandAround g.marked g.record.band) } } := by
        simp [tellRecord, hm, enterSeeking, followerGoes, State.setFollower, hs, Follower.afresh]
      rw [e]
      exact ⟨⟨fun _ => ⟨rfl, by rw [if_pos hs]⟩, fun h => absurd hm h⟩, rfl, fun _ _ => rfl⟩
    · have e : tellRecord true g s = (raise (.beatLock .seeking) { s with
          follower := { s.follower.afresh with band := some (bandAround g.marked g.record.band) } }) := by
        simp [tellRecord, hm, enterSeeking, followerGoes, State.setFollower, hs, raise, Follower.afresh]
      rw [e]
      refine ⟨⟨fun _ => ⟨rfl, ?_⟩, fun h => absurd hm h⟩, rfl, fun k hk => ?_⟩
      · rw [if_neg hs]; simp [raise, CondRecord.place]
      · simp [raise, CondRecord.place, Ne.symm hk]
  · have e : tellRecord true g s = enterFree s := by
      unfold tellRecord
      cases h : g.record.mode <;> simp
      exact absurd h hm
    rw [e]
    obtain ⟨a, b, c⟩ := enterFree_spec s
    exact ⟨⟨fun h => absurd h hm, fun _ => a⟩, b, c⟩

/-- A fire that hands an IDLE clock a record other than TACET starts it, and its first beat is committed if it is due (R17). -/
theorem clockFire_starts (c : Cue) {r : TempoRecord} {s : State} (h : s.clock.st = .idle) (hm : r.mode ≠ .tacet) :
    ∃ m : State, clockFire c.number c.barSet (some r) c.vamp s = commitIfDue m
      ∧ m.clock = clockStarted c r s.now s.clock ∧ FollowerTold (freshGoverning r) s m
      ∧ { m with clock := s.clock, follower := s.follower, attention := s.attention } = s
      ∧ ∀ k, k ≠ 3 → m.attention[k]? = s.attention[k]? := by
  generalize hk : ({ s with clock := { clockStarted c r s.now s.clock with vamp := s.clock.vamp } } : State) = k
  have e : clockTempo (some r) (clockBarSet c.barSet (s.setClock fun k =>
      { k with position := { k.position with cue := some c.number } })) = (tellRecord true (freshGoverning r) k, true) := by
    rw [← hk]
    cases hb : c.barSet <;> cases hs : s.clock.barSet <;> cases hl : s.clock.lastShowBar <;>
      simp [clockTempo, clockBarSet, State.setClock, h, hm, startClock, clockStarted, startBar, firstBeat, startingBar,
        freshGoverning, hb, hs, hl, nextBar, Config.maxBar, Config.minSpacing]
  obtain ⟨a, b, d⟩ := tellRecord_start (freshGoverning r) k
  generalize hu : tellRecord true (freshGoverning r) k = u at *
  have uc : u.clock = { clockStarted c r s.now s.clock with vamp := s.clock.vamp } := by
    have := congrArg (fun u : State => u.clock) b
    rw [← hk] at this; exact this
  refine ⟨clockVamp c.vamp true u, ?_, ?_, ?_, ?_, ?_⟩
  · unfold clockFire
    dsimp only
    rw [e]
    rfl
  · have v := vampAfter_eq c.vamp (startBar c s.clock) s.clock.vamp
    simp only [clockVamp, State.setClock, uc]
    rw [show vampTestBar true { clockStarted c r s.now s.clock with vamp := s.clock.vamp } = some (startBar c s.clock) from rfl]
    exact congrArg (fun x => ({ clockStarted c r s.now s.clock with vamp := x } : BeatClock)) v
  · rw [← hk] at a; exact a
  · rw [← hk] at b
    have := congrArg (fun v : State => { v with clock := s.clock }) b
    exact this
  · rw [← hk] at d; exact d

/-- The first beat of a start is committed at once (R17, R19): for a clock whose next beat is due now, under a record that is
not CONDUCTED, with no window open. -/
theorem firstBeat_committed {m : State} {g : Governing} {bar bars beats p t : Nat} {ramps : Bool} (hg : m.clock.gov = some g)
    (hm : g.record.mode ≠ .conducted) (hp : m.clock.period = some p) (ht : t - m.clock.lead ≤ m.now)
    (hst : m.clock.st = if bars = 0 then .running else .countingIn)
    (hn : m.clock.next = some { time := some t, kind := if bars = 0 then .down else .countIn 1 })
    (hs : m.clock.start = some { bar := bar, beats := beats, ramp := ramps }) (hb : beats = bars * g.record.meter)
    (hw : ∀ l, m.follower.last = some l → l.isOpen = false)
    (h₀ : bars = 0 → m.clock.holdArmed = false ∧ m.clock.pendingRec = none ∧ ramps = false ∧ m.clock.ramp = none) :
    ∃ u b, commitIfDue m = (u, { beat := some b, held := none, countInEnd := false })
      ∧ b.bar = (if bars = 0 then m.clock.barSet.getD bar else bar) ∧ b.beat = 1 ∧ (1 ≤ bars → b.phase ≠ .inShow)
      ∧ (bars = 0 → b.phase = .inShow)
      ∧ FirstBeatCommitted g bars (if bars = 0 then m.clock.barSet.getD bar else bar) t m u := by
  have bt : m.clock.st.beats = true := by rw [hst]; by_cases h : bars = 0 <;> simp [h, ClockSt.beats]
  have due : commitIfDue m = reachBeat t m := by
    simp [commitIfDue, commitDue, bt, hn, ht, commitScheduled]
  rw [due]
  by_cases h : bars = 0
  · obtain ⟨ha, hpn, hr, hx⟩ := h₀ h
    simp only [if_pos h] at hst hn ⊢
    generalize hbar : m.clock.barSet.getD bar = first
    generalize hq : ({ m.clock with
      barSet := none, vamp := m.clock.vamp.filter fun v => decide (first ≤ v.last) } : BeatClock) = q
    obtain ⟨u, b, hb', e, sh, -, fo, ch, fl, rest⟩ := commitAs_spec (g := g) (s := { m with clock := q })
      (p := p) t first 1 .inShow (by rw [← hq]; exact hg) hm (by rw [← hq]; exact hp) hw
    have decided : decideBar m.clock = (first, m.clock.vamp.filter fun v => decide (first ≤ v.last)) := by
      rw [← hbar]
      cases hbs : m.clock.barSet <;> simp [decideBar, hbs, hs, dropAbove]
    have down : reachBeat t m = (u, { beat := some b, held := none, countInEnd := false }) := by
      have qs : q.st = .running := by rw [← hq]; exact hst
      rw [qs] at e
      rw [show false = (ClockSt.running == .countingIn && Phase.inShow == .inShow) from rfl, ← e]
      simp only [reachBeat, hn, reachDown, ha, hpn, Option.map_none, commitDown, hs, hg, hr]
      simp only [Option.map_some, Option.getD_some, Bool.false_eq_true, if_false, reduceCtorEq, decided, rampStep, hx,
        State.setClock, ← hq]
    refine ⟨u, b, down, by rw [hb']; rfl, by rw [hb']; rfl, fun h' => by omega, fun _ => by rw [hb'], q,
      by rw [if_pos h, hq], ?_, fo, fun h' => by omega, fun _ => ?_, ?_⟩
    · rw [if_pos h]; rw [show q.period = m.clock.period by rw [← hq]]; rw [hp]
      rw [show q.lead = m.clock.lead by rw [← hq]]
      rw [show (({ m with clock := q } : State)).clock.lead = m.clock.lead by rw [← hq]] at fl
      exact fl
    · have qp : q.period = some p := by rw [← hq]; exact hp
      rw [qp]
      refine ⟨sh rfl, ?_⟩
      rw [ch, hb']; rfl
    · have := congrArg (fun u : State => { u with clock := m.clock }) rest
      exact this
  · simp only [if_neg h] at hst hn ⊢
    obtain ⟨u, b, hb', e, -, ci, fo, ch, fl, rest⟩ := commitAs_spec (g := g) (s := m) (p := p)
      t bar 1 (.countIn 1) hg hm hp hw
    have beat : reachBeat t m = commitAs t bar 1 (.countIn 1) m := by
      simp [reachBeat, hn, hs, countInPlace]
    rw [beat]
    refine ⟨u, b, by rw [e]; simp, by rw [hb']; rfl, by rw [hb']; rfl, fun _ => by rw [hb']; simp, fun h' => absurd h' h, m.clock,
      by rw [if_neg h], ?_, fo, ?_, fun h' => absurd h' h, rest⟩
    · rw [if_neg h, hp]; exact fl
    · intro _
      rw [hp]
      refine ⟨?_, ?_⟩
      · rw [ci 1 rfl, hs, hb]; rfl
      · rw [ch, hb']; simp [countInBeat, showBeat]

/-- A fire by number that commits nothing, and one that commits the first beat of a start (R98). -/
theorem fire_quiet {n : CueNo} {c : Cue} {src : FireSource} {s u : State} {k : Committed}
    (hc : findCue s.store.cues n = some c) (h : fireCue c src s = (u, k)) (hk : k.beat = none) : fire n src s = u := by
  simp only [fire, hc, h, hk]

theorem fire_beat {n : CueNo} {c : Cue} {src : FireSource} {s u : State} {k : Committed} {b : BeatRec}
    (hc : findCue s.store.cues n = some c) (h : fireCue c src s = (u, k)) (hk : k.beat = some b) :
    fire n src s = takeBeat b u := by
  simp only [fire, hc, h, hk]

/-- A fire of a cue outside a rebuild: what R101 and R102 say, on a running clock and on one that it finds IDLE. -/
theorem fire_taken {n : CueNo} {c : Cue} {src : FireSource} {s : State} (hc : findCue s.store.cues n = some c)
    (hr : s.stop.st.rebuilds = false) : FireTaken c src s (fire n src s) := by
  refine ⟨fun hi => ?_, fun hi hf hw => ?_⟩
  · obtain ⟨h₁, h₂⟩ := fireCue_running c src s hi hr
    rw [fire_quiet hc (u := (fireCue c src s).1) (k := (fireCue c src s).2) rfl (by rw [h₁]; rfl)]
    exact h₂
  obtain ⟨m, h, hk, hmf, ha, e⟩ := fireCue_spec c src s hr
  have now : m.now = s.now := by
    have := congrArg (fun u : State => u.now) h.2.2.2.2.2.2
    exact this
  by_cases ht : ∀ r, tempoHanded c s = some r → r.mode = .tacet
  · rw [clockFire_stays (by rw [hk]; exact hi) ht] at e
    rw [fire_quiet hc e rfl]
    generalize hu : ({ m with clock := _ } : State) = u
    have hm : FiresBesideClock c src s u := h.moved (by rw [← hu]) (by rw [← hu]; exact fun _ _ => rfl)
    refine ⟨u, hm, fun _ => ⟨rfl, ?_, ?_, ?_⟩, fun r hr hm => absurd (ht r hr) hm⟩
    · rw [← hu, hk]; rfl
    · rw [← hu]; exact hmf
    · rw [← hu]; exact ha
  simp only [not_forall] at ht
  obtain ⟨r, hr, hm⟩ := ht
  obtain ⟨w, ew, wk, wf, ww, wa⟩ := clockFire_starts c (r := r) (s := m) (by rw [hk]; exact hi) hm
  rw [hr, ew] at e
  have wnow : w.now = m.now := by
    have := congrArg (fun u : State => u.now) ww
    exact this
  have hw' : FiresBesideClock c src s w := h.moved (by
    have := congrArg (fun u : State => { u with clock := m.clock, follower := m.follower, attention := m.attention }) ww
    exact this) wa
  rw [now, hk] at wk
  have told : FollowerTold (freshGoverning r) s w := by
    refine ⟨fun hm => ?_, fun hm => ?_⟩
    · obtain ⟨a, b⟩ := wf.1 hm
      rw [hmf] at a; rw [hmf, ha, now] at b
      exact ⟨a, b⟩
    · obtain ⟨a, b⟩ := wf.2 hm
      rw [hmf] at a; rw [hmf, ha, now] at b
      exact ⟨a, b⟩
  refine ⟨w, hw', fun h => absurd (h r hr) hm, fun r' hr' hm' => ?_⟩
  cases hr.symm.trans hr'
  refine ⟨wk, told, fun hcon => ?_, fun hcon hsp => ?_, fun hcon hsp hz => ?_⟩
  · refine fire_quiet hc (e.trans (commitIfDue_early fun d hd => ?_)) rfl
    simp [commitDue, wk, clockStarted, hcon] at hd
  · refine fire_quiet hc (e.trans (commitIfDue_early fun d hd => ?_)) rfl
    obtain ⟨k, hk', hlt⟩ := hsp
    simp [commitDue, wk, clockStarted, hcon, firstBeat, hk'] at hd
    omega
  · have hmode : r.mode = .fixed ∨ r.mode = .follow := by
      cases h : r.mode <;> simp [h] at hm hcon ⊢
    have first : firstBeat s.now s.clock = s.now + s.clock.lead := by
      unfold firstBeat
      cases hx : s.clock.spacing with
      | none => simp
      | some x => have := hsp x hx; simp; omega
    obtain ⟨u, b, eu, bb, b1, bp, -, fb⟩ := firstBeat_committed (m := w) (g := freshGoverning r) (bars := r.countIn)
      (t := s.now + s.clock.lead) (by rw [wk]; rfl) hcon
      (by rw [wk]; simp only [clockStarted]; rw [if_neg hcon]) (by rw [wk, wnow, now]; simp only [clockStarted]; omega)
      (by rw [wk]; rfl) (by rw [wk]; simp only [clockStarted]; rw [if_neg hcon, first]) (by rw [wk]; rfl) rfl (by
        intro l hl
        rcases hmode with h | h
        · rw [(told.2 (by rw [show (freshGoverning r).record.mode = r.mode from rfl, h]; decide)).1] at hl
          simp at hl
          obtain ⟨a, -, rfl⟩ := hl
          rfl
        · rw [(told.1 h).1] at hl
          exact hw l hl)
      (fun h => ⟨by rw [wk]; exact (hz h).1, by rw [wk]; exact (hz h).2.1, by rw [(hz h).2.2.1]; rfl, by rw [wk]; rfl⟩)
    rw [show (if r.countIn = 0 then w.clock.barSet.getD (startBar c s.clock) else startBar c s.clock) = startBar c s.clock by
      rw [wk]; simp [clockStarted]] at bb fb
    have quiet : takeBeat b u = u := by
      by_cases h : r.countIn = 0
      · refine takeBeat_none fun n c' hn hc' => ?_
        rw [bb, b1]
        obtain ⟨-, -, -, -, -, -, rest⟩ := fb
        have g : ∀ {α : Type} (f : State → α),
            f { u with clock := w.clock, follower := w.follower, channels := w.channels, video := w.video } = f w :=
          fun f => congrArg f rest
        have hs : u.store = w.store := g (·.store)
        have hq : u.seq = w.seq := g (·.seq)
        have e : ∀ {α : Type} (f : State → α), f { w with
            seq := s.seq, clock := s.clock, follower := s.follower, channels := s.channels, video := s.video
            stations := s.stations, attention := s.attention } = f s := fun f => congrArg f hw'.2.2.2.2.2.2
        have hstore : w.store = s.store := e (·.store)
        have hnext : nextCue u = afterCurrent s.store.cues (some c.number) := by
          simp [nextCue, hs, hq, hw'.1, hstore]
        rw [hnext] at hn
        rw [hs, hstore] at hc'
        exact (hz h).2.2.2 n c' hn hc'
      · have := bp (by omega)
        simp [takeBeat, atBarCue, this]
    rw [fire_beat hc (e.trans eu) rfl, quiet]
    exact fb

/-! ## Starts of the Stop Controller -/

/-- The stop state enters RUN (R99, R170). -/
theorem enterRun_spec (s : State) : EntersRun s (enterRun s) := by
  refine ⟨fun h => ?_, fun n c hn hc => ?_⟩
  · unfold enterRun
    cases ht : s.seq.timer with
    | deferred n => exact absurd ht (h n)
    | _ => simp only [setStop_seq, ht]; rfl
  · have e : enterRun s = fire n .follow { withStop .run s with seq := { s.seq with timer := .idle } } := by
      simp only [enterRun, setStop_seq, hn, State.setSeq]; rfl
    rw [e]
    exact fire_taken hc rfl

/-- A start order with a usable record starts the clock and tells the follower the record (R17, R19, R31). -/
theorem startClock_spec (bar bars : Nat) (g : Governing) (fresh : Bool) (s : State) :
    ∃ m : State, startClock bar bars g fresh s = m ∧ m.clock = orderStarted bar bars g fresh s.now s.clock
      ∧ FollowerTold g s m ∧ (∀ k, k ≠ 3 → m.attention[k]? = s.attention[k]?)
      ∧ { m with clock := s.clock, follower := s.follower, attention := s.attention } = s := by
  generalize hk : s.setClock (fun _ => orderStarted bar bars g fresh s.now s.clock) = k
  obtain ⟨a, b, d⟩ := tellRecord_start g k
  refine ⟨tellRecord true g k, ?_, ?_, ?_, ?_, ?_⟩
  · rw [← hk]; rfl
  · have := congrArg (fun u : State => u.clock) b
    rw [← hk] at this ⊢; exact this
  · rw [← hk] at a ⊢; exact a
  · rw [← hk] at d ⊢; exact d
  · have := congrArg (fun v : State => { v with clock := s.clock }) b
    rw [← hk] at this ⊢; exact this

/-- A start without a usable record leaves the clock IDLE and the follower FREE (R19). -/
theorem clockIdle_spec (s : State) :
    (clockIdle s).clock = { s.clock with
        st := .idle, gov := none, ramp := none, next := none, period := none, start := none }
      ∧ FollowerFreed s (clockIdle s) ∧ (∀ k, k ≠ 3 → (clockIdle s).attention[k]? = s.attention[k]?)
      ∧ { clockIdle s with clock := s.clock, follower := s.follower, attention := s.attention } = s := by
  generalize hk : s.setClock (fun c =>
    { c with st := .idle, gov := none, ramp := none, next := none, period := none, start := none }) = k
  obtain ⟨a, b, d⟩ := enterFree_spec k
  have e : clockIdle s = enterFree k := by rw [← hk]; rfl
  rw [e]
  refine ⟨?_, ?_, ?_, ?_⟩
  · have := congrArg (fun u : State => u.clock) b
    rw [← hk] at this ⊢; exact this
  · rw [← hk] at a ⊢; exact a
  · rw [← hk] at d ⊢; exact d
  · have := congrArg (fun v : State => { v with clock := s.clock }) b
    rw [← hk] at this ⊢; exact this

/-- An AT_BAR cue that waits for the downbeat just committed fires in RUN (R98, R156). -/
theorem takeBeat_downbeat {s : State} {b : BeatRec} {bar : Nat} (hr : s.stop.st = .run) (hb : b.bar = bar) (h1 : b.beat = 1)
    (hp : b.phase = .inShow) (hc : s.clock.st ≠ .idle) : DownbeatTested bar s (takeBeat b s) := by
  refine ⟨fun h => takeBeat_none fun n c hn hc' => ?_, fun n c hn hc' ht => ?_⟩
  · rw [hb, h1]; exact h n hn c hc'
  · have e : atBarCue b s = some c := by
      simp [atBarCue, hp, hr, StopSt.fires, hn, hc', hb, h1, ht]
    have := (fireCue_running c .atBar s hc (by rw [hr]; rfl)).2
    simpa only [takeBeat, e] using this

/-- The stop state is RUN, and a clock that is not IDLE stays in its state. -/
theorem enterRun_keeps {s : State} (hc : s.clock.st ≠ .idle) :
    (enterRun s).stop.st = .run ∧ (enterRun s).clock.st = s.clock.st := by
  cases ht : s.seq.timer with
  | deferred n =>
    have e : enterRun s = fire n .follow { withStop .run s with seq := { s.seq with timer := .idle } } := by
      simp only [enterRun, setStop_seq, ht, State.setSeq]; rfl
    rw [e]
    cases hf : findCue s.store.cues n with
    | none =>
      have : findCue (withStop .run s).store.cues n = none := hf
      simp only [fire, this]
      exact ⟨rfl, rfl⟩
    | some c =>
      have h := (fire_taken (n := n) (c := c) (src := .follow)
        (s := { withStop .run s with seq := { s.seq with timer := .idle } }) hf rfl).1 hc
      refine ⟨?_, ?_⟩
      · have := congrArg (fun u : State => u.stop) h.1.2.2.2.2.2.2
        exact congrArg StopController.st this
      · rw [h.2.1]; rfl
  | _ =>
    have e : enterRun s = withStop .run s := by simp only [enterRun, setStop_seq, ht]; rfl
    rw [e]; exact ⟨rfl, rfl⟩

/-- What a start order with a usable record does, from a clock with no window open (R17 to R19, R161, R169). -/
theorem startOrder_spec (kind : CountInKind) (bar bars : Nat) (g : Governing) (fresh : Bool) (s : State)
    (hw : ∀ l, s.follower.last = some l → l.isOpen = false)
    (hp : g.record.mode ≠ .conducted → fresh = true ∨ s.clock.period ≠ none) :
    StartOrdered kind bar bars g fresh s
      (if bars = 0 then
        let r := commitIfDue (startClock bar bars g fresh s)
        afterCommit (enterRun r.1, r.2)
      else afterCommit (commitIfDue (startClock bar bars g fresh (setStop (.countIn kind) s)))) := by
  generalize hb : (if bars = 0 then s else setStop (.countIn kind) s) = base
  have bc : base.clock = s.clock := by rw [← hb]; split <;> rfl
  have bn : base.now = s.now := by rw [← hb]; split <;> rfl
  have bf : base.follower = s.follower := by rw [← hb]; split <;> rfl
  have ba : base.attention = s.attention := by rw [← hb]; split <;> rfl
  obtain ⟨m, em, mc, mf, ma, mr⟩ := startClock_spec bar bars g fresh base
  have mnow : m.now = s.now := by
    have := congrArg (fun u : State => u.now) mr
    exact this.trans bn
  rw [bc, bn] at mc
  have told : FollowerTold g s m := by
    unfold FollowerTold FollowerFreed at mf ⊢; rw [bf, ba, bn] at mf; exact mf
  have closed : ∀ l, m.follower.last = some l → l.isOpen = false := by
    intro l hl
    by_cases h : g.record.mode = .follow
    · rw [(told.1 h).1] at hl; exact hw l hl
    · rw [(told.2 h).1] at hl
      simp at hl
      obtain ⟨a, -, rfl⟩ := hl
      rfl
  refine ⟨m, mc, told, by rw [ba] at ma; exact ma, ?_, fun hh => ?_, fun hc hs => ?_⟩
  · rw [show (if bars = 0 then s else withStop (.countIn kind) s) = base by rw [← hb]; rfl, ← mr, bc, bf, ba]
  · have early : commitIfDue m = (m, Committed.nothing) := by
      refine commitIfDue_early fun d hd => ?_
      rw [mnow]
      by_cases hcon : g.record.mode = .conducted
      · simp [commitDue, mc, orderStarted, hcon] at hd
      · obtain h | ⟨k, hk', hlt⟩ := hh
        · exact absurd h hcon
        · simp [commitDue, mc, orderStarted, hcon, firstBeat, hk'] at hd
          omega
    refine ⟨fun h => ?_, fun h => ?_⟩
    · rw [if_neg (by omega)] at hb ⊢
      rw [hb, em, early]; rfl
    · rw [if_pos h] at hb ⊢
      subst hb
      rw [em, early]
      exact enterRun_spec m
  · have first : firstBeat s.now s.clock = s.now + s.clock.lead := by
      unfold firstBeat
      cases hx : s.clock.spacing with
      | none => simp
      | some x => have := hs x hx; simp; omega
    have per : ∃ p, m.clock.period = some p := by
      rw [mc]; simp only [orderStarted]; rw [if_neg hc]
      obtain h | h := hp hc
      · rw [if_pos h]; exact ⟨_, rfl⟩
      · cases hf : fresh
        · exact Option.ne_none_iff_exists'.mp h
        · exact ⟨_, rfl⟩
    obtain ⟨p, hp'⟩ := per
    have beat := fun h₀ => firstBeat_committed (m := m) (g := g) (bar := bar) (bars := bars) (beats := bars * g.record.meter)
      (ramps := fresh && g.record.ramp.isSome) (t := s.now + s.clock.lead) (by rw [mc]; rfl) hc hp'
      (by rw [mc, mnow]; simp only [orderStarted]; omega) (by rw [mc]; rfl)
      (by rw [mc]; simp only [orderStarted]; rw [if_neg hc, first]) (by rw [mc]; rfl) rfl closed h₀
    refine ⟨fun h => ?_, fun h ha hn hr => ?_⟩
    · obtain ⟨u, b, eu, -, -, bp, -, fb⟩ := beat (fun h' => by omega)
      rw [if_neg (by omega)] at hb fb ⊢
      rw [hb, em, eu]
      have : afterCommit (u, { beat := some b, held := none, countInEnd := false }) = u := by
        have := bp h
        simp [afterCommit, takeBeat, atBarCue, this]
      rw [this]; exact fb
    · obtain ⟨u, b, eu, bb, b1, -, bp, fb⟩ := beat (fun _ => ⟨by rw [mc]; exact ha, by rw [mc]; exact hn, by
        cases hf : fresh
        · rfl
        · rw [hr hf]; rfl, by rw [mc]; rfl⟩)
      rw [if_pos h, show m.clock.barSet = s.clock.barSet by rw [mc]; rfl] at bb fb
      rw [if_pos h] at hb ⊢
      subst hb
      rw [em, eu]
      have uc : u.clock.st = .running := by
        obtain ⟨k, -, -, -, -, q, -⟩ := fb
        rw [(q h).1]; rfl
      obtain ⟨k1, k2⟩ := enterRun_keeps (s := u) (by rw [uc]; decide)
      exact ⟨u, enterRun u, fb, enterRun_spec u, takeBeat_downbeat k1 bb b1 (bp h) (by rw [k2, uc]; decide)⟩

/-! ## Desk lines -/

@[simp] theorem desk_level_take (level : Bool) (line : DeskLine) (d : Desk) : (d.take level line).level line = level := by
  cases line <;> rfl

/-- An asserting edge once the load has ended: the line takes its level, and the edge does what it does (R95, R157). -/
theorem deskEdge_taken {line : DeskLine} {t held : Nat} {f : State → State} {s : State} (h : DeskEdge line t held s)
    (hl : s.loading = false) :
    deskEdge line held f (s.goTo t) = f ((s.goTo t).setDesk (Desk.take true line)) := by
  have hh : (s.goTo t).hasHeld Config.deskDebounce held = true := (hasHeld_iff _ _ _).mpr ⟨h.1, h.2.1⟩
  have hd : s.desk.level line = false := h.2.2
  simp [deskEdge, hh, hd, unlessLoading, hl]

/-- No edge: too short a hold, or a line asserted already. -/
theorem deskEdge_none {line : DeskLine} {t held : Nat} {f : State → State} {s : State} (h : ¬DeskEdge line t held s) :
    deskEdge line held f (s.goTo t) = s.goTo t := by
  unfold deskEdge
  split
  · rename_i hc
    refine absurd ?_ h
    simp only [Bool.and_eq_true, hasHeld_iff, Bool.not_eq_true'] at hc
    exact ⟨hc.1.1, hc.1.2, hc.2⟩
  · rfl

end Sys2Proof.Machine
end

