-- ==== Sys2Proof/WellFormed.lean ====
section
/-! DEFINITION. Which commands can be spelled at the part's connections: show times of 40 bits (00 section 3.1),
operands that fit the bytes R187 gives them, payloads of at most 240 bytes (R175). A value that fits its bytes but lies
outside its range is well formed: the owning block refuses it with RANGE. -/

namespace Sys2Proof

/-- A show time: 40 bits (00 section 3.1). -/
def okTime (t : Nat) : Bool := t < 2 ^ 40

/-- A number that `w` bytes hold (R187). -/
def fits (w n : Nat) : Bool := n < 256 ^ w

/-- An optional number whose absence is the largest value of its bytes (R187). -/
def fitsOpt (w : Nat) : Option Nat → Bool
  | none => true
  | some n => n + 1 < 256 ^ w

/-- A masked field of `w` bytes. -/
def fitsMasked (w : Nat) : Option Nat → Bool
  | none => true
  | some n => fits w n

/-- A cue number of three bytes (R187). -/
def CueNo.fits (n : CueNo) : Bool := n.whole < 65536 && n.point < 256

def RawTempo.fits (r : RawTempo) : Bool :=
  r.mode < 256 && r.bpm10 < 65536 && r.meter < 256 && r.band < 256 && r.countIn < 256

def RawClick.fits (c : RawClick) : Bool := c.channel < 256 && c.on < 256 && c.sub < 256

def PatchAction.fits (p : PatchAction) : Bool := p.station < 256 && p.patch < 65536

/-- The presence byte of a cue record names the parts that follow (R187). -/
def RawCue.presenceAgrees (c : RawCue) : Bool :=
  c.presence % 2 == c.tempo.isSome.toNat && c.presence / 2 % 2 == c.ramp.isSome.toNat
    && c.presence / 4 % 2 == c.barSet.isSome.toNat && c.presence / 8 % 2 == c.vamp.isSome.toNat
    && c.presence / 16 % 2 == c.caption.isSome.toNat

/-- A cue record that CUE PUT can carry (R187). -/
def RawCue.fits (c : RawCue) : Bool :=
  c.number.fits && c.kind < 256 && c.word < 65536 && c.beat < 256 && c.presence < 256 && c.presenceAgrees
    && (c.tempo.map RawTempo.fits).getD true
    && (c.ramp.map fun r => decide (r.target < 65536) && decide (r.bars < 256)).getD true
    && (c.barSet.map fun b => decide (b < 65536)).getD true
    && (c.vamp.map fun v => decide (v.first < 65536) && decide (v.last < 65536)).getD true
    && (c.caption.map fun x => decide (x.length < 256)).getD true
    && c.patches.all PatchAction.fits && c.patches.length < 256
    && c.clicks.all RawClick.fits && c.clicks.length < 256

/-- The operands of a command can be spelled at the part's connections. -/
def Instr.wellFormed : Instr → Bool
  | .powerOn _ _ => true
  | .imageLoadEnd t _ => okTime t
  | .requestFrameReceived t _ _ payload => okTime t && payload.length ≤ Config.maxPayload
  | .gapTimeout => true
  | .breakDeclared t => okTime t
  | .requestTaken t => okTime t
  | .replySent => true
  | .identify t => okTime t
  | .restartShow t => okTime t
  | .cuePut t cue => okTime t && cue.fits
  | .cueDelete t n => okTime t && n.fits
  | .cueGet t view n => okTime t && fits 1 view && n.fits
  | .cueList t n start count => okTime t && n.fits && fits 1 start && fits 1 count
  | .mapPut t st p b g l => okTime t && fits 1 st && fits 2 p && fits 2 b && fits 1 g && fits 2 l
  | .mapDelete t st p => okTime t && fits 1 st && fits 2 p
  | .mapGet t st p => okTime t && fits 1 st && fits 2 p
  | .protectSet t m lo hi k => okTime t && fits 1 m && lo.fits && hi.fits && fits 1 k
  | .protectGet t => okTime t
  | .store t => okTime t
  | .flashEraseDone t => okTime t
  | .flashProgramDone t => okTime t
  | .flashVerifyDone t _ => okTime t
  | .flashMarkDone t _ => okTime t
  | .flashError t => okTime t
  | .storeTimeout => true
  | .standby t => okTime t
  | .cancelStandby t => okTime t
  | .go t => okTime t
  | .jump t n => okTime t && n.fits
  | .hold t => okTime t
  | .stop t => okTime t
  | .resumePoint t n bar => okTime t && n.fits && fitsOpt 2 bar
  | .vampRelease t => okTime t
  | .showSet t f => okTime t && fitsMasked 1 f.standbyRequired && fitsMasked 1 f.lookAhead
      && fitsMasked 2 f.lateThreshold && fitsMasked 1 f.resumeCountIn && fitsMasked 1 f.holdCountIn
  | .showGet t => okTime t
  | .followSet t f => okTime t && fitsMasked 1 f.window && fitsMasked 1 f.constant && fitsMasked 1 f.m
  | .followGet t => okTime t
  | .clockSet t lead => okTime t && fitsMasked 3 lead
  | .positionGet t => okTime t
  | .channelSet t ch f => okTime t && fits 1 ch && fitsMasked 1 f.accent
      && (f.level.map fun l => decide (-128 ≤ l) && decide (l < 128)).getD true && fitsMasked 3 f.lead
      && fitsMasked 1 f.countIn && fitsMasked 1 f.toneSet && fitsMasked 1 f.override
  | .channelGet t ch => okTime t && fits 1 ch
  | .videoSet t f => okTime t && fitsMasked 1 f.rate && fitsMasked 1 f.constant && fitsMasked 3 f.delay
      && fitsMasked 1 f.pitElements && fitsMasked 1 f.stageElements && fitsMasked 1 f.pitStyle
      && fitsMasked 1 f.stageStyle && fitsMasked 1 f.pitLength && fitsMasked 1 f.stageLength
  | .videoGet t => okTime t
  | .stationSet t st f => okTime t && fits 1 st && fitsMasked 1 f.excluded
      && (f.lateOverride.map (fitsOpt 2)).getD true
  | .stationGet t st => okTime t && fits 1 st
  | .stationPin t st p => okTime t && fits 1 st && fits 2 p
  | .stationUnpin t st p => okTime t && fits 1 st && fits 2 p
  | .stationFlush t st => okTime t && fits 1 st
  | .stationReset t st => okTime t && fits 1 st
  | .faultGet t st => okTime t && fits 1 st
  | .faultClear t st => okTime t && fits 1 st
  | .attentionQuery t n => okTime t && fitsMasked 1 n
  | .attentionPeek t => okTime t
  | .attentionEnable t mask => okTime t && fits 2 mask
  | .deskStbyEdge t _ => okTime t
  | .deskGoEdge t _ => okTime t
  | .deskHoldEdge t _ => okTime t
  | .deskStopEdge t _ => okTime t
  | .deskLineRelease t _ _ => okTime t
  | .keyLevelChange t _ _ => okTime t
  | .beatPulse t _ => okTime t
  | .beatCommit => true
  | .windowClose => true
  | .followTimerExpiry => true
  | .burstStart _ => true
  | .burstEnd _ => true
  | .lineSync t sub _ => okTime t && sub < Config.refPerMicro
  | .syncLossTimeout => true
  | .generatorFieldStart => true
  | .missedInputField => true
  | .presentAsserted t _ _ => okTime t
  | .presentDeasserted t _ _ => okTime t
  | .queryRepeat _ => true
  | .hello t _ n => okTime t && fits 1 n
  | .loaded t _ k => okTime t && fits 1 k
  | .loadFailed t _ k => okTime t && fits 1 k
  | .selected t _ k => okTime t && fits 1 k
  | .stationFrameBad t _ => okTime t
  | .stationFrameGap t _ => okTime t
  | .loadTimeout _ => true
  | .selectTimeout _ => true
  | .stationSend t _ => okTime t
  | .stationFrameSent _ => true
  | .receivedByte t _ => okTime t
  | .lineReturnedToMark t => okTime t
  | .powerLost _ => true

end Sys2Proof
end

