-- ==== Sys2Proof/Tests/Slice0.lean ====
section
/-! SUPPORT. Tests of the model on fixed values, most of them from the worked examples of the spec, and for each
statement with hypotheses a witness: concrete states and operands that meet them, clause by clause. -/

namespace Sys2Proof.Tests

open Sys2Proof Sys2Proof.Machine

-- One test is checked after the other, so that a run of the package as one text stays within its threads.
set_option Elab.async false

/-! ## The states the tests start from -/

/-- The state a command leaves. -/
def after (o : Host.Outcome State Fault Refusal) : State :=
  match o with
  | .next s => s
  | .fault _ => State.reset
  | .refused _ => State.reset

/-- The status of the reply formed last. -/
def status (s : State) : Option Status := s.link.lastReply.map (·.status)

/-- An empty show, the power-on load over. -/
def base : State := { State.reset with loading := false }

/-- `base` in the power-on load. -/
def fresh : State := State.reset

def cueNo (n : Nat) : CueNo := { whole := n, point := 0 }

def bareCue (n : Nat) (tr : Trigger) : Cue :=
  { number := cueNo n, trigger := tr, tempo := none, barSet := none, vamp := none, caption := none, patches := [],
    clicks := [] }

/-- 120.0 bpm in 4, one bar of count-in. -/
def fixed120 : TempoRecord :=
  { mode := .fixed, bpm10 := 1200, meter := 4, band := 20, countIn := 1, ramp := none }

def cue1 : Cue :=
  { bareCue 1 .manual with
    tempo := some fixed120, caption := some [0x41, 0x63, 0x74], patches := [{ station := 1, patch := 10 }]
    clicks := [{ channel := 1, on := true, sub := some 3 }] }

def cue2 : Cue := { bareCue 2 (.atBar 5 1) with vamp := some { first := 3, last := 5 }, barSet := some 9 }

def cue3 : Cue := { bareCue 3 (.follow 1000) with patches := [{ station := 1, patch := 11 }] }

def entry (p : Nat) : MapEntry := { station := 1, patch := p, bank := 2, program := 7, load := 1500 }

/-- Three cues and two entries of the patch map. -/
def show3 : State :=
  { base with
    store := { base.store with cues := [cue1, cue2, cue3], cueCount := 3, poolUsed := poolOf [cue1, cue2, cue3] }
    map := [entry 10, entry 11] }

/-- `show3` in cue 1 with the clock RUNNING at 120.0, beat (4, 2) next at 10,500,000. -/
def playing : State :=
  { show3 with
    now := 10000000
    seq := { show3.seq with current := some (cueNo 1) }
    video := { show3.video with content := { show3.video.content with cue := some (cueNo 1) } }
    clock := { show3.clock with
      st := .running, gov := some { record := fixed120, marked := 500000 }, period := some 500000
      spacing := some 10000000, lastShowBar := some 4
      position := { Position.empty with cue := some (cueNo 1), bar := some 4, beat := some 1, time := some 10000000
                                        period := some 500000 }
      next := some { time := some 10500000, kind := .beat 4 2 } } }

/-- `playing` with the downbeat of bar 5 next. -/
def atDownbeat : State :=
  { playing with clock := { playing.clock with next := some { time := some 10500000, kind := .down } } }

/-- `playing` under a CONDUCTED record. -/
def conducted : State :=
  { playing with clock := { playing.clock with
      gov := some { record := { fixed120 with mode := .conducted }, marked := 500000 }
      next := some { time := none, kind := .beat 4 2 } } }

/-- The start of the worked sequence 2.9: bar 12 in 4 at 120.0 under a FOLLOW record, band 20 %, the follower LOCKED;
channels 1 and 2 set as in 3.7. -/
def tracking : State :=
  { base with
    now := 10000000
    clock := { base.clock with
      st := .running, gov := some { record := { fixed120 with mode := .follow }, marked := 500000 }
      period := some 500000, spacing := some 10000000, lastShowBar := some 12
      position := { Position.empty with bar := some 12, beat := some 1, time := some 10000000 }
      next := some { time := some 10500000, kind := .beat 12 2 } }
    follower := { base.follower with
      st := .locked, band := some (400000, 600000)
      last := some { time := 10000000, isOpen := true, matched := false } }
    channels := (base.channels.modify 0 fun c =>
        { c with trackedOn := true, settings := { c.settings with down := 12 } }).modify 1 fun c =>
          { c with
            trackedOn := true, trackedSub := 3
            settings := { c.settings with down := 18, lead := 10000, countIn := false, toneSet := 2 } } }

/-- The stop state and its copy in the overlay. -/
def inStop (st : StopSt) (s : State) : State := withStop st s

def resident (p : Nat) : Slot := { st := .resident, patch := some p, stale := false, flush := false }

def loadingSlot (p : Nat) : Slot := { st := .loading, patch := some p, stale := false, flush := false }

/-- An ONLINE station with patch 10 selected in slot 1, patch 20 in slot 2 and slot 3 EMPTY. -/
def rig : Station :=
  { Station.initial with
    present := true, link := .online, slots := [resident 10, resident 20, Slot.blank], selected := .slot 1 }

/-- Station 1 as given, and its word with the Stop Controller. -/
def withRig (st : Station) (s : State) : State :=
  { s.setStation 0 fun _ => st with
    stop := { s.stop with words := s.stop.words.set 0 { online := st.link == .online, excluded := st.excluded } } }

/-- A station with LOAD of patch 11 outstanding in slot 3. -/
def loadOut : OutLoad :=
  { slot := 3, patch := 11, cue := some (cueNo 3), sent := 1000, limit := 3500000, due := some 3501000 }

def loadingRig : Station :=
  { rig with slots := [resident 10, resident 20, loadingSlot 11], outLoad := some loadOut }

def aSwitch (stage : SwitchStage) : Switch :=
  { patch := 11, cue := some (cueNo 3), fireTime := some 2000, kind := .wait, stage := stage, rebuild := false }

/-- A station whose switch waits on the LOAD. -/
def waitingRig : Station := { loadingRig with switch := some (aSwitch (.loading 3)) }

/-- A station with a SELECT of slot 2 outstanding for its switch. -/
def selectingRig : Station :=
  { rig with
    outSelect := some { slot := 2, sent := 3000, due := some 203000 }
    switch := some { aSwitch (.selecting 2) with patch := 20, kind := .warm } }

def aJob (stage : StoreStage) : StoreJob := { image := imageOf show3, taken := 5, stage := stage }

/-- `show3` with a store at a stage. -/
def storingAt (stage : StoreStage) : State := { show3 with store := { show3.store with job := some (aJob stage) } }

/-- A cue record as CUE PUT carries it: a number and the trigger MANUAL. -/
def rawCue (n : Nat) : RawCue :=
  { number := cueNo n, kind := 0, word := 0, beat := 0, presence := 0, tempo := none, ramp := none, barSet := none,
    vamp := none, caption := none, patches := [], clicks := [] }

def noChannelField : RawChannelSet :=
  { accent := none, level := none, lead := none, countIn := none, toneSet := none, override := none }

def noFollowField : RawFollowSet := { window := none, constant := none, m := none }

def noVideoField : RawVideoSet :=
  { rate := none, constant := none, delay := none, pitElements := none, stageElements := none, pitStyle := none,
    stageStyle := none, pitLength := none, stageLength := none }

/-! ## Numbers of the worked examples -/

/-- The table of R9. -/
theorem test_marked_periods :
    [3000, 1200, 1325, 1024, 1199, 300].map markedPeriod = [200000, 500000, 452830, 585938, 500417, 2000000] := by
  decide +kernel

/-- R9's example of the displayed tempo, and the limits. -/
theorem test_displayed_tempo :
    [some 503594, some 100000, some 3000000, none].map displayedTempo = [1191, 3000, 300, 0] := by decide +kernel

/-- The table of R10. -/
theorem test_bands :
    [bandAround 500000 20, bandAround 2000000 50, bandAround 200000 10, bandAround 452830 0]
      = [(400000, 600000), (1000000, 2000000), (200000, 220000), (452830, 452830)] := by decide +kernel

/-- R58's example frames, and those of 3.7. -/
theorem test_onset_frames :
    [10512500, 10502500, 10670000, 11005352, 11161957].map frameOf = [504600, 504120, 512160, 528257, 535774] := by
  decide +kernel

/-- The check value of the CRC of R176 over the characters 1 to 9. -/
theorem test_crc : crc [0x31, 0x32, 0x33, 0x34, 0x35, 0x36, 0x37, 0x38, 0x39] = 0x29B1#16 := by decide +kernel

/-- A byte that repeats the start byte inside a frame is data: the frame's bytes come back as one frame (R175). -/
theorem test_frame_holds_start_byte :
    ((frameBytes 0x7E 0x40 [0x7E]).foldl (fun s b => after (exec (.receivedByte 0 b) s)) base).link.queue
      = [{ tag := 0x7E, kind := 0x40, payload := [0x7E] }] := by decide +kernel

/-- A good frame hidden behind a false start byte is found again in the bytes of the length discard (R176). -/
theorem test_reexamined_bytes :
    (([0x7E] ++ frameBytes 1 0x40 []).foldl (fun s b => after (exec (.receivedByte 0 b) s)) base).link
      = { base.link with queue := [{ tag := 1, kind := 0x40, payload := [] }], lengths := 1 } := by decide +kernel

/-- No word spells a command, and withFetchWord leaves the state as it is. -/
theorem test_no_word : decodeTableWord 16 0x7E = none ∧ State.reset.withFetchWord 16 0x7E = State.reset := by
  decide +kernel

/-! ## WellFormed refuses what the connections cannot spell -/

theorem test_wf_time : (Instr.go (2 ^ 40)).wellFormed = false ∧ (Instr.go (2 ^ 40 - 1)).wellFormed = true := by decide +kernel

theorem test_wf_payload :
    (Instr.requestFrameReceived 0 0 0 (List.replicate 241 0)).wellFormed = false
      ∧ (Instr.requestFrameReceived 0 0 0 (List.replicate 240 0)).wellFormed = true := by decide +kernel

theorem test_wf_cue_number : (Instr.cueDelete 0 { whole := 65536, point := 0 }).wellFormed = false := by decide +kernel

theorem test_wf_one_byte : (Instr.stationGet 0 256).wellFormed = false := by decide +kernel

theorem test_wf_two_bytes : (Instr.mapGet 0 1 65536).wellFormed = false := by decide +kernel

theorem test_wf_absent_value : (Instr.resumePoint 0 (cueNo 1) (some 65535)).wellFormed = false := by decide +kernel

theorem test_wf_masked :
    (Instr.clockSet 0 (some (2 ^ 24))).wellFormed = false
      ∧ (Instr.stationSet 0 1 { excluded := none, lateOverride := some (some 65535) }).wellFormed = false := by
  decide +kernel

theorem test_wf_level :
    (Instr.channelSet 0 1 { accent := none, level := some (-129), lead := none, countIn := none, toneSet := none,
                            override := none }).wellFormed = false := by decide +kernel

theorem test_wf_subperiod : (Instr.lineSync 0 24 false).wellFormed = false := by decide +kernel

theorem test_wf_presence :
    (Instr.cuePut 0 { rawCue 1 with presence := 1 }).wellFormed = false
      ∧ (Instr.cuePut 0 (rawCue 1)).wellFormed = true := by decide +kernel

theorem test_wf_record :
    (Instr.cuePut 0 { rawCue 1 with word := 65536 }).wellFormed = false
      ∧ (Instr.cuePut 0 { rawCue 1 with patches := [{ station := 256, patch := 1 }] }).wellFormed = false
      ∧ (Instr.cuePut 0 { rawCue 1 with clicks := [{ channel := 1, on := 256, sub := 0 }] }).wellFormed = false := by
  decide +kernel

/-! ## Following the Conductor: the sequence of 2.9 -/

def pulse1 : State := after (exec (.beatPulse 10040000 2000) tracking)

theorem test_pulse_1 :
    pulse1.clock.period = some 502500 ∧ pulse1.clock.next = some { time := some 10512500, kind := .beat 12 2 }
      ∧ pulse1.follower.jitter = 5000 ∧ pulse1.follower.st = .locked := by decide +kernel

def commit2 : State := after (exec .beatCommit (after (exec .windowClose pulse1)))

theorem test_commit_2 :
    commit2.now = 10472500 ∧ commit2.clock.next = some { time := some 11015000, kind := .beat 12 3 }
      ∧ commit2.clock.position.period = some 502500 := by decide +kernel

/-- The bursts of the commit (3.7), of channels 2 and 1. -/
theorem test_commit_2_bursts :
    (commit2.channel 1).bursts.map (fun b => (b.kind, b.frame, b.frequency))
        = [(.beat, 504120, 1000), (.sub, 512160, 660), (.sub, 520200, 660)]
      ∧ (commit2.channel 0).bursts.map (fun b => (b.kind, b.frame, b.frequency)) = [(.beat, 504600, 1200)] := by
  decide +kernel

def pulse2 : State := after (exec (.beatPulse 10530000 2000) commit2)

theorem test_pulse_2 :
    pulse2.clock.period = some 503594 ∧ pulse2.clock.next = some { time := some 11020469, kind := .beat 12 3 }
      ∧ pulse2.follower.jitter = 6562 ∧ pulse2.follower.lastError = 17500 := by decide +kernel

def pulse3 : State := after (exec (.beatPulse 10960000 2000) (after (exec .windowClose pulse2)))

theorem test_pulse_3 :
    pulse3.clock.period = some 499815 ∧ pulse3.clock.next = some { time := some 11005352, kind := .beat 12 3 }
      ∧ pulse3.follower.jitter = 13300 ∧ pulse3.follower.nextMatched = true := by decide +kernel

def commit3 : State := after (exec .beatCommit pulse3)

theorem test_commit_3 :
    commit3.now = 10965352 ∧ commit3.clock.next = some { time := some 11505167, kind := .beat 12 4 }
      ∧ displayedTempo commit3.clock.position.period = 1200 := by decide +kernel

/-- The second strike of the pedal. -/
theorem test_pulse_4 :
    (after (exec (.beatPulse 10990000 2000) commit3)).follower.lastRejection = some .double
      ∧ (after (exec (.beatPulse 10990000 2000) commit3)).follower.rejectedRun = 1
      ∧ (after (exec (.beatPulse 10990000 2000) commit3)).clock = commit3.clock := by decide +kernel

/-! ## The keyboard stations: the sequence of 6.9 -/

def n11 (n : Nat) (p : Nat) : Cue := { bareCue n .manual with patches := [{ station := 2, patch := p }] }

def entry2 (p : Nat) : MapEntry := { station := 2, patch := p, bank := 0, program := 1, load := 1500 }

def rig69 : Station :=
  { Station.initial with
    present := true, link := .online, slots := [resident 30, resident 31, loadingSlot 40], selected := .slot 1
    outLoad := some { slot := 3, patch := 40, cue := some (cueNo 13), sent := 99900000, limit := 3500000
                      due := some 103400000 }
    ahead := [⟨cueNo 12, some 31⟩, ⟨cueNo 13, some 40⟩, ⟨cueNo 14, some 31⟩], standbyTarget := some ⟨cueNo 12, some 31⟩ }

def before69 : State :=
  let s := { base with
    now := 100000000
    store := { base.store with
      cues := [n11 11 30, n11 12 31, n11 13 40, n11 14 31, n11 15 52, n11 16 30, bareCue 17 .manual], cueCount := 7
      poolUsed := 0 }
    seq := { base.seq with
      current := some (cueNo 11), latch := some (cueNo 12), ahead := [cueNo 12, cueNo 13, cueNo 14]
      settings := { base.seq.settings with standbyRequired := false } }
    map := [entry2 30, entry2 31, entry2 40, entry2 52] }
  { s.setStation 1 fun _ => rig69 with
    stop := { s.stop with words := s.stop.words.set 1 { online := true, excluded := false } } }

def run (cs : List Instr) (s : State) : State := cs.foldl (fun s c => after (exec c s)) s

def fired12 : State :=
  run [.go 100000000, .stationSend 100000000 1, .stationFrameSent 1, .selected 100008000 1 2] before69

/-- The warm switch of cue 12. -/
theorem test_warm_switch :
    (fired12.station 1).lastSwitch
        = some { cue := some (cueNo 12), patch := some 31, kind := .warm, outcome := .done, lateness := some 8000 }
      ∧ (fired12.station 1).selected = .slot 2 ∧ (fired12.station 1).faults.count = 0 := by decide +kernel

def loaded13 : State := run [.go 100900000, .loaded 101400000 1 3, .stationSend 101400000 1, .stationFrameSent 1] fired12

/-- The wait of cue 13 and the pressure at the LOADED. -/
theorem test_wait_and_pressure :
    (loaded13.station 1).switch.map (·.kind) = some .wait
      ∧ (loaded13.station 1).faults
        = { first := some { kind := .pressure, cue := some (cueNo 15), patch := some 52, time := 101400000 }, count := 0 }
      ∧ (loaded13.station 1).pressure = true := by decide +kernel

def selected13 : State := run [.selected 101406000 1 3] loaded13

/-- The late confirmation of cue 13. -/
theorem test_late_switch :
    (selected13.station 1).lastSwitch.map (·.lateness) = some (some 506000)
      ∧ (selected13.station 1).faults.count = 1 ∧ (selected13.station 1).pressure = true := by decide +kernel

def selected14 : State :=
  run [.go 103000000, .stationSend 103000000 1, .stationFrameSent 1, .selected 103006000 1 2, .stationSend 103006000 1]
    selected13

/-- The preload of patch 52 into slot 3, which closes the episode. -/
theorem test_preload_after_pressure :
    (selected14.station 1).slots = [resident 30, resident 31, loadingSlot 52] ∧ (selected14.station 1).victim = 1
      ∧ (selected14.station 1).pressure = false
      ∧ (selected14.station 1).sending = some (.load 3 0 1, 103006000) := by decide +kernel

/-! ## One step of each kind -/

/-- The downbeat of bar 5 fires the AT_BAR cue 2 before its bar is set (R6, R98): a bar set of 9 waits for the next
downbeat, and the vamp of bars 3 to 5 is armed. -/
theorem test_at_bar_fires :
    let s := after (exec .beatCommit { atDownbeat with seq := { atDownbeat.seq with current := some (cueNo 1) } })
    s.seq.current = some (cueNo 2) ∧ s.clock.position.bar = some 5 ∧ s.clock.barSet = some 9
      ∧ s.clock.vamp = some { first := 3, last := 5, loops := 0, release := false }
      ∧ s.seq.lastFire.map (·.source) = some .atBar := by decide +kernel

/-- Bar 9999 is followed by bar 9999 (R6). -/
theorem test_bar_saturates :
    (after (exec .beatCommit { atDownbeat with clock := { atDownbeat.clock with lastShowBar := some 9999 } })).clock.lastShowBar
      = some 9999 := by decide +kernel

/-- The second pass of a vamp (R21). -/
theorem test_vamp_pass :
    let s := after (exec .beatCommit { atDownbeat with clock := { atDownbeat.clock with
      vamp := some { first := 3, last := 4, loops := 255, release := false } } })
    s.clock.position.bar = some 3 ∧ s.clock.position.pass = 255 := by decide +kernel

/-- GO on an IDLE clock: one bar of count-in in 4, the first beat of number 1 (R17, R18). -/
theorem test_go_starts_count_in :
    let s := after (exec (.go 1000000) { show3 with seq := { show3.seq with latch := some (cueNo 1) } })
    s.clock.st = .countingIn ∧ s.clock.next = some { time := some 1540000, kind := .countIn 2 }
      ∧ s.clock.position.phase = .countIn 1 ∧ s.clock.position.time = some 1040000
      ∧ status s = some .ok := by decide +kernel

/-- GO without the standby that the settings ask for (R97). -/
theorem test_go_needs_standby : status (after (exec (.go 5) show3)) = some .noStandby := by decide +kernel

/-- GO at the end of the list (R97). -/
theorem test_go_end_of_list :
    status (after (exec (.go 5) { show3 with seq := { show3.seq with current := some (cueNo 3) } })) = some .endOfList := by
  decide +kernel

/-- STANDBY and its cancel (R93, R94). -/
theorem test_standby :
    (after (exec (.standby 5) show3)).seq.latch = some (cueNo 1)
      ∧ (after (exec (.cancelStandby 6) (after (exec (.standby 5) show3)))).seq.latch = none := by decide +kernel

/-- JUMP to a number that the list does not hold (R92). -/
theorem test_jump_not_found : status (after (exec (.jump 5 (cueNo 7)) show3)) = some .notFound := by decide +kernel

/-- A hold freezes the clock at the next downbeat, which is not committed (R23). -/
theorem test_hold_freezes :
    let s := run [.hold 10000001, .beatCommit] atDownbeat
    s.clock.st = .frozen ∧ s.stop.st = .held ∧ s.stop.held = some { bar := 5, pass := 0 }
      ∧ s.clock.position.bar = some 4 := by decide +kernel

/-- The first STOP (R162). -/
theorem test_stop :
    let s := after (exec (.deskStopEdge 10000005 10000) playing)
    s.stop.st = .stopped ∧ s.clock.st = .frozen ∧ s.stop.source = some .desk
      ∧ s.stop.position.map (·.bar) = some (some 4) ∧ attnLine s = true := by decide +kernel

/-- The resume point is READY at once where no station counts (R167), and GO starts its count-in (R169). -/
theorem test_resume :
    let s := run [.stop 10000005, .resumePoint 10000006 (cueNo 1) (some 2)] playing
    s.stop.st = .ready ∧ (after (exec (.go 10000007) s)).stop.st = .countIn .resume
      ∧ (after (exec (.go 10000007) s)).clock.start.map (·.bar) = some 2 := by decide +kernel

/-- A follow timer of 1,000 ms runs from the fire of the cue before (R99, R101). -/
theorem test_follow_timer :
    (after (exec .beatCommit atDownbeat)).seq.timer = .running (cueNo 3) 11460000 := by decide +kernel

/-- CUE PUT into its place, and the reply's counts (R74, R77). -/
theorem test_cue_put :
    let s := after (exec (.cuePut 5 { rawCue 1 with number := { whole := 1, point := 5 } }) show3)
    s.store.cues.map (·.number) = [cueNo 1, { whole := 1, point := 5 }, cueNo 2, cueNo 3] ∧ s.store.cueCount = 4
      ∧ s.link.lastReply.map (·.body.getLast?) = some (some (.num 1 0)) := by decide +kernel

/-- CUE DELETE of the standby cue clears the latch (R105). -/
theorem test_cue_delete :
    let s := run [.standby 5, .cueDelete 6 (cueNo 1)] show3
    s.store.cueCount = 2 ∧ s.seq.latch = none ∧ s.video.content.standby = none := by decide +kernel

theorem test_map_put : (after (exec (.mapPut 5 1 10 3 4 30001) show3)).map = show3.map := by decide +kernel

/-- A range protects its two ends (R82). -/
theorem test_protect_range :
    let s := after (exec (.protectSet 5 1 (cueNo 1) (cueNo 2) 0) show3)
    status (after (exec (.cueDelete 6 (cueNo 2)) s)) = some .isProtected
      ∧ status (after (exec (.cueDelete 6 (cueNo 3)) s)) = some .ok := by decide +kernel

/-- A verify mismatch fails the store and leaves no marker (R86). -/
theorem test_verify_mismatch :
    let s := run [.store 5, .flashEraseDone 6, .flashProgramDone 7, .flashVerifyDone 8 false] show3
    s.store.lastImage = .failed ∧ s.flash.marker = false ∧ s.storing = false := by decide +kernel

/-- Power lost before the mark leaves an image that the next load finds invalid (R86, R88). -/
theorem test_power_lost_in_store :
    let s := run [.store 5, .flashEraseDone 6, .flashProgramDone 7, .powerLost false, .powerOn false false,
      .imageLoadEnd 9 .asLeft] show3
    s.store.lastImage = .invalid ∧ s.store.cues = [] ∧ attentionSummary s = 9 := by decide +kernel

/-- The sub-click order and the end of a burst (R53, R59). -/
theorem test_burst_plays :
    let s := run [.burstStart 1, .burstEnd 1] commit2
    (s.channel 1).sounding = none ∧ (s.channel 1).bursts.length = 2 ∧ s.now = 10517500 := by decide +kernel

/-- The cancel order of a stop removes what has not started (R62). -/
theorem test_stop_cancels_bursts : drained (after (exec (.stop 10480000) commit2)) = true := by decide +kernel

/-- FORCED_OFF removes the channel's bursts (R65). -/
theorem test_forced_off :
    ((after (exec (.channelSet 10480000 2 { noChannelField with override := some 2 }) commit2)).channel 1).bursts = [] := by
  decide +kernel

/-- A free-run field of 50 Hz lasts 20,000 µs (R145). -/
theorem test_generator_field :
    let s := run [.generatorFieldStart, .generatorFieldStart] base
    s.now = 40000 ∧ s.video.fieldNo = 2 := by decide +kernel

/-- The eighth good line declares line lock at the constant FAST; a line of 67 µs ends the run (R138, R141). -/
theorem test_line_lock :
    let v := { base.video with
      genlock := .lineSeek, goodRun := 7, lastSync := some 0
      settings := { base.video.settings with constant := .fast } }
    (after (exec (.lineSync 64 0 false) { base with video := v })).video.genlock = .fieldSeek
      ∧ (after (exec (.lineSync 67 0 false) { base with video := v })).video.goodRun = 0 := by decide +kernel

/-- A HELLO with nine slots is a protocol error (R111). -/
theorem test_hello_nine :
    ((after (exec (.hello 5 0 9) (withRig { Station.initial with present := true, link := .greeting } base))).station 0)
      = { Station.initial with present := true, link := .greeting, protoErrors := 1 } := by decide +kernel

/-- A HELLO with eight slots (R111). -/
theorem test_hello_eight :
    let s := after (exec (.hello 5 0 8) (withRig { Station.initial with present := true, link := .greeting } base))
    (s.station 0).link = .online ∧ (s.station 0).slots.length = 8 ∧ (s.words 0).online = true := by decide +kernel

/-- LOADED for a slot that was flushed while loading (R115, R132). -/
theorem test_flushed_load :
    ((run [.stationFlush 5 1, .loaded 6 0 3] (withRig loadingRig show3)).station 0).slots
      = [resident 10, Slot.blank, Slot.blank] := by decide +kernel

/-- A SELECT that times out leaves two candidates (R116). -/
theorem test_select_timeout :
    ((after (exec (.selectTimeout 0) (withRig selectingRig show3))).station 0).selected = .unknown [1, 2]
      ∧ (after (exec (.selectTimeout 0) (withRig selectingRig show3))).now = 203000 := by decide +kernel

/-- ATTENTION QUERY takes the lowest number first (R192). -/
theorem test_attention_order :
    let s := raise (.goRefused .noStandby .go) (raise (.linkError .crc) base)
    attentionSummary s = 6 ∧ attentionSummary (after (exec (.attentionQuery 5 none) s)) = 8 := by decide +kernel

/-- A masked condition does not assert ATTN (R191). -/
theorem test_masked_condition :
    attnLine (after (exec (.attentionEnable 5 0x1DF) (raise (.goRefused .noStandby .go) base))) = false := by decide +kernel

/-- The fifth frame overflows the queue (R179). -/
theorem test_queue_overflow :
    (run (List.replicate 5 (.requestFrameReceived 5 1 0x40 [])) base).link.overflows = 1
      ∧ (run (List.replicate 5 (.requestFrameReceived 5 1 0x40 [])) base).link.queue.length = 4 := by decide +kernel

/-- A frame's request is answered with its tag and its kind plus 0x80 (R181, R182). -/
theorem test_request_taken :
    ((run [.requestFrameReceived 5 9 0x7F [], .requestTaken 6] base).link.sending.map (·.1.take 5))
      = some [0x7E, 0x00, 0x02, 0x09, 0xFF] := by decide +kernel

/-- RESTART SHOW keeps the list and the settings (R185). -/
theorem test_restart :
    (after (exec (.restartShow 10000005) playing)).store = show3.store
      ∧ (after (exec (.restartShow 10000005) playing)).clock.st = .idle
      ∧ (after (exec (.restartShow 10000005) playing)).clock.spacing = some 10000000 := by decide +kernel


/-- The bytes of SELECT 2 and of LOAD 3 from bank 2, program 7, worked out by hand (R188). -/
theorem test_station_frame_bytes :
    (TxFrame.select 2).bytes = [0xA5, 0x02, 0x02, 0xFC]
      ∧ (TxFrame.load 3 2 7).bytes = [0xA5, 0x01, 0x03, 0x00, 0x02, 0x07, 0xF3] := by decide +kernel

/-- A start byte that a frame's start byte repeats begins a frame of its own: the HELLO of three slots behind it is found
(R188). -/
theorem test_station_receiver_hunts_again :
    rigFeed none [0xA5, 0xA5, 0x81, 0x03, 0x7C] = (none, [.failed, .complete (.hello 3)])
      ∧ (RigFrame.hello 3).command 5 0 = .hello 5 0 3 := by decide +kernel

/-- The gap after LOADED and a second start byte fails both frames: the one found among the failed bytes had its last byte
as long ago (R188). -/
theorem test_station_gap_fails_again : rigGap (some [0x82, 0xA5]) = [.failed, .failed] := by decide +kernel

/-- 52 bit times are 225.7 µs: a byte 225 µs behind the one before goes into the frame, one at 226 µs finds it failed, and so
does the gap at 226 µs (R188). -/
theorem test_station_gap_is_measured :
    let s := run [.stationFrameBad 1000 ⟨0, [0xA5, 0x82]⟩] (withRig rig base)
    (s.station 0).receiver = some ⟨[0x82], 1000⟩
      ∧ ((run [.stationFrameBad 1225 ⟨0, [0x03]⟩] s).station 0).receiver = some ⟨[0x82, 0x03], 1225⟩
      ∧ ((run [.stationFrameBad 1226 ⟨0, [0x03]⟩] s).station 0).protoErrors = 1
      ∧ ((run [.stationFrameGap 1100 ⟨0, []⟩] s).station 0).protoErrors = 1
      ∧ (run [.stationFrameGap 1100 ⟨0, []⟩] s).now = 1226 := by decide +kernel

/-- 0x7E on the line (R174): the start bit, its bits from the least significant on, the stop bit; LTXD at 115,200 baud in the
start bit, in the second data bit and past the byte. -/
theorem test_line_bits :
    byteBits 0x7E = [false, false, true, true, true, true, true, true, false, true]
      ∧ ∃ s : State, s = { base with link := { base.link with sending := some ([0x7E], 100) } }
        ∧ [99, 100, 117, 118, 187].map (ltxd s) = [true, false, false, true, true] := by
  refine ⟨by decide +kernel, _, rfl, by decide +kernel⟩

/-- A stop bit at space leaves the byte, 20 bit times of space are a break (R174, R178). -/
theorem test_line_breaks :
    (readLevels .atMark ((byteBits 0x0F).take 9 ++ List.replicate 15 false)).2 = [.byte 0x0F]
      ∧ (readLevels .atMark ((byteBits 0x0F).take 9 ++ List.replicate 16 false ++ [true])).2 = [.byte 0x0F, .break_, .toMark] := by
  decide +kernel

/-- A line that is still debounced as asserted gives no second edge (R95). -/
theorem test_one_edge_for_a_held_line :
    let s := run [.deskGoEdge 10000000 10000, .deskLineRelease 10005000 .go 9999, .deskGoEdge 10020000 10000] base
    s.attention[5]?.map (·.count) = some 1 := by decide +kernel

/-- No line has held a level for longer than the part has had power (R27, R95). -/
theorem test_edges_after_power_on :
    after (exec (.deskGoEdge 9999 20000) base) = { base with now := 9999 }
      ∧ (after (exec (.beatPulse 1999 5000) { playing with now := 0 })).follower = playing.follower := by decide +kernel

/-- A channel's bursts before show time 0: the onset frames follow from T less the lead, not from 0 (R57, R58). -/
theorem test_onset_before_zero : [(-30000 : Int), -10, 0, 10].map onsetFrame = [-1440, 0, 0, 0] := by decide +kernel
/-! ## Witnesses: each meets every hypothesis of the statement it is named after, clause by clause -/

theorem witness_StepTakesTheFrontCommand :
    ({ base with pending := [.standby 5, .go 6] } : State).pending = .standby 5 :: [.go 6] ∧ base.pending = [] := by
  decide +kernel

/-- A part without power, a command other than POWER_ON, a next state that is reached with power, and a request in the
power-on load. -/
theorem witness_EveryCommandAnswersANextState :
    (({ base with powered := false } : State).powered = false ∧ (∀ a b, Instr.go 5 ≠ .powerOn a b))
      ∧ ((∀ a b, Instr.go 5 ≠ .powerOn a b) ∧ (∀ m, Instr.go 5 ≠ .powerLost m)
        ∧ exec (.go 5) playing = .next (after (exec (.go 5) playing)))
      ∧ (fresh.powered = true ∧ fresh.loading = true ∧ (requestOf (.go 5)).isSome = true ∧ servedInLoad (.go 5) = false) := by
  refine ⟨⟨rfl, ?_⟩, ⟨?_, ?_, rfl⟩, by decide +kernel⟩ <;> (intros; simp)

theorem witness_PowerOnResetAndLoss :
    base.powered = true ∧ (storingAt .mark).powered = true ∧ (storingAt .mark).store.job = some (aJob .mark) := by
  decide +kernel

/-- The state of the invariants' witnesses: station 1 ONLINE with a switch waiting on its LOAD, the clock RUNNING, and
a commit to come. -/
def busy : State := { withRig waitingRig playing with pending := [.beatCommit] }

theorem step_busy : step busy = .next (after (step busy)) := rfl

/-- A hold that drains. -/
def draining : State :=
  { inStop (.holding .draining) playing with
    clock := { playing.clock with st := .frozen, next := none }, pending := [.burstStart 0]
    channels := playing.channels.modify 0 fun c =>
      { c with bursts := [{ kind := .beat, frequency := 1000, peak := 1, onset := 480000, frame := 480000 }] } }

def stopped : State := { after (exec (.stop 10000005) (withRig waitingRig playing)) with pending := [.stop 10000009] }

theorem witness_StepKeepsSizesAndLink : busy.Sized ∧ busy.LinkSound ∧ step busy = .next (after (step busy)) := by
  have short : ∀ g ∈ busy.link.got, g.length < Config.maxPayload + 6 := by decide +kernel
  exact ⟨by unfold State.Sized; decide +kernel, ⟨by decide +kernel, by decide +kernel, short⟩, rfl⟩

theorem witness_StepKeepsStoreSound : busy.StoreSound ∧ step busy = .next (after (step busy)) :=
  ⟨by unfold State.StoreSound; decide +kernel, rfl⟩

theorem witness_StepKeepsMapAndSettingsSound :
    busy.MapSound ∧ busy.SettingsSound ∧ step busy = .next (after (step busy)) :=
  ⟨by unfold State.MapSound; decide +kernel, by unfold State.SettingsSound; decide +kernel, rfl⟩

/-- An EXPLICIT pointer and a latch that holds the cue it names. -/
def pointed : State :=
  { busy with
    seq := { busy.seq with pointer := some (cueNo 3), latch := some (cueNo 3) }
    video := { busy.video with content := { busy.video.content with standby := some (cueNo 3) } } }

theorem witness_StepKeepsCopiesAndPointer :
    pointed.CopiesAgree ∧ pointed.PointerSound ∧ step pointed = .next (after (step pointed)) := by
  have sound : (∀ n ∈ pointed.seq.pointer, (findCue pointed.store.cues n).isSome = true)
      ∧ (∀ n ∈ pointed.seq.latch, nextCue pointed = some n) := by decide +kernel
  exact ⟨by unfold State.CopiesAgree; decide +kernel, ⟨sound.1, sound.2, by decide +kernel⟩, rfl⟩

/-- Three states: RUN, a hold that drains, STOPPED. -/
theorem witness_StepKeepsStopSound :
    (busy.StopSound ∧ draining.StopSound ∧ stopped.StopSound)
      ∧ draining.stop.st = .holding .draining ∧ stopped.stop.st.quiet = true
      ∧ step draining = .next (after (step draining)) ∧ step stopped = .next (after (step stopped)) :=
  ⟨by unfold State.StopSound; decide +kernel, by decide +kernel, by decide +kernel, rfl, rfl⟩

/-- What `State.StationsSound` asks of the selection, the switch and the two places of a station, as a test that runs. -/
def placesRun (st : Station) : Bool :=
  (match st.selected with
    | .slot k => decide (1 ≤ k ∧ k ≤ st.slots.length ∧ (st.slot k).st = .resident)
    | _ => true)
  && (match st.switch with
    | none => st.selectPlace.isNone && st.loadPlace.isNone
    | some w => !st.excluded && (match w.stage with
      | .selectHeld k => decide (st.selectPlace = some k ∧ st.loadPlace = none ∧ 1 ≤ k ∧ k ≤ st.slots.length
          ∧ (st.slot k).st = .resident) && (st.slot k).holds w.patch
      | .selecting k => decide (st.selectPlace = none ∧ st.loadPlace = none ∧ st.outSelect.map (·.slot) = some k)
          && (st.slot k).holds w.patch
      | .loading k => decide (st.selectPlace = none ∧ st.loadPlace = none ∧ 1 ≤ k ∧ k ≤ st.slots.length
          ∧ (st.slot k).st = .loading ∧ (st.slot k).patch = some w.patch)
      | .coldHeld => decide (st.selectPlace = none ∧ st.loadPlace = some w.patch)))

theorem stationsSound_of_run (s : State)
    (h : ∀ st ∈ s.stations, (st.present = false ∨ s.loading = true → st.link = .offline)
      ∧ (st.link ≠ .online → (∀ sl ∈ st.slots, sl.st = .empty) ∧ st.selected = .none ∧ st.outLoad = none ∧ st.outSelect = none
        ∧ st.selectPlace = none ∧ st.loadPlace = none ∧ st.preload = false ∧ st.switch = none ∧ st.silence = false)
      ∧ (∀ j (h : j < st.slots.length), st.slots[j].st = .loading ↔ (st.outLoad.map (·.slot)) = some (j + 1))
      ∧ ((st.slots.Pairwise fun a b => ∀ p ∈ a.patch, ¬(a.carries p = true ∧ b.carries p = true))
        ∧ (∀ sl ∈ st.slots, sl.stale = true → sl.patch ≠ none → sl.st = .loading)
        ∧ ∀ p ∈ st.loadPlace, ∀ sl ∈ st.slots, sl.holds p = false)
      ∧ ((∀ o ∈ st.outLoad, 1 ≤ o.slot ∧ o.slot ≤ st.slots.length)
        ∧ ∀ o ∈ st.outSelect, 1 ≤ o.slot ∧ o.slot ≤ st.slots.length ∧ (st.slot o.slot).st = .resident)
      ∧ placesRun st = true) : s.StationsSound := by
  intro st hm
  obtain ⟨a, b, c, d, ⟨e1, e2⟩, f⟩ := h st hm
  simp only [placesRun, Bool.and_eq_true] at f
  refine ⟨a, b, c, d, ⟨e1, e2, fun k hk => ?_⟩, fun w hw => ?_, fun k hk => ?_, fun p hp => ?_, fun hx => ?_⟩
  · simpa [hk, Station.Resident] using f.1
  all_goals clear a b c d e1 e2 h
  · have g := f.2
    rw [Option.mem_def] at hw
    cases hs : w.stage <;> simp only [hw, hs, Bool.and_eq_true, decide_eq_true_eq] at g <;>
      simp_all [Station.StageHeld, Station.Resident]
  all_goals
    have g := f.2
    clear f
    cases hw : st.switch with
    | none => simp_all
    | some w => cases hs : w.stage <;> simp only [hw, hs, Bool.and_eq_true, decide_eq_true_eq] at g <;> simp_all

/-- `Station.Confirmed` as a test that runs. -/
def confirmedRun (st : Station) (p : Nat) : Bool :=
  match st.selected with
  | .slot k => decide ((st.slot k).st = .resident) && (st.slot k).holds p
  | _ => false

theorem confirmed_of_run (st : Station) (p : Nat) (h : confirmedRun st p = true) : st.Confirmed p := by
  unfold confirmedRun at h
  split at h
  · exact ⟨_, by assumption, by simpa using h⟩
  · cases h

theorem readySound_of_run (s : State) (r : ResumePoint) (hr : s.stop.resume = some r)
    (h : (s.loading = true → s.stop.st.rebuilds = false)
      ∧ s.stop.st = (if s.stop.account.any Account.blocks then .rebuilding else .ready) ∧ s.seq.current = some r.cue
      ∧ ∀ i, ((s.station i).link = .online → (s.words i).online = true) ∧ (s.words i).excluded = (s.station i).excluded
        ∧ ((s.station i).serves = true → ∀ n ∈ s.seq.current, s.stop.account[i.val]? ≠ some .notCounted
          ∧ (∀ w ∈ (s.station i).switch, w.rebuild = true ∧ (trackedPatch s.store.cues n i).map (·.1) = some w.patch)
          ∧ (s.stop.account[i.val]? = some .satisfied → ∀ p ∈ (trackedPatch s.store.cues n i).map (·.1),
            confirmedRun (s.station i) p = true ∧ (s.station i).outSelect = none ∧ (s.station i).switch = none))) :
    s.ReadySound := by
  obtain ⟨a, b, c, d⟩ := h
  refine ⟨a, fun _ => ⟨b, r, hr, c⟩, fun i => ⟨(d i).1, (d i).2.1, fun _ hs n hn => ?_⟩⟩
  obtain ⟨x, y, z⟩ := (d i).2.2 hs n hn
  exact ⟨x, y, fun ha p hp => ⟨confirmed_of_run _ _ (z ha p hp).1, (z ha p hp).2⟩⟩

theorem busy_stationsSound : busy.StationsSound := stationsSound_of_run _ (by decide +kernel)

/-- A rebuild for cue 3 at bar 1, whose tracked patch for station 1 is 11, with the station as given and the entry `a`; the
exclusion of station 1 waits. -/
def rebuildOf (st : Station) (a : Account) : State :=
  let s := withRig st (after (exec (.resumePoint 10000006 (cueNo 3) none) (after (exec (.stop 10000005) playing))))
  inStop (if a = .waiting then .rebuilding else .ready)
    { s with
      stop := { s.stop with account := s.stop.account.set 0 a }
      pending := [.stationSet 10000009 1 { excluded := some 1, lateOverride := none }] }

/-- A SELECT outstanding at 10,000,000. -/
def selectOut (k : Nat) : OutSelect := { slot := k, sent := 10000000, due := some 10050000 }

/-- A switch to patch 11 with the rebuild mark. -/
def rebuildSwitch (stage : SwitchStage) : Switch := { aSwitch stage with fireTime := none, rebuild := true }

/-- A station whose rebuild switch waits on its SELECT, one whose switch waits on its LOAD, one with a cold load that finds no
victim, and the station of READY: patch 11 selected in slot 3. -/
def askedRig : Station :=
  { rig with
    slots := [resident 10, resident 20, resident 11], outSelect := some (selectOut 3)
    switch := some (rebuildSwitch (.selecting 3)) }

def reloadRig : Station := { loadingRig with switch := some (rebuildSwitch (.loading 3)) }

def pressedRig : Station :=
  { rig with
    slots := [resident 10, resident 20], outSelect := some (selectOut 2), loadPlace := some 11
    switch := some (rebuildSwitch .coldHeld) }

def readyRig : Station := { rig with slots := [resident 10, resident 20, resident 11], selected := .slot 3 }

theorem rebuildOf_sound (st : Station) (a : Account)
    (h : (st, a) ∈ [(askedRig, Account.waiting), (reloadRig, .waiting), (pressedRig, .waiting), (readyRig, .satisfied)]) :
    (rebuildOf st a).Serving ∧ (rebuildOf st a).Sized ∧ (rebuildOf st a).StationsSound ∧ (rebuildOf st a).ReadySound
      ∧ (rebuildOf st a).CopiesAgree ∧ (rebuildOf st a).stop.st.rebuilds = true
      ∧ (rebuildOf st a).stop.resume = some { cue := cueNo 3, bar := 1 } := by
  unfold State.Serving State.Sized State.CopiesAgree
  simp only [List.mem_cons, List.not_mem_nil, or_false, Prod.mk.injEq] at h
  obtain ⟨rfl, rfl⟩ | ⟨rfl, rfl⟩ | ⟨rfl, rfl⟩ | ⟨rfl, rfl⟩ := h <;>
    exact ⟨by decide +kernel, by decide +kernel, stationsSound_of_run _ (by decide +kernel),
      readySound_of_run _ { cue := cueNo 3, bar := 1 } (by decide +kernel) (by decide +kernel), by decide +kernel,
      by decide +kernel, by decide +kernel⟩

/-- The outcome is a next state. -/
def isNext (o : Host.Outcome State Fault Refusal) : Bool :=
  match o with
  | .next _ => true
  | _ => false

theorem next_of_run (o : Host.Outcome State Fault Refusal) (h : isNext o = true) : ∃ u, o = .next u := by
  cases o with
  | next u => exact ⟨u, rfl⟩
  | _ => cases h

/-- RUN with a LOAD outstanding, REBUILDING and READY. -/
theorem witness_StepKeepsStationsSound :
    (busy.StationsSound ∧ (busy.station 0).outLoad.isSome = true ∧ step busy = .next (after (step busy)))
      ∧ (∀ s ∈ [rebuildOf askedRig .waiting, rebuildOf readyRig .satisfied], s.Sized ∧ s.StationsSound ∧ s.ReadySound
        ∧ s.stop.resume = some { cue := cueNo 3, bar := 1 } ∧ (s.station 0).link = .online
        ∧ (s.station 0).excluded = false ∧ (trackedPatch s.store.cues (cueNo 3) 0).map (·.1) = some 11
        ∧ ∃ u, step s = .next u)
      ∧ (rebuildOf askedRig .waiting).stop.st = .rebuilding ∧ (rebuildOf readyRig .satisfied).stop.st = .ready := by
  refine ⟨⟨busy_stationsSound, by decide +kernel, rfl⟩, fun s hs => ?_, by decide +kernel, by decide +kernel⟩
  simp only [List.mem_cons, List.not_mem_nil, or_false] at hs
  obtain rfl | rfl := hs
  · obtain ⟨-, b, c, d, -⟩ := rebuildOf_sound askedRig .waiting (by simp)
    exact ⟨b, c, d, by decide +kernel, by decide +kernel, by decide +kernel, by decide +kernel,
      next_of_run _ (by decide +kernel)⟩
  · obtain ⟨-, b, c, d, -⟩ := rebuildOf_sound readyRig .satisfied (by simp)
    exact ⟨b, c, d, by decide +kernel, by decide +kernel, by decide +kernel, by decide +kernel,
      next_of_run _ (by decide +kernel)⟩

theorem witness_StoreFreezesTheImage :
    ((storingAt .erase).Sized ∧ (storingAt .erase).Serving ∧ (storingAt .erase).storing = true)
      ∧ (∀ a b, Instr.restartShow 5 ≠ .powerOn a b) ∧ (∀ m, Instr.restartShow 5 ≠ .powerLost m)
      ∧ exec (.restartShow 5) (storingAt .erase) = .next (after (exec (.restartShow 5) (storingAt .erase))) := by
  refine ⟨?_, ?_, ?_, rfl⟩
  · unfold State.Sized State.Serving
    decide +kernel
  all_goals (intros; simp)

/-- Protect mode ALL. -/
def protectedAll : State :=
  { show3 with store := { show3.store with protect := { mode := .all, range := none, keyLock := false } } }

theorem witness_ProtectAllFreezesListAndMap :
    protectedAll.store.protect.mode = .all ∧ protectedAll.loading = false
      ∧ (∀ a b, Instr.cueDelete 5 (cueNo 1) ≠ .powerOn a b) ∧ (∀ m, Instr.cueDelete 5 (cueNo 1) ≠ .powerLost m)
      ∧ exec (.cueDelete 5 (cueNo 1)) protectedAll = .next (after (exec (.cueDelete 5 (cueNo 1)) protectedAll)) := by
  refine ⟨rfl, rfl, ?_, ?_, rfl⟩ <;> (intros; simp)

/-- The channels 1 and 16 and the stations 1 and 6, a number past each, both sides of each key. -/
theorem witness_ReadsChangeOnlyTheReply :
    show3.Serving ∧ show3.powered = true ∧ (1 ≤ 1 ∧ 1 ≤ 16) ∧ (1 ≤ 16 ∧ 16 ≤ 16) ∧ ¬(1 ≤ 17 ∧ 17 ≤ 16)
      ∧ (1 ≤ 6 ∧ 6 ≤ 6) ∧ ¬(1 ≤ 7 ∧ 7 ≤ 6) ∧ ¬(1 ≤ 0 ∧ 0 ≤ 6)
      ∧ (cueNoOk (cueNo 1) = true ∧ findCue show3.store.cues (cueNo 1) = some cue1)
      ∧ (cueNoOk (cueNo 9999) = true ∧ findCue show3.store.cues (cueNo 9999) = none)
      ∧ cueNoOk (cueNo 10000) = false ∧ 1 < 2
      ∧ (cueNoOk (cueNo 1) = true ∧ 1 ≤ 1 ∧ 1 ≤ 8 ∧ 8 ≤ 8) ∧ ¬(cueNoOk (cueNo 1) = true ∧ 1 ≤ 1 ∧ 1 ≤ 9 ∧ 9 ≤ 8)
      ∧ (stationOk 1 = true ∧ patchOk 11 = true ∧ findMap show3.map 1 11 = some (entry 11))
      ∧ (stationOk 6 = true ∧ patchOk 4095 = true ∧ findMap show3.map 6 4095 = none)
      ∧ (stationOk 7 && patchOk 11) = false ∧ (stationOk 1 && patchOk 4096) = false
      ∧ (increasing show3.store.cues = true ∧ show3.channels.length = 16) := by
  unfold State.Serving
  decide +kernel

/-- The tracked part at a cue with an action, at one after it, at one before the first action, and off the list. -/
theorem test_tracked_part_is_the_last_at_or_before :
    trackedPatch show3.store.cues (cueNo 2) 0 = some (10, cueNo 1)
      ∧ trackedPatch show3.store.cues (cueNo 3) 0 = some (11, cueNo 3)
      ∧ trackedPatch show3.store.cues (cueNo 9999) 0 = some (11, cueNo 3)
      ∧ trackedPatch show3.store.cues { whole := 0, point := 1 } 0 = none := by decide +kernel

/-- A new record, one that replaces a cue, and a delete, outside a rebuild and in one. -/
theorem witness_CueEditsWriteTheList :
    (show3.Serving ∧ show3.storing = false ∧ readCue (rawCue 4) = some (bareCue 4 .manual)
        ∧ protectsCue show3.store.protect (cueNo 4) = false ∧ show3.store.cueCount < 1024
        ∧ poolAfterPut (bareCue 4 .manual) show3 ≤ 8192 ∧ show3.stop.st.rebuilds = false)
      ∧ (readCue (rawCue 1) = some (bareCue 1 .manual) ∧ (findCue show3.store.cues (cueNo 1)).isSome = true
        ∧ poolAfterPut (bareCue 1 .manual) show3 ≤ 8192)
      ∧ (cueNoOk (cueNo 3) = true ∧ protectsCue show3.store.protect (cueNo 3) = false
        ∧ findCue show3.store.cues (cueNo 3) = some cue3)
      ∧ (∀ s ∈ [rebuildOf askedRig .waiting, rebuildOf readyRig .satisfied], s.Serving ∧ s.storing = false
        ∧ protectsCue s.store.protect (cueNo 4) = false ∧ protectsCue s.store.protect (cueNo 3) = false
        ∧ findCue s.store.cues (cueNo 3) = some cue3 ∧ s.store.cueCount < 1024
        ∧ poolAfterPut (bareCue 4 .manual) s ≤ 8192 ∧ s.stop.st.rebuilds = true
        ∧ s.stop.resume = some { cue := cueNo 3, bar := 1 }) := by
  unfold State.Serving
  decide +kernel

/-- A full list, and a full pool. -/
def fullList : State := { show3 with store := { show3.store with cueCount := 1024 } }
def fullPool : State := { show3 with store := { show3.store with poolUsed := 8192 } }

/-- A full patch map: 512 entries, none for patch 600. -/
def fullMap : State := { show3 with map := (List.range 512).map entry }

def rawWithPatch : RawCue := { rawCue 4 with patches := [{ station := 1, patch := 10 }] }

def cueWithPatch : Cue := { bareCue 4 .manual with patches := [{ station := 1, patch := 10 }] }

theorem witness_EditsRefused :
    ((storingAt .erase).Serving ∧ (storingAt .erase).storing = true)
      ∧ (show3.Serving ∧ show3.storing = false ∧ readCue { rawCue 4 with kind := 3 } = none
        ∧ cueNoOk (cueNo 0) = false)
      ∧ (protectedAll.Serving ∧ protectedAll.storing = false ∧ readCue (rawCue 4) = some (bareCue 4 .manual)
        ∧ protectsCue protectedAll.store.protect (cueNo 4) = true ∧ cueNoOk (cueNo 4) = true
        ∧ stationOk 6 = true ∧ patchOk 1 = true ∧ protectedAll.store.protect.mode = .all)
      ∧ (fullList.Serving ∧ fullList.storing = false ∧ protectsCue fullList.store.protect (cueNo 4) = false
        ∧ findCue fullList.store.cues (cueNo 4) = none ∧ 1024 ≤ fullList.store.cueCount)
      ∧ (fullPool.Serving ∧ fullPool.storing = false ∧ readCue rawWithPatch = some cueWithPatch
        ∧ protectsCue fullPool.store.protect cueWithPatch.number = false ∧ fullPool.store.cueCount < 1024
        ∧ 8192 < poolAfterPut cueWithPatch fullPool)
      ∧ (cueNoOk (cueNo 4) = true ∧ protectsCue show3.store.protect (cueNo 4) = false
        ∧ findCue show3.store.cues (cueNo 4) = none)
      ∧ (stationOk 0 = false ∧ stationOk 7 = false ∧ patchOk 0 = false ∧ patchOk 4096 = false)
      ∧ (stationOk 1 = true ∧ patchOk 600 = true ∧ show3.store.protect.mode ≠ .all ∧ 16383 < 16384 ∧ 127 < 128
        ∧ 30000 < 30001 ∧ findMap show3.map 1 600 = none)
      ∧ (fullMap.Serving ∧ fullMap.storing = false ∧ fullMap.store.protect.mode ≠ .all
        ∧ (16383 ≤ 16383 ∧ 127 ≤ 127 ∧ 30000 ≤ 30000) ∧ findMap fullMap.map 1 600 = none ∧ 512 ≤ fullMap.map.length) := by
  unfold State.Serving
  decide +kernel

/-- A key that has an entry, and one that has none in a map of 511; a switch to the patch, and one to another; a rebuild. -/
theorem witness_MapEditsWriteTheTable :
    ((withRig waitingRig show3).Serving ∧ (withRig waitingRig show3).stations.length = 6
        ∧ (withRig waitingRig show3).storing = false ∧ 1 = (0 : Fin 6).val + 1 ∧ patchOk 11 = true
        ∧ (withRig waitingRig show3).store.protect.mode ≠ .all ∧ (withRig waitingRig show3).stop.st.rebuilds = false
        ∧ (16383 ≤ 16383 ∧ 127 ≤ 127 ∧ 30000 ≤ 30000)
        ∧ (findMap (withRig waitingRig show3).map 1 11).isSome = true
        ∧ ((withRig waitingRig show3).station 0).switch = some (aSwitch (.loading 3))
        ∧ (aSwitch (.loading 3)).patch = 11)
      ∧ (patchOk 10 = true ∧ (findMap (withRig waitingRig show3).map 1 10).isSome = true
        ∧ ∀ w ∈ ((withRig waitingRig show3).station 0).switch, w.patch ≠ 10)
      ∧ (6 = (5 : Fin 6).val + 1 ∧ patchOk 4095 = true ∧ ∃ s : State, s = { show3 with map := fullMap.map.take 511 }
        ∧ findMap s.map 6 4095 = none ∧ s.map.length < 512)
      ∧ ((withRig waitingRig show3).RebuildSound ∧ show3.RebuildSound)
      ∧ (∃ s : State, s = rebuildOf reloadRig .waiting ∧ s.Serving ∧ s.stations.length = 6 ∧ s.storing = false
        ∧ s.store.protect.mode ≠ .all ∧ s.RebuildSound ∧ s.stop.st.rebuilds = true
        ∧ s.stop.resume = some { cue := cueNo 3, bar := 1 } ∧ (findMap s.map 1 11).isSome = true
        ∧ ((s.station 0).switch.map (·.patch)) = some 11) := by
  have quiet : ∀ s : State, s.stop.st = .run → s.RebuildSound := fun s h x => by rw [h] at x; cases x
  obtain ⟨a, -, -, d, -⟩ := rebuildOf_sound reloadRig .waiting (by simp)
  refine ⟨by unfold State.Serving; decide +kernel, by decide +kernel, ⟨rfl, by decide, _, rfl, by decide +kernel⟩,
    ⟨quiet _ rfl, quiet _ rfl⟩, _, rfl, a, by decide +kernel, by decide +kernel, by decide +kernel, d.2.1, ?_⟩
  decide +kernel

/-- The KEY asserted with and without the key-lock, a store, and the three modes. -/
theorem witness_ProtectionAndKey :
    ((storingAt .mark).Serving ∧ (storingAt .mark).storing = true)
      ∧ (∃ s : State, s = { show3 with
            desk := { show3.desk with key := true }
            store := { show3.store with protect := { mode := .none, range := none, keyLock := true } } }
          ∧ s.Serving ∧ s.storing = false ∧ s.desk.key = true ∧ s.store.protect.keyLock = true)
      ∧ (show3.Serving ∧ show3.storing = false ∧ show3.desk.key = false)
      ∧ (cueNoOk (cueNo 1) = true ∧ cueNoOk (cueNo 9999) = true ∧ cueLe (cueNo 1) (cueNo 9999) = true)
      ∧ show3.powered = true :=
  ⟨⟨⟨rfl, rfl⟩, rfl⟩, ⟨_, rfl, ⟨rfl, rfl⟩, rfl, rfl, rfl⟩, ⟨⟨rfl, rfl⟩, rfl, rfl⟩, by decide +kernel, rfl⟩

theorem witness_StoreStages :
    (show3.Serving ∧ show3.store.job = none)
      ∧ ((storingAt .erase).Serving ∧ (storingAt .erase).store.job.isSome = true)
      ∧ (∀ st : StoreStage, (storingAt st).powered = true ∧ (storingAt st).store.job = some (aJob st) ∧ (aJob st).stage = st) :=
  ⟨⟨⟨rfl, rfl⟩, rfl⟩, ⟨⟨rfl, rfl⟩, rfl⟩, fun _ => ⟨rfl, rfl, rfl⟩⟩

/-- A load that reads a stored show, and one that reads nothing. -/
theorem witness_LoadInstallsTheImage :
    (fresh.powered = true ∧ fresh.loading = true ∧ fresh.Sized ∧ fresh.StationsSound)
      ∧ (imageRead fresh.flash (.written { marker := true, body := some (imageOf show3), crcMatches := true })
          = some (imageOf show3) ∧ (imageOf show3).channels.length = 16)
      ∧ imageRead fresh.flash .noAnswer = none ∧ imageRead fresh.flash .asLeft = none := by
  unfold State.Sized
  exact ⟨⟨rfl, rfl, by decide +kernel, stationsSound_of_run _ (by decide +kernel)⟩, by decide +kernel, by decide +kernel,
    by decide +kernel⟩

theorem witness_StoredShowComesBack :
    show3.Serving ∧ show3.store.job = none ∧ show3.StoreSound ∧ show3.MapSound ∧ show3.SettingsSound := by
  unfold State.Serving State.StoreSound State.MapSound State.SettingsSound
  decide +kernel

/-- STOPPED, READY, a list at its end, a next cue, a latch that is clear and one that is set. -/
theorem witness_StandbyAndItsCancel :
    ((inStop .stopped show3).Serving ∧ (inStop .stopped show3).stop.st = .stopped
        ∧ DeskEdge .stby 10000 10000 (inStop .stopped show3))
      ∧ (inStop .ready show3).stop.st.rebuilds = true
      ∧ (base.Serving ∧ base.stop.st ≠ .stopped ∧ base.stop.st.rebuilds = false ∧ nextCue base = none
        ∧ DeskEdge .stby 10000 10000 base)
      ∧ (show3.Serving ∧ nextCue show3 = some (cueNo 1) ∧ findCue show3.store.cues (cueNo 1) = some cue1
        ∧ show3.stop.st ≠ .stopped ∧ show3.stop.st.rebuilds = false ∧ DeskEdge .stby 10000 10000 show3)
      ∧ (show3.seq.latch = none ∧ (after (exec (.standby 5) show3)).seq.latch = some (cueNo 1))
      ∧ (show3.stations.length = 6 ∧ (after (exec (.standby 5) show3)).stations.length = 6) := by
  unfold State.Serving DeskEdge
  decide +kernel

/-- `playing` with the next cue, cue 2, in standby. -/
def cued : State := { playing with seq := { playing.seq with latch := some (cueNo 2) } }

/-- A follow timer that runs in RUN and one in HOLDING. -/
def timed : State := { playing with seq := { playing.seq with timer := .running (cueNo 3) 10000500 } }

/-- `show3` with cue 1 in standby and the clock IDLE. -/
def idleCued : State := { show3 with seq := { show3.seq with latch := some (cueNo 1) } }

/-- `idleCued` with `r` as cue 1's record and the clock's spacing. -/
def idleWith (r : Option TempoRecord) (spacing : Option Nat) : State :=
  { idleCued with
    now := 10000000
    store := { idleCued.store with cues := [{ cue1 with tempo := r }, cue2, cue3] }
    clock := { idleCued.clock with spacing := spacing } }

/-- Each mode, and none; a FIXED start with a count-in and without one, due at once, at the spacing's bound and held back
by one µs. -/
theorem witness_GoFromIdle :
    (∀ x ∈ [(none, none), (some { fixed120 with mode := .tacet }, none), (some { fixed120 with mode := .conducted }, none),
        (some { fixed120 with mode := .follow }, none), (some fixed120, none), (some { fixed120 with countIn := 0 }, none),
        (some fixed120, some (9900000 + idleCued.clock.lead)), (some fixed120, some (9900001 + idleCued.clock.lead))],
      ∀ s ∈ [idleWith x.1 x.2], s.Serving ∧ s.stop.st = .run ∧ s.clock.st = .idle ∧ nextCue s = some (cueNo 1)
        ∧ findCue s.store.cues (cueNo 1) = some { cue1 with tempo := x.1 }
        ∧ (s.seq.settings.standbyRequired = true → s.seq.latch.isSome = true)
        ∧ s.stations.length = 6 ∧ s.follower.st = .free ∧ s.follower.last = none
        ∧ tempoHanded { cue1 with tempo := x.1 } s = x.1
        ∧ s.clock.holdArmed = false ∧ s.clock.pendingRec = none ∧ (∀ r ∈ x.1, r.ramp = none)
        ∧ (∀ n ∈ afterCurrent s.store.cues (some (cueNo 1)), ∀ d ∈ findCue s.store.cues n,
          d.trigger ≠ .atBar (startBar { cue1 with tempo := x.1 } s.clock) 1))
      ∧ (∀ k ∈ (idleWith none (some (9900000 + idleCued.clock.lead))).clock.spacing,
        k + 100000 ≤ (idleWith none none).now + (idleWith none none).clock.lead)
      ∧ (∀ k ∈ (idleWith none (some (9900001 + idleCued.clock.lead))).clock.spacing,
        (idleWith none none).now + (idleWith none none).clock.lead < k + 100000) := by
  unfold State.Serving
  refine ⟨?_, ?_, ?_⟩ <;> decide +kernel

/-- GO hands station 1, which has patch 10 selected, cue 1's patch 10 as a target: the switch ends at once. -/
theorem test_go_switches_the_station :
    ((after (exec (.go 5) (withRig rig idleCued))).station 0).lastSwitch.map (fun w => (w.cue, w.patch))
      = some (some (cueNo 1), some 10) := by decide +kernel

theorem witness_GoAndFollowFire :
    (cued.Serving ∧ DeskEdge .go 10000000 10000 cued ∧ cued.clock.st ≠ .idle ∧ findCue cued.store.cues (cueNo 2) = some cue2
        ∧ cued.stop.st = .run ∧ nextCue cued = some (cueNo 2)
        ∧ (cued.seq.settings.standbyRequired = true → cued.seq.latch.isSome = true))
      ∧ (timed.Serving ∧ timed.clock.st ≠ .idle ∧ findCue timed.store.cues (cueNo 3) = some cue3
        ∧ timed.stop.st.fires = true ∧ timed.seq.timer = .running (cueNo 3) 10000500
        ∧ (inStop (.holding .armed) timed).stop.st.fires = true)
      ∧ (idleCued.Serving ∧ idleCued.stop.st = .run ∧ idleCued.clock.st = .idle ∧ nextCue idleCued = some (cueNo 1)
        ∧ findCue idleCued.store.cues (cueNo 1) = some cue1
        ∧ (idleCued.seq.settings.standbyRequired = true → idleCued.seq.latch.isSome = true)
        ∧ (cued.stations.length = 6 ∧ timed.stations.length = 6)
        ∧ (if firesTracked cue1 idleCued then (trackedTempo idleCued.store.cues (cueNo 1)).map (·.1) else cue1.tempo)
          = some fixed120
        ∧ fixed120.mode = .fixed ∧ 1 ≤ fixed120.countIn) := by
  unfold State.Serving DeskEdge
  decide +kernel

/-- `show3` READY with the desk STOP line asserted. -/
def stopHeld : State := { inStop .ready show3 with desk := { show3.desk with stop := true } }

theorem witness_GoRefused :
    (base.Serving ∧ base.stop.st = .run ∧ nextCue base = none ∧ DeskEdge .go 10000 10000 base)
      ∧ (show3.Serving ∧ show3.stop.st = .run ∧ (nextCue show3).isSome = true
        ∧ show3.seq.settings.standbyRequired = true ∧ show3.seq.latch = none ∧ DeskEdge .go 10000 10000 show3)
      ∧ (stopHeld.Serving ∧ stopHeld.stop.st = .ready ∧ stopHeld.desk.stop = true ∧ DeskEdge .go 10000 10000 stopHeld)
      ∧ ((inStop .stopped show3).Serving ∧ (inStop .stopped show3).stop.st = .stopped
        ∧ (inStop .rebuilding show3).stop.st = .rebuilding
        ∧ (inStop (.countIn .hold) show3).stop.st = .countIn .hold)
      ∧ ((inStop .held timed).Serving ∧ (inStop .held timed).stop.st = .held
        ∧ (inStop .held timed).seq.timer = .running (cueNo 3) 10000500
        ∧ (inStop (.countIn .resume) timed).stop.st = .countIn .resume) := by
  unfold State.Serving DeskEdge
  decide +kernel

theorem witness_JumpSetsThePointer :
    (show3.Serving ∧ cueNoOk { whole := 1, point := 10 } = false)
      ∧ ((inStop .ready show3).Serving ∧ cueNoOk (cueNo 3) = true ∧ (inStop .ready show3).stop.st.fires = false
        ∧ (inStop .ready show3).stop.st ≠ .held)
      ∧ (cueNoOk (cueNo 9999) = true ∧ show3.stop.st.fires = true ∧ findCue show3.store.cues (cueNo 9999) = none)
      ∧ ((inStop .held show3).Serving ∧ (inStop .held show3).stop.st = .held
        ∧ (findCue (inStop .held show3).store.cues (cueNo 3)).isSome = true)
      ∧ (increasing show3.store.cues = true ∧ show3.stations.length = 6 ∧ show3.seq.pointer = none)
      ∧ (increasing pointed.store.cues = true ∧ pointed.seq.pointer.isSome = true)
      ∧ (increasing base.store.cues = true ∧ nextCue base = none) := by
  unfold State.Serving
  refine ⟨?_, ?_, ?_, ?_, ?_, ?_, ?_⟩ <;> decide +kernel

/-- The look-ahead starts at the next cue and has at most L cues. -/
theorem test_look_ahead_is_from_the_next_cue :
    lookAhead playing = [cueNo 2, cueNo 3]
      ∧ lookAhead { playing with seq := { playing.seq with settings := { playing.seq.settings with lookAhead := 1 } } }
        = [cueNo 2] := by decide +kernel

/-- A count-in of one bar to bar 5. -/
def countingIn : State :=
  { playing with clock := { playing.clock with
      st := .countingIn, start := some { bar := 5, beats := 4, ramp := false }
      next := some { time := some 10500000, kind := .countIn 2 } } }

theorem witness_HoldByState :
    (playing.Serving ∧ DeskEdge .hold 10000000 10000 playing ∧ playing.stop.st = .run ∧ playing.clock.st = .running)
      ∧ ((inStop (.countIn .resume) playing).stop.st = .countIn .resume)
      ∧ (show3.Serving ∧ show3.stop.st = .run ∧ show3.clock.st = .idle ∧ DeskEdge .hold 10000 10000 show3)
      ∧ ((inStop .held show3).Serving ∧ (inStop .held show3).stop.st = .held
        ∧ (inStop (.holding .draining) show3).stop.st = .holding .draining
        ∧ DeskEdge .hold 10000 10000 (inStop .held show3))
      ∧ ((inStop .stopped show3).stop.st = .stopped ∧ (inStop .ready show3).stop.st.rebuilds = true
        ∧ DeskEdge .hold 10000 10000 (inStop .stopped show3))
      ∧ (countingIn.Serving ∧ countingIn.stop.st = .run ∧ countingIn.clock.st = .countingIn
        ∧ countingIn.clock.start = some { bar := 5, beats := 4, ramp := false } ∧ countingIn.clock.ramp = none) := by
  unfold State.Serving DeskEdge
  decide +kernel

/-- READY at cue 1, bar 2, after a stop. -/
def readyAt : State :=
  { after (exec (.resumePoint 10000006 (cueNo 1) (some 2)) (after (exec (.stop 10000005) playing))) with pending := [] }

theorem witness_StopStopsTheShow :
    ((withRig waitingRig playing).Serving ∧ DeskEdge .stop 10000000 10000 (withRig waitingRig playing)
        ∧ (withRig waitingRig playing).stop.st ≠ .stopped
        ∧ (withRig waitingRig playing).stop.st.rebuilds = false ∧ ((withRig waitingRig playing).station 0).serves = true
        ∧ (withRig waitingRig playing).clock.st.beats = true)
      ∧ (show3.Serving ∧ show3.clock.st.beats = false)
      ∧ (cued.Serving ∧ cued.seq.latch ≠ none ∧ cued.stations.length = 6 ∧ cued.stop.st = .run)
      ∧ (stopped.Serving ∧ stopped.stop.st = .stopped ∧ (stopped.station 0).serves = true)
      ∧ (readyAt.Serving ∧ readyAt.stop.st.rebuilds = true
        ∧ readyAt.stop.position = some (stopPositionOf playing.clock.position))
      ∧ (∀ s ∈ [stopped, readyAt, rebuildOf askedRig .waiting, rebuildOf readyRig .satisfied],
        s.Serving ∧ DeskEdge .stop 10000010 10000 s)
      ∧ (∀ s ∈ [rebuildOf askedRig .waiting, rebuildOf readyRig .satisfied], s.stop.st.rebuilds = true
        ∧ s.stop.position = some (stopPositionOf playing.clock.position) ∧ (s.station 0).serves = true) := by
  unfold State.Serving DeskEdge
  refine ⟨?_, ?_, ?_, ?_, ?_, ?_, ?_⟩ <;> decide +kernel

/-- A second STOP in REBUILDING drops the rebuild switch, owes the station SILENCE and empties the account. -/
theorem test_stop_in_a_rebuild_drops_the_switch :
    (fun u : State => (u.stop.st, u.stop.account[0]?, (u.station 0).switch, (u.station 0).silence,
        (u.station 0).lastSwitch.map (·.outcome)))
      (after (exec (.deskStopEdge 10000010 10000) (rebuildOf askedRig .waiting)))
      = (.stopped, some .notCounted, none, true, some .dropped) := by decide +kernel

/-- REBUILDING with an entry that is PENDING, and one without. -/
def rebuildingWith (a : Account) : State :=
  { inStop .rebuilding show3 with
    stop := { (inStop .rebuilding show3).stop with
      resume := some { cue := cueNo 1, bar := 2 }, account := a :: List.replicate 5 .notCounted } }

/-- A cue at (5, 1) with a bar set, one that follows without, and the stop position of cue 1. -/
theorem witness_RebuildAndReadiness :
    (stopped.Serving ∧ cueNoOk (cueNo 10000) = false ∧ ¬(1 ≤ 0 ∧ 0 ≤ 9999) ∧ ¬(1 ≤ 10000 ∧ 10000 ≤ 9999))
      ∧ (show3.Serving ∧ cueNoOk (cueNo 1) = true ∧ (1 ≤ 9999 ∧ 9999 ≤ 9999) ∧ show3.stop.st ≠ .stopped
        ∧ show3.stop.st.rebuilds = false)
      ∧ (stopped.stop.st = .stopped ∧ cueNoOk (cueNo 9) = true ∧ findCue stopped.store.cues (cueNo 9) = none
        ∧ findCue stopped.store.cues (cueNo 1) = some cue1 ∧ (1 ≤ 1 ∧ 1 ≤ 9999))
      ∧ (readyAt.stop.st.rebuilds = true ∧ findCue readyAt.store.cues (cueNo 1) = some cue1)
      ∧ (stopped.stop.words.length = 6 ∧ stopped.stations.length = 6 ∧ (stopped.station 5).serves = false
        ∧ (stopped.station 0).serves = true ∧ (trackedPatch stopped.store.cues (cueNo 3) 0).map (·.1) = some 11
        ∧ (findMap stopped.map 1 11).isSome = true ∧ (stopped.station 0).isHot 11 = false)
      ∧ ((rebuildingWith .waiting).stop.resume = some { cue := cueNo 1, bar := 2 }
        ∧ (rebuildingWith .waiting).stop.st.rebuilds = true ∧ (evaluateReady (rebuildingWith .waiting)).stop.st = .rebuilding
        ∧ (rebuildingWith .satisfied).stop.st = .rebuilding
        ∧ (evaluateReady (rebuildingWith .satisfied)).stop.st = .ready) := by
  unfold State.Serving
  decide +kernel

/-- R165's table: the stop position's cue, AT_BAR, a bar set without AT_BAR, and neither. -/
theorem witness_RebuildAndReadiness_resume_bars :
    (∃ p, stopped.stop.position = some p ∧ p.cue = some (cueNo 1))
      ∧ (findCue stopped.store.cues (cueNo 2) = some cue2 ∧ cue2.trigger = .atBar 5 1
        ∧ findCue stopped.store.cues (cueNo 3) = some cue3 ∧ (∀ x k, cue3.trigger ≠ .atBar x k) ∧ cue3.barSet = none
        ∧ ∀ p, stopped.stop.position = some p → p.cue ≠ some (cueNo 2) ∧ p.cue ≠ some (cueNo 3))
      ∧ ∃ s : State, ∃ c : Cue, s = { stopped with store := { stopped.store with cues := [cue1, cue2, c] } }
        ∧ c = { cue3 with barSet := some 7 } ∧ findCue s.store.cues (cueNo 3) = some c ∧ (∀ x k, c.trigger ≠ .atBar x k)
        ∧ ∀ p, s.stop.position = some p → p.cue ≠ some (cueNo 3) := by
  have hp : stopped.stop.position = some (stopPositionOf playing.clock.position) := by decide +kernel
  refine ⟨⟨_, hp, rfl⟩, ⟨by decide +kernel, rfl, by decide +kernel, ?_, rfl, ?_⟩, _, _, rfl, rfl, by decide +kernel, ?_, ?_⟩
  · intro x k h; cases h
  · intro p h; rw [hp] at h; cases h; decide +kernel
  · intro x k h; cases h
  · intro p h
    cases (hp.symm.trans h : some _ = some p)
    decide +kernel

/-- `rebuildOf` with station 1 excluded, in REBUILDING or READY. -/
def rebuildBeside (link : LinkSt) (online : Bool) : State :=
  let s := rebuildOf { Station.initial with present := link != .offline, link := link, excluded := true } .notCounted
  { s with stop := { s.stop with words := s.stop.words.set 0 { online := online, excluded := true } } }

theorem rebuildBeside_sound (link : LinkSt) (online : Bool)
    (h : (link, online) ∈ [(LinkSt.online, true), (.greeting, true), (.greeting, false), (.offline, false)]) :
    (rebuildBeside link online).Serving ∧ (rebuildBeside link online).Sized ∧ (rebuildBeside link online).StationsSound
      ∧ (rebuildBeside link online).ReadySound ∧ (rebuildBeside link online).CopiesAgree
      ∧ (rebuildBeside link online).stop.st.rebuilds = true
      ∧ (rebuildBeside link online).stop.resume = some { cue := cueNo 3, bar := 1 } := by
  unfold State.Serving State.Sized State.CopiesAgree
  simp only [List.mem_cons, List.not_mem_nil, or_false, Prod.mk.injEq] at h
  obtain ⟨rfl, rfl⟩ | ⟨rfl, rfl⟩ | ⟨rfl, rfl⟩ | ⟨rfl, rfl⟩ := h <;>
    exact ⟨by decide +kernel, by decide +kernel, stationsSound_of_run _ (by decide +kernel),
      readySound_of_run _ { cue := cueNo 3, bar := 1 } (by decide +kernel) (by decide +kernel), by decide +kernel,
      by decide +kernel, by decide +kernel⟩

/-- The two answers and the two timeouts that end the rebuild switch, and the cold load that finds no victim; a SELECTED that
is not the switch's. The states meet the rest of the hypotheses by `rebuildOf_sound`. -/
theorem witness_RebuildAndReadiness_switch_ends :
    (∀ c ∈ [Instr.selected 10000009 0 3, .selectTimeout 0], ∃ sat : Bool,
        EndsSwitch 10000009 0 (rebuildOf askedRig .waiting) c (.selecting 3) sat)
      ∧ (∀ c ∈ [Instr.loadFailed 10000009 0 3, .loadTimeout 0],
        EndsSwitch 10000009 0 (rebuildOf reloadRig .waiting) c (.loading 3) false)
      ∧ EndsSwitch 10000009 0 (rebuildOf pressedRig .waiting) (.stationSend 10000009 0) .coldHeld false
      ∧ (EndsSwitch 10000009 0 (rebuildOf pressedRig .waiting) (.selected 10000009 0 2) (.selecting 2) true
        ∧ ∀ w ∈ ((rebuildOf pressedRig .waiting).station 0).switch, w.stage ≠ .selecting 2)
      ∧ ((((rebuildOf askedRig .waiting).station 0).switch = some (rebuildSwitch (.selecting 3)))
        ∧ (((rebuildOf reloadRig .waiting).station 0).switch = some (rebuildSwitch (.loading 3)))
        ∧ (((rebuildOf pressedRig .waiting).station 0).switch = some (rebuildSwitch .coldHeld))) := by
  have gap : ∀ st n now, st.receiver = none → GapHeld st n now := fun st n now h r hr => by rw [h] at hr; cases hr
  have asked : (rebuildOf askedRig .waiting).station 0 = askedRig := by decide +kernel
  have reload : (rebuildOf reloadRig .waiting).station 0 = reloadRig := by decide +kernel
  have pressed : (rebuildOf pressedRig .waiting).station 0 = pressedRig := by decide +kernel
  unfold EndsSwitch
  rw [asked, reload, pressed]
  refine ⟨?_, ?_, ?_, ?_, rfl, rfl, rfl⟩
  · intro c hc
    simp only [List.mem_cons, List.not_mem_nil, or_false] at hc
    obtain rfl | rfl := hc
    · exact ⟨true, .inl ⟨_, rfl, rfl, .inl ⟨rfl, gap _ _ _ rfl, rfl⟩⟩⟩
    · exact ⟨false, .inl ⟨_, rfl, rfl, .inr ⟨rfl, by simp [selectOut], rfl⟩⟩⟩
  · intro c hc
    simp only [List.mem_cons, List.not_mem_nil, or_false] at hc
    obtain rfl | rfl := hc
    · exact .inr (.inl ⟨_, rfl, rfl, rfl, .inl ⟨rfl, gap _ _ _ rfl⟩⟩)
    · exact .inr (.inl ⟨_, rfl, rfl, rfl, .inr ⟨rfl, by simp [loadOut]⟩⟩)
  · refine .inr (.inr ⟨11, rfl, rfl, rfl, rfl, rfl, rfl, .inl rfl, rfl, rfl, .inr ?_⟩)
    rintro k v (⟨h1, h2, h3, -⟩ | ⟨-, m, ⟨d, hd, hk, -⟩, -⟩)
    · have h2' : k ≤ 2 := h2
      obtain rfl | rfl : k = 1 ∨ k = 2 := by omega
      all_goals exact absurd h3 (by decide)
    · have hd' : d < 2 := hd
      obtain rfl | rfl : d = 0 ∨ d = 1 := by omega
      · exact absurd (hk ▸ m.2.1) (by decide)
      · exact absurd (hk ▸ m.2.2.2.2.1) (by decide)
  · refine ⟨.inl ⟨_, rfl, rfl, .inl ⟨rfl, gap _ _ _ rfl, rfl⟩⟩, by decide⟩

/-- PRESENT held high for 8,000 µs; the exclusion; the inclusion with an ONLINE word and each link, and without the word; HELLO
in GREETING and ONLINE of an excluded and an included station. -/
theorem witness_RebuildAndReadiness_stations_come_and_go :
    ((8000 ≤ 8000 ∧ 8000 ≤ max (rebuildOf askedRig .waiting).now 10000009
        ∧ ((rebuildOf askedRig .waiting).station 0).present = true)
      ∧ ((rebuildOf askedRig .waiting).station 0).excluded = false ∧ ((rebuildOf readyRig .satisfied).station 0).excluded = false)
      ∧ (∀ x ∈ [(LinkSt.online, true), (.greeting, true), (.greeting, false), (.offline, false)],
        ∀ s ∈ [rebuildBeside x.1 x.2], (s.station 0).excluded = true ∧ (s.station 0).link = x.1
          ∧ (s.words 0).online = x.2 ∧ (s.words 0).excluded = true)
      ∧ (entryAfterResync (rebuildBeside .online true) (cueNo 3) 0 = .waiting
        ∧ (trackedPatch (rebuildBeside .online true).store.cues (cueNo 3) 0).map (·.1) = some 11
        ∧ (findMap (rebuildBeside .online true).map 1 11).isSome = true)
      ∧ (∀ s ∈ [rebuildOf askedRig .waiting, rebuildBeside .online true, rebuildBeside .greeting false],
        (s.station 0).receiver = none ∧ (s.station 0).link ≠ .offline)
      ∧ (2 ≤ 2 ∧ 2 ≤ 8) ∧ (2 ≤ 8 ∧ 8 ≤ 8) := by
  refine ⟨?_, ?_, ?_, ?_, ?_, ?_⟩ <;> decide +kernel

/-- SELECTED ends the rebuild switch and READY is reached; a LOAD that fails leaves the entry FAILED. -/
theorem test_reports_of_a_rebuild :
    (fun u : State => (u.stop.st, u.stop.account[0]?, u.video.content.stopState))
        (after (exec (.selected 10000009 0 3) (rebuildOf askedRig .waiting))) = (.ready, some .satisfied, .ready)
      ∧ (fun u : State => (u.stop.st, u.stop.account[0]?))
        (after (exec (.loadFailed 10000009 0 3) (rebuildOf reloadRig .waiting))) = (.rebuilding, some .failed) := by
  decide +kernel

/-- Held before bar 5, and a hold still armed. -/
def heldAt : State := run [.hold 10000001, .beatCommit] atDownbeat
def holdArmed : State := after (exec (.hold 10000001) playing)

/-- READY at cue 1 with a resume bar, a count-in, a rebuild record, the last committed time and a follow timer. -/
def readyWith (bar bars : Nat) (rec : Option TempoRecord) (spacing : Option Nat) (timer : FollowTimer) : State :=
  { readyAt with
    stop := { readyAt.stop with resume := some { cue := cueNo 1, bar := bar } }
    seq := { readyAt.seq with timer := timer, settings := { readyAt.seq.settings with resumeCountIn := bars } }
    clock := { readyAt.clock with rebuildRec := rec, spacing := spacing } }

/-- The records of the starts: each mode, and none. -/
def someRecords : List (Option TempoRecord) :=
  [none, some { fixed120 with mode := .tacet }, some fixed120, some { fixed120 with mode := .conducted },
    some { fixed120 with mode := .follow }]

/-- Every record with and without a count-in, the first beat due at once, at the spacing's bound and held back by one µs, a
deferred timer, and the downbeat that cue 2 waits for. -/
theorem witness_GoOutsideRun_ready :
    (∀ rec ∈ someRecords, ∀ bars ∈ [0, 1, 2], ∀ sp ∈ [none, some (9900006 + readyAt.clock.lead), some (9900007 + readyAt.clock.lead)],
      ∀ s ∈ [readyWith 2 bars rec sp .idle, readyWith 5 bars rec sp (.deferred (cueNo 3))],
        s.Serving ∧ DeskEdge .go 10000006 10000 s ∧ s.follower.last = none ∧ s.stop.st = .ready ∧ s.desk.stop = false
        ∧ s.stop.resume.isSome = true ∧ s.clock.rebuildRec = rec ∧ s.seq.settings.resumeCountIn = bars
        ∧ s.clock.spacing = sp ∧ s.clock.holdArmed = false ∧ s.clock.pendingRec = none ∧ (∀ r ∈ rec, r.ramp = none)
        ∧ (s.goTo 10000006).now = 10000006 ∧ s.clock.barSet = none)
      ∧ (findCue readyAt.store.cues (cueNo 3) = some cue3)
      ∧ (nextCue (readyWith 5 0 none none .idle) = some (cueNo 2) ∧ findCue readyAt.store.cues (cueNo 2) = some cue2
        ∧ cue2.trigger = .atBar 5 1)
      ∧ NoAtBar 2 1 (readyWith 2 0 none none .idle) := by
  unfold State.Serving DeskEdge NoAtBar
  refine ⟨?_, ?_, ?_, ?_⟩ <;> decide +kernel

/-- HELD or DRAINING with a held position, a count-in, and a pending and a governing record. -/
def heldWith (st : StopSt) (held : Option HeldPosition) (bars : Nat) (pending : Option TempoRecord) (gov : Option Governing) :
    State :=
  { inStop st heldAt with
    stop := { (inStop st heldAt).stop with held := held }
    seq := { heldAt.seq with settings := { heldAt.seq.settings with holdCountIn := bars } }
    clock := { heldAt.clock with pendingRec := pending, gov := gov } }

theorem witness_GoOutsideRun :
    (readyAt.Serving ∧ readyAt.stop.st = .ready ∧ readyAt.desk.stop = false
        ∧ readyAt.stop.resume = some { cue := cueNo 1, bar := 2 } ∧ 1 ≤ readyAt.seq.settings.resumeCountIn
        ∧ readyAt.clock.rebuildRec = some fixed120 ∧ fixed120.mode ≠ .tacet)
      ∧ (heldAt.Serving ∧ heldAt.stop.st = .held ∧ heldAt.stop.held = some { bar := 5, pass := 0 }
        ∧ 1 ≤ heldAt.seq.settings.holdCountIn ∧ heldAt.clock.pendingRec = none
        ∧ heldAt.clock.gov = some { record := fixed120, marked := 500000 })
      ∧ (∀ p ∈ someRecords, ∀ g ∈ [none, some { record := fixed120, marked := 500000 }], ∀ bars ∈ [0, 2],
        ∀ s ∈ [heldWith .held none bars p g, heldWith (.holding .draining) (some { bar := 5, pass := 0 }) bars p g],
        s.Serving ∧ DeskEdge .go 10000010 10000 s ∧ s.follower.last = none ∧ s.seq.settings.holdCountIn = bars
        ∧ s.clock.pendingRec = p ∧ s.clock.gov = g ∧ s.clock.period ≠ none ∧ s.clock.holdArmed = false)
      ∧ (holdArmed.Serving ∧ holdArmed.stop.st = .holding .armed ∧ holdArmed.clock.holdArmed = true
        ∧ holdArmed.seq.timer = .idle ∧ holdArmed.follower.last = none ∧ DeskEdge .go 10000010 10000 holdArmed) := by
  unfold State.Serving DeskEdge
  refine ⟨?_, ?_, ?_, ?_⟩ <;> decide +kernel

/-- GO in READY without a count-in commits the downbeat of the resume bar at once, and the cue that waits for it fires. -/
theorem test_go_in_ready_without_a_count_in :
    (fun u : State => (u.stop.st, u.clock.st, u.clock.position.bar, u.seq.current))
      (after (exec (.go 10000010) (readyWith 5 0 (some fixed120) none .idle)))
      = (.run, .running, some 5, some (cueNo 2)) := by decide +kernel

/-- A hold of 10,000 µs and one a µs short, of a line and of the part's own age; a line held; the power-on load. -/
theorem witness_DeskLinesAreDebounced :
    (show3.powered = true ∧ 10000 ≤ 10000 ∧ 10000 ≤ max show3.now 10000) ∧ 9999 < 10000 ∧ max show3.now 9999 < 10000
      ∧ (∃ s : State, s = { show3 with desk := { show3.desk with stby := true, go := true, hold := true, stop := true } }
        ∧ s.powered = true ∧ s.desk.stby = true ∧ s.desk.go = true ∧ s.desk.hold = true ∧ s.desk.stop = true)
      ∧ (fresh.powered = true ∧ fresh.loading = true ∧ ∀ line : DeskLine, DeskEdge line 10000 10000 fresh) := by
  refine ⟨by decide +kernel, by decide, by decide +kernel, ⟨_, rfl, by decide +kernel⟩, rfl, rfl, fun line => ?_⟩
  cases line <;> (unfold DeskEdge; decide +kernel)

/-! ### Beats and pulses -/

/-- `playing` with no further cue. -/
def lastCue : State :=
  { playing with store := { playing.store with cues := [cue1], cueCount := 1, poolUsed := poolOf [cue1] } }

/-- A count-in beat of the number given; the first downbeat after a count-in, in COUNT_IN, with no further cue. -/
def countBeat (k : Nat) : State :=
  { countingIn with clock := { countingIn.clock with next := some { time := some 10500000, kind := .countIn k } } }

def firstDown : State :=
  { inStop (.countIn .resume) lastCue with clock := { countingIn.clock with next := some { time := some 10500000, kind := .down } } }

theorem witness_BeatCommits :
    (playing.powered = true ∧ playing.clock.st = .running
        ∧ playing.clock.gov = some { record := fixed120, marked := 500000 } ∧ fixed120.mode = .fixed
        ∧ playing.clock.ramp = none ∧ playing.clock.period = some 500000
        ∧ playing.clock.next = some { time := some 10500000, kind := .beat 4 2 } ∧ playing.follower.st = .free
        ∧ NoAtBar 4 2 playing ∧ NoAtBar 4 2 lastCue)
      ∧ (tracking.powered = true ∧ tracking.clock.st = .running
        ∧ tracking.clock.gov = some { record := { fixed120 with mode := .follow }, marked := 500000 }
        ∧ tracking.clock.ramp = none ∧ tracking.clock.period = some 500000
        ∧ tracking.clock.next = some { time := some 10500000, kind := .beat 12 2 } ∧ tracking.follower.st ≠ .free
        ∧ NoAtBar 12 2 tracking ∧ tracking.follower.last = some { time := 10000000, isOpen := true, matched := false }
        ∧ ∀ l ∈ (after (exec .windowClose pulse1)).follower.last, l.isOpen = false)
      ∧ (∀ k ∈ [1, 4], (countBeat k).powered = true ∧ (countBeat k).clock.st = .countingIn
        ∧ (countBeat k).clock.gov = some { record := fixed120, marked := 500000 } ∧ (countBeat k).clock.period = some 500000
        ∧ (countBeat k).clock.start = some { bar := 5, beats := 4, ramp := false }
        ∧ (countBeat k).clock.next = some { time := some 10500000, kind := .countIn k } ∧ (countBeat k).follower.st = .free)
      ∧ (firstDown.powered = true ∧ firstDown.clock.st = .countingIn
        ∧ firstDown.clock.gov = some { record := fixed120, marked := 500000 } ∧ firstDown.clock.period = some 500000
        ∧ firstDown.clock.start = some { bar := 5, beats := 4, ramp := false } ∧ firstDown.clock.ramp = none
        ∧ firstDown.clock.holdArmed = false ∧ firstDown.follower.st = .free ∧ firstDown.stop.st = .countIn .resume
        ∧ firstDown.seq.timer = .idle ∧ firstDown.clock.next = some { time := some 10500000, kind := .down }
        ∧ firstDown.clock.pendingRec = none ∧ firstDown.clock.barSet = none ∧ firstDown.clock.vamp = none
        ∧ NoAtBar 5 1 firstDown)
      ∧ ({ fixed120 with mode := .tacet } : TempoRecord).mode = .tacet := by
  unfold NoAtBar
  decide +kernel

/-- `playing` and `conducted` with beat (5, 1) next but as a beat after a downbeat, where cue 2 waits, and with another
bar; HELD and COUNT_IN with a deferred timer for cue 3. -/
def atBeat (bar : Nat) (s : State) : State :=
  { s with clock := { s.clock with next := s.clock.next.map fun n => { n with kind := .beat bar 1 } } }

def deferredDown : State :=
  { firstDown with
    store := playing.store
    seq := { firstDown.seq with timer := .deferred (cueNo 3) } }

def deferredHeld : State :=
  { inStop .held conducted with
    stop := { (inStop .held conducted).stop with held := some { bar := 5, pass := 0 } }
    seq := { conducted.seq with timer := .deferred (cueNo 3), settings := { conducted.seq.settings with holdCountIn := 0 } } }

theorem witness_AtBarAndDeferredFires :
    (∀ b ∈ [4, 5], (atBeat b playing).powered = true ∧ (atBeat b playing).clock.st = .running
        ∧ (atBeat b playing).clock.gov = some { record := fixed120, marked := 500000 } ∧ fixed120.mode = .fixed
        ∧ (atBeat b playing).follower.st = .free ∧ (atBeat b playing).clock.ramp = none
        ∧ (atBeat b playing).clock.period = some 500000
        ∧ (atBeat b playing).clock.next = some { time := some 10500000, kind := .beat b 1 }
        ∧ nextCue (atBeat b playing) = some (cueNo 2) ∧ findCue (atBeat b playing).store.cues (cueNo 2) = some cue2
        ∧ (atBeat b playing).stop.st.fires = true ∧ (cue2.trigger = .atBar b 1 ↔ b = 5))
      ∧ (inStop .held (atBeat 5 playing)).stop.st.fires = false
      ∧ ((atBeat 5 conducted).powered = true ∧ 2000 ≤ max (atBeat 5 conducted).now 10100000
        ∧ (atBeat 5 conducted).clock.st = .running
        ∧ (atBeat 5 conducted).clock.gov = some { record := { fixed120 with mode := .conducted }, marked := 500000 }
        ∧ (atBeat 5 conducted).clock.ramp = none ∧ (atBeat 5 conducted).follower.st = .free
        ∧ (atBeat 5 conducted).clock.next = some { time := none, kind := .beat 5 1 }
        ∧ (∀ k ∈ (atBeat 5 conducted).clock.spacing, k + 100000 ≤ max (atBeat 5 conducted).now 10100000)
        ∧ nextCue (atBeat 5 conducted) = some (cueNo 2) ∧ (atBeat 5 conducted).stop.st.fires = true)
      ∧ (deferredDown.powered = true ∧ deferredDown.clock.st = .countingIn
        ∧ deferredDown.clock.start = some { bar := 5, beats := 4, ramp := false }
        ∧ deferredDown.clock.next = some { time := some 10500000, kind := .down }
        ∧ deferredDown.stop.st = .countIn .resume ∧ deferredDown.seq.timer = .deferred (cueNo 3)
        ∧ findCue deferredDown.store.cues (cueNo 3) = some cue3
        ∧ ∀ k ∈ afterCurrent deferredDown.store.cues (some (cueNo 3)), ∀ c ∈ findCue deferredDown.store.cues k,
          c.trigger ≠ .atBar 5 1)
      ∧ (deferredHeld.Serving ∧ deferredHeld.stop.st = .held ∧ deferredHeld.stop.held = some { bar := 5, pass := 0 }
        ∧ deferredHeld.seq.settings.holdCountIn = 0 ∧ deferredHeld.clock.pendingRec = none
        ∧ deferredHeld.clock.gov = some { record := { fixed120 with mode := .conducted }, marked := 500000 }
        ∧ deferredHeld.seq.timer = .deferred (cueNo 3) ∧ findCue deferredHeld.store.cues (cueNo 3) = some cue3) := by
  unfold State.Serving
  decide +kernel

/-- `atDownbeat` with a bar set, with a vamp to the last bar with and without its release, and with one that goes on. -/
def withVamp (last : Nat) (release : Bool) : State :=
  { atDownbeat with clock := { atDownbeat.clock with
      vamp := some { first := 3, last := last, loops := 2, release := release } } }

theorem witness_DownbeatTakesItsBar :
    (atDownbeat.powered = true ∧ atDownbeat.clock.st = .running
        ∧ atDownbeat.clock.gov = some { record := fixed120, marked := 500000 } ∧ fixed120.mode = .fixed
        ∧ atDownbeat.clock.ramp = none ∧ atDownbeat.clock.period = some 500000 ∧ atDownbeat.clock.pendingRec = none
        ∧ atDownbeat.clock.holdArmed = false ∧ atDownbeat.clock.start = none
        ∧ atDownbeat.clock.lastShowBar = some 4 ∧ atDownbeat.clock.next = some { time := some 10500000, kind := .down }
        ∧ atDownbeat.follower.st = .free ∧ atDownbeat.clock.barSet = none ∧ atDownbeat.clock.vamp = none)
      ∧ ({ atDownbeat with clock := { atDownbeat.clock with barSet := some 9999 } } : State).clock.barSet = some 9999
      ∧ ((withVamp 4 false).clock.vamp = some { first := 3, last := 4, loops := 2, release := false }
        ∧ (withVamp 4 false).clock.barSet = none ∧ (withVamp 4 false).clock.lastShowBar = some 4)
      ∧ (withVamp 4 true).clock.vamp = some { first := 3, last := 4, loops := 2, release := true }
      ∧ (withVamp 5 false).clock.vamp = some { first := 3, last := 5, loops := 2, release := false } ∧ 4 < 5 := by
  decide +kernel

/-- `atDownbeat` with a record pending. -/
def withPending (r : TempoRecord) : State :=
  { atDownbeat with clock := { atDownbeat.clock with pendingRec := some r } }

theorem witness_DownbeatsThatChangeTheClock :
    ((withPending fixed120).powered = true ∧ (withPending fixed120).clock.st = .running
        ∧ (withPending fixed120).clock.gov = some { record := fixed120, marked := 500000 }
        ∧ (withPending fixed120).clock.pendingRec = some fixed120 ∧ (withPending fixed120).clock.holdArmed = false
        ∧ (withPending fixed120).clock.next = some { time := some 10500000, kind := .down }
        ∧ fixed120.mode = .fixed ∧ fixed120.ramp = none)
      ∧ ((withPending { fixed120 with mode := .tacet }).clock.pendingRec = some { fixed120 with mode := .tacet }
        ∧ (withPending { fixed120 with mode := .tacet }).clock.next = some { time := some 10500000, kind := .down })
      ∧ ∃ s : State, s = after (exec (.hold 10000001) atDownbeat) ∧ s.powered = true ∧ s.clock.st = .running
        ∧ s.clock.holdArmed = true ∧ s.clock.ramp = none
        ∧ s.clock.next = some { time := some 10500000, kind := .down } :=
  ⟨by decide +kernel, by decide +kernel, _, rfl, by decide +kernel⟩

/-- A record with a ramp to 150.0 over a bar; ramps of four beats with the first and the last beat to come. -/
def ramped : TempoRecord := { fixed120 with ramp := some { target := 1500, bars := 1 } }

def rampAt (done : Nat) : RampRun := { start := 500000, target := 400000, beats := 4, done := done }

def onRamp (done : Nat) (s : State) : State := { s with clock := { s.clock with ramp := some (rampAt done) } }

theorem witness_PeriodsAndRamps :
    (300 ≤ 300 ∧ 300 ≤ 3000) ∧ (300 ≤ 3000 ∧ 3000 ≤ 3000) ∧ 200000 = max 200000 (min 2000000 0)
      ∧ (0 < (rampAt 0).beats ∧ 0 ≤ (rampAt 0).beats ∧ 4 ≤ (rampAt 0).beats)
      ∧ ((withPending ramped).powered = true ∧ (withPending ramped).clock.st = .running
        ∧ (withPending ramped).clock.gov = some { record := fixed120, marked := 500000 }
        ∧ (withPending ramped).clock.holdArmed = false ∧ (withPending ramped).clock.pendingRec = some ramped
        ∧ ramped.mode = .fixed ∧ 0 < 1 * ramped.meter
        ∧ (withPending ramped).clock.next = some { time := some 10500000, kind := .down })
      ∧ (∀ n ∈ [0, 3], (onRamp n playing).powered = true ∧ (onRamp n playing).clock.st = .running
        ∧ (onRamp n playing).clock.ramp = some (rampAt n) ∧ (onRamp n playing).clock.period = some 500000
        ∧ (onRamp n playing).clock.next = some { time := some 10500000, kind := .beat 4 2 }
        ∧ NoAtBar 4 2 (onRamp n playing) ∧ (onRamp n playing).follower.st = .free
        ∧ ((rampAt n).done + 1 < (rampAt n).beats ↔ n = 0))
      ∧ (∃ s : State, s = onRamp 0 (after (exec .windowClose pulse1)) ∧ s.powered = true ∧ s.clock.st = .running
        ∧ s.clock.gov = some { record := { fixed120 with mode := .follow }, marked := 500000 }
        ∧ s.follower.st ≠ .free ∧ (∀ l ∈ s.follower.last, l.isOpen = false) ∧ NoAtBar 12 2 s
        ∧ s.clock.period = some 502500 ∧ s.clock.next = some { time := some 10512500, kind := .beat 12 2 })
      ∧ ((onRamp 0 playing).Serving ∧ (onRamp 0 playing).stop.st = .run ∧ (onRamp 0 playing).clock.st.beats = true)
      ∧ (∀ s ∈ [readyWith 2 0 (some ramped) none .idle, readyWith 2 0 (some ramped) (some (9900006 + readyAt.clock.lead)) .idle],
        s.Serving ∧ DeskEdge .go 10000006 10000 s ∧ s.stop.st = .ready ∧ s.desk.stop = false ∧ s.stop.resume.isSome = true
        ∧ s.seq.settings.resumeCountIn = 0 ∧ s.clock.rebuildRec = some ramped ∧ s.clock.pendingRec = none
        ∧ s.clock.holdArmed = false ∧ s.follower.last = none ∧ s.seq.timer = .idle ∧ NoAtBar 2 1 s ∧ s.clock.barSet = none
        ∧ ∀ k ∈ s.clock.spacing, k + 100000 ≤ max s.now 10000006 + s.clock.lead) := by
  unfold NoAtBar State.Serving DeskEdge
  refine ⟨?_, ?_, ?_, ?_, ?_, ?_, ⟨_, rfl, ?_⟩, ?_, ?_⟩ <;> decide +kernel

/-- GO in READY without a count-in takes P_1 of a ramp from 120.0 to 150.0 over four beats at its downbeat. -/
theorem test_resume_on_a_ramp :
    (fun u : State => (u.clock.period, u.clock.next.bind (·.time), u.clock.position.time, u.stop.st))
      (after (exec (.go 10000010) (readyWith 2 0 (some ramped) none .idle)))
      = (some 475000, some (10000010 + readyAt.clock.lead + 475000), some (10000010 + readyAt.clock.lead), .run) := by
  decide +kernel

theorem witness_PulsesThatDoNotCommit :
    (show3.powered = true ∧ 1999 < 2000 ∧ max show3.now 1999 < 2000 ∧ show3.clock.st = .idle ∧ heldAt.clock.st = .frozen ∧ heldAt.powered = true)
      ∧ (playing.powered = true ∧ 2000 ≤ 2000 ∧ 2000 ≤ max playing.now 2000 ∧ playing.clock.st.beats = true
        ∧ playing.clock.gov = some { record := fixed120, marked := 500000 } ∧ fixed120.mode = .fixed
        ∧ playing.clock.spacing = some 10000000)
      ∧ ({ playing with clock := { playing.clock with spacing := none } } : State).clock.spacing = none
      ∧ (conducted.powered = true ∧ conducted.clock.st.beats = true
        ∧ conducted.clock.gov = some { record := { fixed120 with mode := .conducted }, marked := 500000 }
        ∧ conducted.clock.spacing = some 10000000 ∧ max conducted.now 10099999 < 10000000 + 100000) := by
  decide +kernel

/-- `conducted` with no further cue. -/
def conductedLast : State :=
  { conducted with store := { conducted.store with cues := [cue1], cueCount := 1, poolUsed := poolOf [cue1] } }

theorem witness_ConductedPulseCommits :
    (conductedLast.powered = true ∧ 2000 ≤ 2000 ∧ 2000 ≤ max conductedLast.now 10100000 ∧ conductedLast.clock.st = .running
        ∧ conductedLast.clock.gov = some { record := { fixed120 with mode := .conducted }, marked := 500000 }
        ∧ conductedLast.clock.ramp = none ∧ conductedLast.follower.st = .free
        ∧ conductedLast.clock.next = some { time := none, kind := .beat 4 2 })
      ∧ (∀ c ∈ conductedLast.clock.spacing, c + 100000 ≤ max conductedLast.now 10100000)
      ∧ (∀ n ∈ nextCue conductedLast, ∀ c ∈ findCue conductedLast.store.cues n, c.trigger ≠ .atBar 4 2) := by
  decide +kernel

/-- The follower of `tracking` in a state. -/
def followerIn (st : FollowerSt) : State := { tracking with follower := { tracking.follower with st := st } }

/-- That follower, LOCKED, under ADAPTIVE. -/
def adaptive (active : ActiveConstant) (fastLeft : Nat) : Follower :=
  { tracking.follower with
    active := active, fastLeft := fastLeft, settings := { tracking.follower.settings with constant := .adaptive } }

/-- The window of the last beat closed, matched, with a rejected run. -/
def closedRun (run : Nat) : State :=
  { tracking with follower := { tracking.follower with
      last := some { time := 10000000, isOpen := false, matched := true }, rejectedRun := run } }

/-- What an accepted pulse of the window asks of a state of the follower: pulse 1 of 2.9 at `t`, with the period `q` and
beat u at `k` after it. -/
def PulseFits (st : FollowerSt) (dp df t q k : Nat) : Prop :=
  ((followerIn st).powered = true ∧ (followerIn st).now ≤ t ∧ 2000 ≤ t
    ∧ (followerIn st).clock.st.beats = true
    ∧ (followerIn st).clock.gov = some { record := { fixed120 with mode := .follow }, marked := 500000 })
  ∧ (DivisorsAre (followerIn st).follower dp df ∧ (followerIn st).follower.band = some (400000, 600000)
    ∧ (followerIn st).clock.period = some 500000
    ∧ ((followerIn st).clock.next.bind (·.time)) = some 10500000)
  ∧ (NearerIs (followerIn st).follower t 10500000 10000000 false false
    ∧ NoneWaits (followerIn st).follower false
    ∧ distance t 10000000 ≤ halfWidth (followerIn st).follower 500000)
  ∧ ((q : Int) = max ((400000 : Nat) : Int) (min ((600000 : Nat) : Int)
        (((500000 : Nat) : Int) + roundAway ((t : Int) - (10000000 : Nat)) df))
    ∧ k = max (correctedTime (followerIn st).clock.spacing 10500000 500000 q dp ((t : Int) - (10000000 : Nat)) false)
      (t + (followerIn st).clock.lead))

/-- The early pulse of beat u at `t`: after its correction beat u is due at once. -/
def early : State := closedRun 0

/-- Pulse 1 of 2.9, a pulse at the edge of the window, and one at the edge of SEEKING's; an early pulse of beat u, which
makes it due at once; each constant of ADAPTIVE. -/
theorem witness_PulsesUnderFollow :
    (PulseFits .locked 4 16 10040000 502500 10512500 ∧ PulseFits .locked 4 16 10125000 507813 10539063
        ∧ PulseFits .seeking 2 4 10250000 562500 10687500)
      ∧ ((early.powered = true ∧ early.now ≤ 10455000 ∧ DivisorsAre early.follower 4 16 ∧ NoAtBar 12 2 early
          ∧ early.clock.st = .running ∧ early.clock.ramp = none
          ∧ early.clock.next = some { time := some 10500000, kind := .beat 12 2 })
        ∧ NearerIs early.follower 10455000 10500000 10500000 true false ∧ NoneWaits early.follower true
        ∧ distance 10455000 10500000 ≤ halfWidth early.follower 500000
        ∧ (497187 : Int) = max ((400000 : Nat) : Int) (min ((600000 : Nat) : Int)
            (((500000 : Nat) : Int) + roundAway ((10455000 : Int) - (10500000 : Nat)) 16))
        ∧ 10455000 + early.clock.lead
          = max (correctedTime early.clock.spacing 10500000 500000 497187 4 ((10455000 : Int) - (10500000 : Nat)) true)
            (10455000 + early.clock.lead))
      ∧ (DivisorsAre (adaptive .slow 0) 8 64 ∧ DivisorsAre (adaptive .normal 0) 4 16 ∧ DivisorsAre (adaptive .normal 1) 2 4) := by
  unfold PulseFits DivisorsAre NearerIs NoneWaits NoAtBar
  refine ⟨⟨?_, ?_, ?_⟩, ?_, ?_, ?_, ?_⟩ <;> decide +kernel

/-- COASTING; DOUBLE after a match of beat u and of the last beat; OUTSIDE one µs past the window, with a rejected run of 0
and of 2. -/
theorem witness_PulsesUnderFollow_without_correction :
    ((followerIn .coasting).follower.st = .coasting ∧ (followerIn .coasting).now ≤ 10250000
        ∧ NearerIs (followerIn .coasting).follower 10250000 10500000 10000000 false false
        ∧ NoneWaits (followerIn .coasting).follower false
        ∧ distance 10250000 10000000 ≤ halfWidth (followerIn .coasting).follower 500000
        ∧ 10250000 + (followerIn .coasting).clock.lead < 10500000)
      ∧ (NearerIs { early.follower with nextMatched := true } 10400000 10500000 10500000 true true
        ∧ 10400000 + early.clock.lead < 10500000 ∧ NearerIs pulse1.follower 10050000 10512500 10000000 false true)
      ∧ (∀ n ∈ [0, 2], (closedRun n).powered = true ∧ (closedRun n).follower.st = .locked ∧ (closedRun n).now ≤ 10374999
        ∧ NearerIs (closedRun n).follower 10374999 10500000 10500000 true false
        ∧ halfWidth (closedRun n).follower 500000 < distance 10374999 10500000 ∧ (closedRun n).follower.rejectedRun = n) := by
  unfold NearerIs NoneWaits
  decide +kernel

/-- A window that closes matched, and one that closes unmatched at a missed run below and at M. -/
def missing (run : Nat) : State := { tracking with follower := { tracking.follower with missedRun := run } }

theorem witness_WindowCloses :
    (playing.powered = true ∧ playing.follower.st = .free)
      ∧ (pulse1.powered = true ∧ pulse1.follower.st ≠ .free
        ∧ pulse1.follower.last = some { time := 10000000, isOpen := true, matched := true })
      ∧ (∀ n ∈ [0, 1], (missing n).powered = true ∧ (missing n).follower.st ≠ .free
        ∧ (missing n).follower.last = some { time := 10000000, isOpen := true, matched := false }
        ∧ (coastsNow (missing n).follower = true ↔ n = 1)) := by decide +kernel
/-! ### Settings -/

/-- Fields at the lowest and the highest values of their ranges, and with the look-ahead and the late threshold given. -/
def showEdges (low : Bool) (ahead late : Nat) : RawShowSet :=
  { standbyRequired := some (if low then 0 else 1), lookAhead := some ahead, lateThreshold := some late
    resumeCountIn := some (if low then 0 else 2), holdCountIn := some (if low then 0 else 2) }

/-- The open window of `tracking` at its edge under the new W of NARROW, and one µs past it. -/
def narrowed : Follower :=
  { tracking.follower with settings := { tracking.follower.settings with window := .narrow } }

theorem witness_ShowSettingsAreWritten :
    (((storingAt .erase).Serving ∧ (storingAt .erase).storing = true)
        ∧ RawShowSet.selects (showEdges true 4 10) = true ∧ RawFollowSet.selects { noFollowField with m := some 1 } = true)
      ∧ (playing.Serving ∧ playing.storing = false ∧ ∀ f ∈ [showEdges true 0 10, showEdges false 4 1000],
        (∀ x ∈ f.standbyRequired, x ≤ 1) ∧ (∀ x ∈ f.lookAhead, x ≤ 4) ∧ (∀ x ∈ f.lateThreshold, 10 ≤ x ∧ x ≤ 1000)
          ∧ (∀ x ∈ f.resumeCountIn, x ≤ 2) ∧ (∀ x ∈ f.holdCountIn, x ≤ 2))
      ∧ (¬(∀ x ∈ (showEdges true 5 10).lookAhead, x ≤ 4)
        ∧ ¬(∀ x ∈ (showEdges true 4 9).lateThreshold, 10 ≤ x ∧ x ≤ 1000) ∧ playing.seq.settings.lookAhead ≠ 4)
      ∧ (∀ m ∈ [0, 9], ({ noFollowField with m := some m } : RawFollowSet).m = some m ∧ ¬(1 ≤ m ∧ m ≤ 8))
      ∧ (1 = windowPlace .narrow ∧ 3 = constantPlace .adaptive ∧ 1 ≤ 1 ∧ 8 ≤ 8
        ∧ TimeConstant.adaptive ≠ tracking.follower.settings.constant)
      ∧ (tracking.Serving ∧ tracking.storing = false ∧ tracking.follower.st ≠ .free ∧ playing.follower.st = .free
        ∧ tracking.follower.last = some { time := 10000000, isOpen := true, matched := false }
        ∧ max tracking.now 10062500 ≤ 10000000 + halfWidth narrowed (tracking.clock.period.getD 0)
        ∧ 10000000 + halfWidth narrowed (tracking.clock.period.getD 0) < max tracking.now 10062501)
      ∧ (100000 < 100001 ∧ 100000 ≤ 100000 ∧ playing.clock.st.beats = true
        ∧ (∀ x ∈ playing.clock.next.bind (·.time), max playing.now 10399999 + 100000 < x))
      ∧ (playing.clock.st = .running ∧ playing.clock.gov = some { record := fixed120, marked := 500000 }
        ∧ fixed120.mode = .fixed ∧ playing.clock.ramp = none ∧ playing.clock.period = some 500000
        ∧ playing.clock.next = some { time := some 10500000, kind := .beat 4 2 }
        ∧ 10500000 ≤ max playing.now 10400000 + 100000 ∧ NoAtBar 4 2 playing)
      ∧ (playing.clock.vamp = none
        ∧ (withVamp 4 false).clock.vamp = some { first := 3, last := 4, loops := 2, release := false }) := by
  unfold State.Serving NoAtBar
  refine ⟨?_, ?_, ?_, ?_, ?_, ?_, ?_, ?_, ?_⟩ <;> decide +kernel

def channelEdges (low : Bool) : RawChannelSet :=
  if low then
    { accent := some 0, level := some (-60), lead := some 0, countIn := some 0, toneSet := some 1, override := some 0 }
  else
    { accent := some 2, level := some 0, lead := some 100000, countIn := some 1, toneSet := some 4, override := some 2 }

def videoEdges : RawVideoSet :=
  { noVideoField with
    rate := some 2, constant := some 2, delay := some 200000, pitElements := some 63, stageElements := some 0
    pitStyle := some 1, stageStyle := some 0, pitLength := some 4, stageLength := some 1 }

def noElements : Elements :=
  { barBeat := false, cueNumber := false, tempo := false, caption := false, flash := false, banner := false }

/-- `show3` with the genlock LOCKED at 50. -/
def locked50 : State :=
  { show3 with video := { show3.video with genlock := .locked, lockedRate := some .r50, mode := .locked } }

/-- `show3` in LINE_SEEK, and in FIELD_SEEK with a field run of the rate given. -/
def lineSeeking : State := { show3 with video := { show3.video with genlock := .lineSeek } }

def fieldSeeking (r : Option Rate) : State :=
  { show3 with video := { show3.video with genlock := .fieldSeek, fieldRun := r.toList.length, fieldRate := r } }

theorem witness_OutputSettingsAreWritten :
    ((show3.Serving ∧ show3.storing = false) ∧ ¬(1 ≤ 0 ∧ 0 ≤ 16) ∧ ¬(1 ≤ 17 ∧ 17 ≤ 16) ∧ (1 ≤ 16 ∧ 16 ≤ 16))
      ∧ (((storingAt .erase).Serving ∧ (storingAt .erase).storing = true)
        ∧ RawChannelSet.selectsStored (channelEdges true) = true
        ∧ RawChannelSet.selectsStored { noChannelField with override := some 1 } = false
        ∧ RawVideoSet.selects videoEdges = true)
      ∧ (({ noChannelField with accent := some 3 } : RawChannelSet).accent = some 3 ∧ 2 < 3
        ∧ ({ noChannelField with level := some (-61) } : RawChannelSet).level = some (-61)
        ∧ ¬(-60 ≤ (-61 : Int) ∧ (-61 : Int) ≤ 0)
        ∧ ({ noVideoField with pitElements := some 64 } : RawVideoSet).pitElements = some 64 ∧ 64 ≤ 64)
      ∧ (show3.channels.length = 16 ∧ draining.Serving ∧ draining.storing = false ∧ draining.channels.length = 16
        ∧ draining.stop.st = .holding .draining ∧ 0 = accentPlace .downbeat ∧ 2 = accentPlace .all
        ∧ 0 = (Override.none).place ∧ 2 = (Override.forcedOff).place)
      ∧ (∀ f ∈ [channelEdges true, channelEdges false], (∀ l ∈ f.level, -60 ≤ l ∧ l ≤ 0) ∧ (∀ x ∈ f.lead, x ≤ 100000)
        ∧ (∀ x ∈ f.countIn, x ≤ 1) ∧ (∀ x ∈ f.toneSet, 1 ≤ x ∧ x ≤ 4))
      ∧ ((2 = rateSettingPlace .forced59 ∧ 1 = stylePlace .corner ∧ 0 = stylePlace .border ∧ 2 = lineConstantPlace .fast ∧ 63 = elementsNumber Elements.allSix ∧ 0 = elementsNumber noElements)
        ∧ (∀ x ∈ videoEdges.delay, x ≤ 200000) ∧ (∀ x ∈ videoEdges.pitLength, 1 ≤ x ∧ x ≤ 4)
        ∧ (∀ x ∈ videoEdges.stageLength, 1 ≤ x ∧ x ≤ 4))
      ∧ ((∀ s ∈ [show3, lineSeeking, locked50, fieldSeeking none, fieldSeeking (some .r50), fieldSeeking (some .r59)],
          s.Serving ∧ s.storing = false ∧ s.video.settings.rate = .auto)
        ∧ show3.video.genlock = .noSignal ∧ lineSeeking.video.genlock = .lineSeek ∧ locked50.video.genlock = .locked
        ∧ locked50.video.lockedRate = some .r50 ∧ acceptsRate .forced50 .r50 = true ∧ acceptsRate .forced59 .r50 = false
        ∧ ∀ r, (fieldSeeking r).video.genlock = .fieldSeek ∧ (fieldSeeking r).video.fieldRate = r) := by
  unfold State.Serving
  refine ⟨?_, ?_, ?_, ?_, ?_, ?_, ?_, ?_, ?_, ?_, ?_, ?_, ?_, fun r => ⟨rfl, rfl⟩⟩ <;> decide +kernel

/-! ### Clicks and video -/

/-- A SHOW beat of 500,000 µs. -/
def aBeat : BeatRec :=
  { time := 10512500, commitTime := 10472500, bar := 12, beat := 2, pass := 0, phase := .inShow, meter := 4
    period := some 500000, mode := .fixed, down := false }

/-- A channel that sounds in `k` parts, with `n` bursts in its list. -/
def onChannel (k n : Nat) : Channel :=
  { Channel.initial with
    trackedOn := true, trackedSub := k
    bursts := List.replicate n { kind := .sub, frequency := 800, peak := 1, onset := 504100, frame := 504100 } }

/-- No sound; four parts on an empty list and on one of four, one part on a list of seven, and a count-in beat. -/
theorem witness_BurstsAreScheduledAndPlayed :
    (({ aBeat with mode := .conducted } : BeatRec).mode = .conducted ∧ channelSounds aBeat.phase Channel.initial = false)
      ∧ (∀ k ∈ [(4, 0), (4, 4), (1, 7)], channelSounds aBeat.phase (onChannel k.1 k.2) = true
        ∧ (aBeat.phase = .inShow ∧ aBeat.period = some 500000)
        ∧ (k.1 = (onChannel k.1 k.2).trackedSub ∧ 1 ≤ k.1 ∧ k.1 ≤ 4 ∧ (onChannel k.1 k.2).bursts.length + k.1 ≤ 8)
        ∧ (onChannel k.1 k.2).bursts.Pairwise (fun a b => a.onset ≤ b.onset))
      ∧ (channelSounds (.countIn 1) { Channel.initial with settings := { ChannelSettings.initial with countIn := true } } = true)
      ∧ ((draining.powered = true ∧ draining.channels.length = 16) ∧ (draining.channel 0).bursts.length = 1
        ∧ draining.stop.st = .holding .draining)
      ∧ ((commit2.powered = true ∧ commit2.channels.length = 16) ∧ (commit2.channel 1).bursts.length = 3)
      ∧ ((after (exec (.burstStart 0) draining)).channel 0).sounding.isSome = true
      ∧ (show3.channels.length = 16
        ∧ (({ cue1 with clicks := [{ channel := 1, on := true, sub := some 2 }] } : Cue).clicks.find?
            fun a => a.channel == 1).isSome = true
        ∧ (cue2.clicks.find? fun a => a.channel == 16) = none) := by
  refine ⟨?_, ?_, ?_, ?_, ?_, ?_, ?_⟩ <;> decide +kernel

/-- The most significant bit goes out first (R53). -/
theorem test_slot_bits_most_significant_first :
    slotBits 0x800001 = true :: (List.replicate 22 false ++ [true]) ∧ (slotBits 0x400000).head? = some false := by
  decide +kernel

/-- A flash that waits for a field, and one that is lit. -/
def aFlash (m : Nat) : PendingFlash :=
  { field := m, aim := 10512500, time := 10512500, conducted := false, before := 0, earlier := none, displays := true
    content := { bar := 12, beat := 2, pass := 0, phase := .inShow, tempo := 1200 } }

/-- T − D is 10,512,500: a field that started before the commit in the flash field's own µs was no nearer; one before it,
nearer by 5 µs, was (R151). -/
theorem test_flash_late_where_one_was_nearer :
    flashLate { aFlash 1 with before := 10512510 } 10512510 0 = false
      ∧ flashLate { aFlash 1 with before := 10512510, earlier := some 10512495 } 10512510 0 = true := by decide +kernel

def flashing (m : Nat) : Video := { base.video with fieldNo := 1, waiting := some (aFlash m), lit := some { pit := 2, stage := 1 } }

/-- LINE_SEEK after a line at 0 with a good run. -/
def seeking (n : Nat) : State :=
  { base with video := { base.video with genlock := .lineSeek, goodRun := n, lastSync := some 0 } }

/-- A good line of 62.0 and of 66.0 µs at a run of 30 and of 31 of 32, and of 40 and 64 where the declare count is lowered, and lines one period short and one past; what a
field start finds: its flash, another's with one lit. -/
theorem witness_VideoTiming :
    ((base.powered = true ∧ base.video.mode = .freeRun) ∧ (locked50.powered = true ∧ locked50.video.mode = .locked)
        ∧ (fresh.powered = true ∧ fresh.loading = true) ∧ (base.loading = false ∧ base.video.genlock = .noSignal))
      ∧ ((flashing 1).waiting = some (aFlash 1) ∧ (aFlash 1).field = (flashing 1).fieldNo
        ∧ (aFlash 2).field ≠ (flashing 2).fieldNo ∧ (flashing 2).lit = some { pit := 2, stage := 1 }
        ∧ base.video.waiting = none ∧ base.video.lit = none)
      ∧ (∀ n ∈ [30, 31, 40, 64], (seeking n).powered = true ∧ (seeking n).loading = false ∧ (seeking n).video.genlock = .lineSeek
        ∧ (seeking n).video.genlock ≠ .noSignal ∧ (seeking n).video.lastSync = some 0
        ∧ ((lineCounts (seeking n).video.settings.constant).1 ≤ (seeking n).video.goodRun + 1 ↔ n ≠ 30))
      ∧ (62 * 24 ≤ 62 * 24 + 0 - 0 ∧ 66 * 24 + 0 - 0 ≤ 66 * 24 ∧ 61 * 24 + 23 - 0 < 62 * 24 ∧ 66 * 24 < 66 * 24 + 1 - 0) := by
  refine ⟨?_, ?_, ?_, ?_⟩ <;> decide +kernel

/-- A genlock state after a line at 24, in a field of so many lines that began at 0. -/
def genlocked (g : Genlock) (v : Video) (lines : Nat) : State :=
  { base with video := { v with genlock := g, lastSync := some 24, inputField := some 0, lines := lines } }

def lockedVideo (nonNominal : Nat) (retime : Bool) : Video :=
  { base.video with
    lockedRate := some .r50, nonNominal := nonNominal, retime := retime, mode := if retime then .freeRun else .locked }

/-- Line lock held, in FIELD_SEEK with a run of 6 and of 7, and in LOCKED: fields of 50, of the other rate and of neither,
the third and the fourth that is not nominal, with and without a re-time. -/
theorem witness_GenlockAndRetime :
    (∀ g ∈ [Genlock.fieldSeek, Genlock.locked], ∃ s : State, s = genlocked g base.video 312 ∧ s.powered = true
        ∧ s.loading = false ∧ s.video.lastSync = some 24 ∧ s.video.genlock = g ∧ s.video.badRun < 32
        ∧ s.video.badRun + 1 < (lineCounts s.video.settings.constant).2 ∧ s.video.inputField = some 0)
      ∧ (62 * 24 ≤ 63 * 24 + 0 - 24 ∧ 67 * 24 + 0 - 24 ≤ 66 * 24 ∧ 62 * 24 + 23 - 24 < 62 * 24 ∧ 66 * 24 < 67 * 24 + 1 - 24)
      ∧ (∃ v : Video, v = { base.video with badRun := 15 } ∧ v.badRun < 32 ∧ (lineCounts v.settings.constant).2 ≤ v.badRun + 1)
      ∧ (base.video.seekPrimed = false ∧ ∀ n ∈ [6, 7], ∃ v : Video,
        v = { base.video with seekPrimed := true, fieldRun := n, fieldRate := some .r50 } ∧ v.seekPrimed = true
          ∧ v.fieldRun < 8 ∧ (if v.fieldRun ≠ 0 ∧ v.fieldRate = some .r50 then v.fieldRun + 1 else 1) = n + 1)
      ∧ ((classifyLines 312).filter (acceptsRate base.video.settings.rate) = some .r50
        ∧ (classifyLines 262).filter (acceptsRate base.video.settings.rate) = some .r59
        ∧ (classifyLines 300).filter (acceptsRate base.video.settings.rate) = none)
      ∧ ((lockedVideo 0 false).lockedRate = some .r50 ∧ (lockedVideo 0 false).lockedRate ≠ some .r59
        ∧ 4 ≤ (lockedVideo 3 false).nonNominal + 1 ∧ (lockedVideo 2 false).nonNominal + 1 < 4
        ∧ (lockedVideo 2 false).retime = false ∧ (lockedVideo 2 false).mode = .locked ∧ (lockedVideo 0 true).retime = true) := by
  refine ⟨fun g h => ⟨_, rfl, ?_⟩, ?_, ⟨_, rfl, ?_⟩, ⟨?_, fun n h => ⟨_, rfl, ?_⟩⟩, ?_, ?_⟩
  · revert g
    decide +kernel
  on_goal 4 => revert n
  all_goals decide +kernel

/-- A field of the running 20,000 µs grid, and one that starts at the commit itself. -/
theorem witness_FlashFieldIsTheNearest :
    base.video.fieldNo < 3 ∧ 45000 ≤ predictedStart base.video 3 ∧ base.video.fieldNo < 1
      ∧ 20000 ≤ predictedStart base.video 1 := by decide +kernel

/-- A pass of 0 is not shown (R147). -/
theorem test_pass_shown_above_zero :
    ∀ n ∈ [0, 2], drawOutput { (after (exec .generatorFieldStart base)).video.snapshot with
        content := { base.video.content with displayed := some { (aFlash 1).content with pass := n } } }
        { elements := { noElements with barBeat := true }, style := .border, length := 2 } false
      = [.barBeat 12 2 (if n = 0 then none else some 2)] := by decide +kernel

/-- A snapshot with and without the overlay, each banner of R149, and a channel that sounds, in its first frame, its last,
and the one after; a plateau frame of 1,000 Hz at a quarter, a half and three quarters of a turn. -/
theorem witness_WhatTheOutputsCarry :
    (fresh.video.snapshot.overlay = false ∧ (after (exec .generatorFieldStart base)).video.snapshot.overlay = true)
      ∧ (base.video.content.stopState = .run ∧ base.video.content.displayed = none
        ∧ ({ base.video.content with displayed := some (aFlash 1).content } : Content).displayed = some (aFlash 1).content
        ∧ ({ (aFlash 1).content with phase := .countIn 3 } : BeatContent).phase = .countIn 3)
      ∧ ((inStop .ready base).video.content.stopState = .ready
        ∧ (inStop (.holding .armed) base).video.content.stopState = .holding .armed
        ∧ (inStop (.countIn .hold) base).video.content.stopState = .countIn .hold
        ∧ pointed.video.content.standby = some (cueNo 3) ∧ base.video.content.standby = none)
      ∧ (∃ s : State, s = after (exec (.burstStart 0) draining) ∧ s.powered = true ∧ s.loading = false
        ∧ ((s.channel 0).sounding.map (·.frame)) = some 480000 ∧ (s.channel 1).sounding = none)
      ∧ (48 ≤ 60 ∧ 84 < 480 ∧ 1000 * 60 % 48000 = 12000 ∧ 1000 * 84 % 48000 = 36000 ∧ 1000 * 72 % 24000 = 0)
      ∧ (0 ≤ 66 ∧ 66 ≤ 66) := by
  refine ⟨?_, ?_, ?_, ⟨_, rfl, ?_⟩, ?_, ?_⟩ <;> decide +kernel

/-! ### Stations -/

def greeting : State := withRig { Station.initial with present := true, link := .greeting } show3

/-- A receiver that hunts holds no gap. -/
theorem hunting {st : Station} {n now : Nat} (h : st.receiver = none) : GapHeld st n now := by
  intro r hr
  rw [h] at hr
  cases hr

/-- `rig` with LOADED in reception, its type byte received at 1,000. -/
def openRig : Station := { rig with receiver := some { bytes := [0x82], last := 1000 } }

/-- Both sides of the 52 bit times, before one byte and before four. -/
theorem witness_GapHeld :
    (GapHeld openRig 1 1225 ∧ ¬GapHeld openRig 1 1226) ∧ (GapHeld openRig 4 1355 ∧ ¬GapHeld openRig 4 1356)
      ∧ (openRig.receiver = some { bytes := [0x82], last := 1000 } ∧ rigGap (some [0x82]) = List.replicate 1 .failed)
      ∧ (∃ s : State, s = withRig openRig show3 ∧ s.powered = true ∧ s.loading = false ∧ s.stations.length = 6
        ∧ s.station 0 = openRig) := by
  have one : ∀ {n now : Nat}, GapHeld openRig n now ↔ (now - 1000) * 230400 ≤ (52 + 10 * (n - 1)) * 1000000 := by
    intro n now
    refine ⟨fun h => ?_, fun h r hr => ?_⟩
    · have := h { bytes := [0x82], last := 1000 } rfl
      dsimp only at this
      exact this
    · obtain rfl : { bytes := [0x82], last := 1000 } = r := Option.some.inj hr
      exact h
  refine ⟨?_, ?_, ?_, _, rfl, ?_⟩
  · rw [one, one]
    decide +kernel
  · rw [one, one]
    decide +kernel
  all_goals decide +kernel

theorem witness_StationsComeAndGo :
    (show3.powered = true ∧ show3.stations.length = 6 ∧ show3.stop.words.length = 6 ∧ 7999 < 8000 ∧ max show3.now 7999 < 8000
        ∧ 8000 ≤ 8000 ∧ 8000 ≤ max show3.now 8000
        ∧ (show3.station 0).present = false)
      ∧ ((withRig waitingRig show3).powered = true ∧ (withRig waitingRig show3).stations.length = 6
        ∧ (withRig waitingRig show3).stop.words.length = 6 ∧ ((withRig waitingRig show3).station 0).present = true
        ∧ (withRig waitingRig show3).stop.st.rebuilds = false
        ∧ ((withRig waitingRig show3).station 0).switch = some (aSwitch (.loading 3))
        ∧ ((withRig waitingRig show3).station 0).excluded = false
        ∧ ((withRig { rig with excluded := true } show3).station 0).excluded = true
        ∧ ((withRig rig show3).station 0).switch = none)
      ∧ (show3.Serving ∧ (show3.station 5).link = .offline ∧ 1 < 2 ∧ 8 < 9)
      ∧ (greeting.Serving ∧ greeting.stations.length = 6 ∧ greeting.stop.words.length = 6
        ∧ (greeting.station 0).link ≠ .offline ∧ 2 ≤ 2 ∧ 8 ≤ 8 ∧ greeting.stop.st.rebuilds = false)
      ∧ ∃ s : State, s = withRig { Station.initial with present := true, link := .greeting } playing
        ∧ s.seq.current = some (cueNo 1) ∧ (trackedPatch s.store.cues (cueNo 1) 0).map (·.1) = some 10
        ∧ (findMap s.map 1 10).isSome = true ∧ (s.station 0).excluded = false
        ∧ (withRig waitingRig show3).Serving ∧ 1 = (0 : Fin 6).val + 1
        ∧ (GapHeld (s.station 0) 4 0 ∧ GapHeld (show3.station 5) 4 0 ∧ GapHeld (greeting.station 0) 4 0) := by
  unfold State.Serving
  refine ⟨?_, ?_, ?_, ?_, _, rfl, ?_, ?_, ?_, ?_, ?_, ?_, hunting ?_, hunting ?_, hunting ?_⟩ <;> decide +kernel

def flushingRig : Station :=
  { waitingRig with slots := [resident 10, resident 20, { loadingSlot 11 with flush := true }] }

def staleRig : Station :=
  { waitingRig with slots := [resident 10, resident 20, { loadingSlot 11 with stale := true }] }

def selectedRig : Station := { waitingRig with outSelect := some { slot := 3, sent := 900, due := some 200900 } }

theorem witness_LoadsAreAnswered :
    (∀ st ∈ [rig, loadingRig, waitingRig, flushingRig, staleRig, selectedRig],
        (withRig st show3).Serving ∧ (withRig st show3).stations.length = 6
          ∧ (withRig st show3).stop.st.rebuilds = false ∧ (withRig st show3).station 0 = st)
      ∧ ((∀ o ∈ rig.outLoad, o.slot ≠ 1) ∧ ∀ o ∈ loadingRig.outLoad, o.slot ≠ 2)
      ∧ (loadingRig.outLoad = some loadOut ∧ loadOut.slot = 3 ∧ (loadingRig.slot 3).stale = false
        ∧ (loadingRig.slot 3).flush = false ∧ loadingRig.switch = none ∧ loadOut.due = some 3501000)
      ∧ (∀ st ∈ [waitingRig, flushingRig, staleRig, selectedRig], st.outLoad = some loadOut
        ∧ st.switch = some (aSwitch (.loading 3)) ∧ (aSwitch (.loading 3)).stage = .loading 3)
      ∧ (waitingRig.outSelect.map (·.slot) ≠ some 3 ∧ selectedRig.outSelect.map (·.slot) = some 3)
      ∧ ((flushingRig.slot 3).flush = true ∧ (staleRig.slot 3).stale = true ∧ (staleRig.slot 3).flush = false)
      ∧ (∀ st ∈ [rig, loadingRig, waitingRig, flushingRig, staleRig, selectedRig], GapHeld st 4 0) := by
  unfold State.Serving
  refine ⟨?_, ?_, ?_, ?_, ?_, ?_, fun st h => hunting ?_⟩
  on_goal 7 => revert st
  all_goals decide +kernel

theorem witness_SelectsAreAnswered :
    (∀ st ∈ [rig, selectingRig],
        (withRig st show3).Serving ∧ (withRig st show3).stations.length = 6
          ∧ (withRig st show3).stop.st.rebuilds = false ∧ (withRig st show3).station 0 = st)
      ∧ (∀ o ∈ rig.outSelect, o.slot ≠ 1)
      ∧ (selectingRig.outSelect = some { slot := 2, sent := 3000, due := some 203000 }
        ∧ selectingRig.switch = some { aSwitch (.selecting 2) with patch := 20, kind := .warm }
        ∧ (aSwitch (.selecting 2)).fireTime = some 2000
        ∧ (selectingRig.lateOverride.getD show3.seq.settings.lateThreshold) * 1000 < max show3.now 52001 - 2000
        ∧ max show3.now 52000 - 2000
          ≤ (selectingRig.lateOverride.getD show3.seq.settings.lateThreshold) * 1000)
      ∧ (∀ x ∈ [Selected.none, .slot 1, .unknown [1, 2]], ({ selectingRig with selected := x } : Station).selected = x)
      ∧ (∀ st ∈ [rig, selectingRig], GapHeld st 4 52000) := by
  unfold State.Serving
  refine ⟨?_, ?_, ?_, ?_, fun st h => hunting ?_⟩
  on_goal 5 => revert st
  all_goals decide +kernel

def coldRig : Station := { rig with loadPlace := some 11, switch := some { aSwitch .coldHeld with kind := .cold } }

/-- A station with a preload of patch 11 for cue 3 to send; with one whose patch a slot holds already. -/
def preloadRig : Station := { rig with preload := true, ahead := [⟨cueNo 3, some 11⟩] }

def skippingRig : Station := { rig with preload := true, ahead := [⟨cueNo 3, none⟩, ⟨cueNo 3, some 10⟩], hostPins := [4095] }

/-- Slots that the look-ahead set and a host pin hold, so that no LOAD finds a victim: a cold load, a preload. -/
def fullRig : Station :=
  { rig with slots := [resident 10, resident 20, loadingSlot 30], hostPins := [20] }

def pressed (isOpen : Bool) : Station :=
  { fullRig with preload := true, pressure := isOpen, ahead := [⟨cueNo 3, some 11⟩] }

def coldFullRig : Station := { fullRig with loadPlace := some 11, switch := some { aSwitch .coldHeld with kind := .cold } }

/-- A SELECT held behind an outstanding one, with a cold load that may go. -/
def heldRig : Station :=
  { coldRig with selectPlace := some 2, outSelect := some { slot := 1, sent := 3000, due := some 203000 } }

theorem noVictim (preload : Bool) (st : Station)
    (h : ∀ k ∈ List.range st.slots.length, (st.slot (k + 1)).st ≠ .empty ∧ st.qualifies preload (k + 1) = false) :
    ∀ k v, ¬VictimIs preload st k v := by
  have at_ : ∀ k, 1 ≤ k → k ≤ st.slots.length → (st.slot k).st ≠ .empty ∧ st.qualifies preload k = false := fun k h1 h2 => by
    simpa [Nat.sub_add_cancel h1] using h (k - 1) (List.mem_range.2 (by omega))
  rintro k v (⟨h1, h2, h3, -⟩ | ⟨-, hk, ⟨d, hd, rfl, -⟩, -⟩)
  · exact (at_ k h1 h2).1 h3
  · have hb := (at_ _ (Nat.le_add_left 1 _) (Nat.mod_lt (st.victim - 1 + d) (by omega))).2
    obtain ⟨a, b, c, e, f, g⟩ := hk
    cases preload <;> simp_all [Station.qualifies]

theorem preloadsEleven (st : Station) (rest) (h : preloadOrder st = (some (cueNo 3), some 11) :: rest)
    (left : (findMap show3.map 1 11).isSome = true ∧ 11 ∉ st.failed ∧ (∀ sl ∈ st.slots, sl.holds 11 = false)
      ∧ st.loadPlace ≠ some 11) : PreloadIs show3.map 0 st (some (cueNo 3)) 11 :=
  ⟨[], rest, h, fun _ h => absurd h List.not_mem_nil, left⟩

theorem skipping : AllSkipped show3.map 0 skippingRig (preloadOrder skippingRig) := by
  have h : ∀ c ∈ preloadOrder skippingRig, ∀ q ∈ c.2, (findMap show3.map 1 q).isSome = false ∨ q = 10 := by decide +kernel
  intro c hc q hq left
  rcases h c hc q hq with h | rfl
  · exact Bool.false_ne_true (h.symm.trans left.1)
  · exact absurd (left.2.2.1 (resident 10) (by decide +kernel)) (by decide +kernel)

/-- SILENCE, a SELECT, cold loads with and without a victim, preloads, QUERY and nothing; frames sent and received. -/
theorem witness_StationLinkSends :
    (∀ st : Station, st = { rig with excluded := true } ∨ st = { rig with silence := true }
        ∨ st = { rig with selectPlace := some 2 } ∨ st = coldRig ∨ st = preloadRig ∨ st = rig ∨ st = coldFullRig
        ∨ st = pressed false ∨ st = pressed true ∨ st = skippingRig ∨ st = heldRig
        ∨ st = { Station.initial with present := true, link := .greeting, queryDue := true } →
        (withRig st show3).Serving ∧ (withRig st show3).stations.length = 6 ∧ (withRig st show3).station 0 = st
          ∧ st.sending = none ∧ (st = heldRig ∨ st.outSelect = none) ∧ st.outLoad = none)
      ∧ (∀ st ∈ [coldRig, heldRig], st.excluded = false ∧ st.silence = false ∧ (st.selectPlace = none ∨ st.outSelect ≠ none)
        ∧ st.loadPlace = some 11 ∧ findMap show3.map 1 11 = some (entry 11) ∧ VictimIs false st 3 1)
      ∧ (coldFullRig.switch = some { aSwitch .coldHeld with kind := .cold } ∧ coldFullRig.loadPlace = some 11
        ∧ (∀ k v, ¬VictimIs false coldFullRig k v) ∧ findMap ({ show3 with map := [] } : State).map 1 11 = none
        ∧ show3.stop.st.rebuilds = false)
      ∧ ((preloadRig.silence = false ∧ preloadRig.loadPlace = none ∧ preloadRig.preload = true)
        ∧ PreloadIs show3.map 0 preloadRig (some (cueNo 3)) (entry 11).patch
        ∧ findMap show3.map 1 (entry 11).patch = some (entry 11) ∧ VictimIs true preloadRig 3 1)
      ∧ (∀ b, (pressed b).preload = true ∧ PreloadIs show3.map 0 (pressed b) (some (cueNo 3)) 11
        ∧ ∀ k v, ¬VictimIs true (pressed b) k v)
      ∧ (skippingRig.preload = true ∧ AllSkipped show3.map 0 skippingRig (preloadOrder skippingRig))
      ∧ (rig.loadPlace = none ∧ rig.preload = false ∧ rig.link ≠ .greeting)
      ∧ (∀ f, f = .load 3 2 7 ∨ f = .select 2 ∨ f = .silence ∨ f = .query →
        ((withRig { Station.initial with present := true, link := .greeting, sending := some (f, 5) } show3).station 0).sending
            = some (f, 5)
          ∧ ((withRig { Station.initial with present := true, link := .greeting, sending := some (f, 5) } show3).station 0).link
            = .greeting)
      ∧ ((withRig { Station.initial with present := true, link := .greeting, queryAt := some 500005 } show3).station 0).queryAt
        = some 500005
      ∧ (show3.powered = true ∧ show3.loading = false ∧ fresh.powered = true ∧ fresh.loading = true
        ∧ fresh.stations.length = 6)
      ∧ ((rigFeed none [0x55, 0xA5, 0x82] = (some [0x82], []) ∧ rigGap (some [0x82]) = List.replicate 1 .failed)
        ∧ rigFeed none [0xA5, 0x82, 0x01, 0x00] = (none, List.replicate 1 .failed)
        ∧ rigFeed (some [0x82]) [0xA5, 0xA5] = (some [], List.replicate 2 .failed)
        ∧ rigFeed (some [0x82]) [0x03, 0x7B] = (none, [.complete (.loaded 3)])
        ∧ (GapHeld openRig 2 1000 ∧ openRig.receiver.map (·.bytes) = some [0x82]
          ∧ rigFeed (openRig.receiver.map (·.bytes)) [0x55] = (some [0x82, 0x55], []) ∧ GapHeld rig 3 0)) := by
  unfold State.Serving
  refine ⟨?_, ?_, ⟨rfl, rfl, noVictim _ _ (by decide +kernel), rfl, rfl⟩,
    ⟨by decide +kernel, preloadsEleven _ _ rfl (by decide +kernel), by decide +kernel, .inl (by decide +kernel)⟩,
    fun b => ⟨rfl, preloadsEleven _ _ rfl (by revert b; decide +kernel), noVictim _ _ (by revert b; decide +kernel)⟩,
    ⟨rfl, skipping⟩, by decide +kernel, ?_, by decide +kernel, by decide +kernel, by decide +kernel, by decide +kernel,
    by decide +kernel, by decide +kernel, ?_, by decide +kernel, by decide +kernel, hunting rfl⟩
  · rintro st (rfl | rfl | rfl | rfl | rfl | rfl | rfl | rfl | rfl | rfl | rfl | rfl) <;> decide +kernel
  · intro st h
    refine ⟨?_, ?_, ?_, ?_, ?_, .inl ?_⟩ <;> (revert st; decide +kernel)
  · rintro f (rfl | rfl | rfl | rfl) <;> decide +kernel
  · rintro r hr
    cases hr
    decide +kernel

/-- `show3` with station 1 as given and entries for patches 10, 11 and 20. -/
def switching (st : Station) : State := { withRig st show3 with map := [entry 10, entry 11, entry 20] }

/-- A station that does not serve; NONE and UNMAPPED; HOT; WARM with and without an outstanding SELECT of that slot; WAIT;
COLD; a switch in progress to the patch of the target and to another. -/
theorem witness_SwitchesAreClassified :
    ((∀ st ∈ [rig, loadingRig, waitingRig, { rig with excluded := true }], (switching st).stations.length = 6
          ∧ (switching st).stop.st.rebuilds = false ∧ (switching st).station 0 = st ∧ (st.serves = true ↔ st.excluded = false))
        ∧ rig.switch = none ∧ findMap (switching rig).map 1 4095 = none
        ∧ ∀ p ∈ [10, 11, 20], (findMap (switching rig).map 1 p).isSome = true)
      ∧ (rig.selected = .slot 1 ∧ (rig.slot 1).holds 10 = true ∧ rig.outSelect = none)
      ∧ (rig.isHot 20 = false ∧ rig.findSlot (fun sl => sl.holds 20 && sl.st == .resident) = some 2
        ∧ rig.outSelect.map (·.slot) ≠ some 2 ∧ selectingRig.outSelect.map (·.slot) = some 2)
      ∧ (loadingRig.isHot 11 = false ∧ loadingRig.findSlot (fun sl => sl.holds 11 && sl.st == .resident) = none
        ∧ loadingRig.findSlot (fun sl => sl.holds 11) = some 3)
      ∧ (rig.isHot 11 = false ∧ ∀ sl ∈ rig.slots, sl.holds 11 = false)
      ∧ (waitingRig.switch = some (aSwitch (.loading 3)) ∧ (aSwitch (.loading 3)).patch = 11
        ∧ (some 20 : Option Nat) ≠ some 11 ∧ (none : Option Nat) ≠ some 11)
      ∧ (∀ s ∈ [rebuildOf rig .waiting, rebuildOf readyRig .satisfied], s.stations.length = 6 ∧ (s.station 0).serves = true
        ∧ (s.station 0).switch = none ∧ s.stop.st.rebuilds = true ∧ s.stop.resume = some { cue := cueNo 3, bar := 1 }
        ∧ s.RebuildSound ∧ s.CopiesAgree ∧ findMap s.map 1 4095 = none ∧ (findMap s.map 1 10).isSome = true
        ∧ (findMap s.map 1 11).isSome = true)
      ∧ ((rebuildOf rig .waiting).stop.st = .rebuilding ∧ (rebuildOf readyRig .satisfied).stop.st = .ready
        ∧ ((rebuildOf rig .waiting).station 0).isHot 10 = true ∧ ((rebuildOf rig .waiting).station 0).isHot 11 = false) := by
  refine ⟨?_, ?_, ?_, ?_, ?_, ?_, fun s hs => ?_, ?_⟩
  case refine_7 =>
    have sound : s.RebuildSound := by
      simp only [List.mem_cons, List.not_mem_nil, or_false] at hs
      obtain rfl | rfl := hs <;> exact fun _ => ⟨by decide +kernel, { cue := cueNo 3, bar := 1 }, by decide +kernel⟩
    simp only [List.mem_cons, List.not_mem_nil, or_false] at hs
    unfold State.CopiesAgree
    obtain rfl | rfl := hs <;>
      exact ⟨by decide +kernel, by decide +kernel, by decide +kernel, by decide +kernel, by decide +kernel, sound,
        by decide +kernel, by decide +kernel, by decide +kernel, by decide +kernel⟩
  all_goals decide +kernel

def pinned : State := withRig { rig with hostPins := [1, 4095] } show3

/-- An excluded station, in GREETING and OFFLINE; ONLINE in cue 1 or 3, with the tracked patch HOT, COLD and UNMAPPED. -/
def excludedRig (l : LinkSt) (n : Nat) : State :=
  let s := withRig { Station.initial with present := true, link := l, excluded := true } show3
  let s := if l = .online then withRig { rig with excluded := true } s else s
  { s with seq := { s.seq with current := some (cueNo n) } }

theorem witness_StationSettings :
    ((pinned.Serving ∧ pinned.stations.length = 6 ∧ pinned.stop.words.length = 6) ∧ 1 = (0 : Fin 6).val + 1
        ∧ 6 = (5 : Fin 6).val + 1 ∧ ¬(1 ≤ 0 ∧ 0 ≤ 6) ∧ ¬(1 ≤ 7 ∧ 7 ≤ 6) ∧ patchOk 0 = false ∧ patchOk 4096 = false
        ∧ (patchOk 4095 = true ∧ 4095 ∈ (pinned.station 0).hostPins)
        ∧ (patchOk 2 = true ∧ 2 ∉ (pinned.station 0).hostPins ∧ 2 ≤ (pinned.station 0).hostPins.length))
      ∧ ((withRig rig show3).Serving ∧ 2 ∉ ((withRig rig show3).station 0).hostPins
        ∧ ((withRig rig show3).station 0).hostPins.length < 2)
      ∧ (1 < 2 ∧ ¬(10 ≤ 9 ∧ 9 ≤ 1000) ∧ ¬(10 ≤ 1001 ∧ 1001 ≤ 1000) ∧ (10 ≤ 10 ∧ 10 ≤ 1000) ∧ (10 ≤ 1000 ∧ 1000 ≤ 1000))
      ∧ ((pinned.station 0).excluded = false ∧ pinned.stop.st.rebuilds = false)
      ∧ (∀ l ∈ [LinkSt.offline, .greeting, .online], ∀ n ∈ [1, 3], (excludedRig l n).Serving
        ∧ (excludedRig l n).stations.length = 6 ∧ (excludedRig l n).stop.words.length = 6
        ∧ ((excludedRig l n).station 0).excluded = true ∧ ((excludedRig l n).station 0).link = l
        ∧ (excludedRig l n).stop.st.rebuilds = false ∧ ((excludedRig l n).station 0).switch = none)
      ∧ ((∀ x ∈ [(1, 10), (3, 11)], (excludedRig .online x.1).seq.current.bind
              (fun c => (trackedPatch (excludedRig .online x.1).store.cues c 0).map (·.1)) = some x.2
            ∧ (findMap (excludedRig .online x.1).map 1 x.2).isSome = true)
        ∧ ((excludedRig .online 1).station 0).isHot 10 = true ∧ ((excludedRig .online 3).station 0).isHot 11 = false
        ∧ (∀ sl ∈ ((excludedRig .online 3).station 0).slots, sl.holds 11 = false)
        ∧ findMap ({ excludedRig .online 3 with map := [] } : State).map 1 11 = none
        ∧ (show3.seq.current.bind fun c => (trackedPatch show3.store.cues c 0).map (·.1)) = none) := by
  unfold State.Serving
  refine ⟨?_, ?_, ?_, ?_, ?_, ?_⟩ <;> decide +kernel

/-- Stations that do and do not serve; no candidate; a candidate with a LOAD outstanding, behind a cold load, with a victim
and without one. -/
theorem witness_PreloadRecompute :
    (∀ st ∈ [rig, { rig with excluded := true }, skippingRig, loadingRig, coldRig, preloadRig, pressed false, pressed true],
        (withRig st show3).stations.length = 6 ∧ (withRig st show3).station 0 = st
          ∧ (st.serves = false ↔ st.excluded = true))
      ∧ AllSkipped show3.map 0 skippingRig (preloadOrder skippingRig)
      ∧ (∃ st : Station, st = { loadingRig with slots := rig.slots, outLoad := some { loadOut with patch := 12 }
                                                ahead := preloadRig.ahead }
        ∧ PreloadIs show3.map 0 st (some (cueNo 3)) 11 ∧ st.outLoad ≠ none)
      ∧ (PreloadIs show3.map 0 preloadRig (some (cueNo 3)) 11 ∧ VictimIs true preloadRig 3 1 ∧ preloadRig.outLoad = none
        ∧ preloadRig.loadPlace = none ∧ preloadOf show3.map 0 preloadRig = some (some (cueNo 3), 11)
        ∧ preloadRig.chooseVictim true = some (3, 1))
      ∧ (∀ b, PreloadIs show3.map 0 (pressed b) (some (cueNo 3)) 11 ∧ (∀ k v, ¬VictimIs true (pressed b) k v)
        ∧ (pressed b).chooseVictim true = none)
      ∧ preloadOf show3.map 0 skippingRig = none
      ∧ (VictimIs false { rig with slots := [resident 10, resident 20, resident 30], victim := 3 } 3 1
        ∧ VictimIs true { rig with slots := [resident 10, resident 20, resident 30], victim := 1 } 2 3) := by
  refine ⟨by decide +kernel, skipping, ⟨_, rfl, preloadsEleven _ _ rfl (by decide +kernel), by decide +kernel⟩,
    ⟨preloadsEleven _ _ rfl (by decide +kernel), .inl (by decide +kernel), rfl, rfl, by decide +kernel, by decide +kernel⟩,
    fun b => ⟨preloadsEleven _ _ rfl (by revert b; decide +kernel), noVictim _ _ (by revert b; decide +kernel),
      by revert b; decide +kernel⟩, by decide +kernel, .inr ?_, .inr ?_⟩ <;> (unfold MayGo; decide +kernel)

theorem witness_FaultGetAndClear :
    loaded13.Serving ∧ loaded13.stations.length = 6 ∧ 2 = (1 : Fin 6).val + 1
      ∧ (loaded13.station 1).faults.first.isSome = true := by
  unfold State.Serving
  decide +kernel

/-! ### Attention -/

/-- Two conditions pending, of which the lower is 6. -/
def twoPending : State := raise (.goRefused .noStandby .go) (raise (.linkError .crc) base)

theorem witness_AttentionQueryClears :
    (twoPending.powered = true ∧ twoPending.attention.length = 9 ∧ 1 ≤ 6 ∧ 6 ≤ 9
        ∧ twoPending.attention[5]? = some { isPending := true, enabled := true
                                            record := some (.goRefused .noStandby .go, 0), count := 1 }
        ∧ (∀ j < 6 - 1, ∀ d ∈ twoPending.attention[j]?, (d.isPending && d.enabled) = false))
      ∧ (1 ≤ 1 ∧ 9 ≤ 9 ∧ twoPending.attention[0]? = some Condition.initial
        ∧ twoPending.attention[8]? = some Condition.initial)
      ∧ (base.powered = true ∧ base.attention.length = 9 ∧ (∀ c ∈ base.attention, (c.isPending && c.enabled) = false))
      ∧ ¬(1 ≤ 0 ∧ 0 ≤ 9) ∧ ¬(1 ≤ 10 ∧ 10 ≤ 9) := by
  refine ⟨?_, ?_, ?_, ?_, ?_⟩ <;> decide +kernel

theorem witness_AttentionEnableReplacesTheMask :
    (fresh.powered = true ∧ fresh.attention.length = 9 ∧ fresh.loading = true)
      ∧ (base.powered = true ∧ base.attention.length = 9 ∧ base.loading = false ∧ 512 ≤ 512 ∧ 511 < 512
        ∧ base.attention[8]? = some Condition.initial) := by decide +kernel

/-- Asserted through the condition 6, where the summary is 6; and deasserted. -/
theorem witness_AttnFollowsTheConditions :
    attnLine twoPending = true ∧ attentionSummary twoPending = 5 + 1 ∧ attnLine base = false := by decide +kernel

/-! ### The Show Link -/

/-- `base` with a break, with four frames queued, and in a frame after its start byte and one length byte. -/
def inBreak : State := { base with link := { base.link with inBreak := true } }
def aFrame : Frame := { tag := 1, kind := 0x40, payload := [] }
def queued (n : Nat) : State := { base with link := { base.link with queue := List.replicate n aFrame } }
def inFrame (h : Byte) : State := { base with link := { base.link with got := some [h] } }

/-- `base` with the bytes given in reception. -/
def atCrc (g : List Byte) : State := { base with link := { base.link with got := some g } }

/-- Of the two frames of a CRC discard one holds no start byte, the other one in its tag. -/
theorem witness_LinkEvents :
    (inBreak.powered = true ∧ inBreak.link.inBreak = true)
      ∧ ((queued 3).powered = true ∧ (queued 3).link.inBreak = false ∧ (List.replicate 240 (0 : Byte)).length ≤ 240
        ∧ (queued 3).link.queue.length < 4 ∧ 4 ≤ (queued 4).link.queue.length)
      ∧ ((inFrame 0).link.got = some [0] ∧ (inFrame 0).link.inBreak = false
        ∧ 240 < (0 : Byte).toNat * 256 + (241 : Byte).toNat ∧ (0 : Byte) ≠ 0x7E)
      ∧ (base.link.inBreak = false ∧ base.link.got = none)
      ∧ (∀ g ∈ [[0, 0, 1, 0x40, 0xAA], [0, 0, 0x7E, 0, 5]], (atCrc g).link.inBreak = false ∧ (atCrc g).link.got = some g
        ∧ bytesNat (g.take 2) = 0 ∧ g.length = 0 + 5
        ∧ (crc (g.take (0 + 4))).toNat ≠ bytesNat (g.drop (0 + 4) ++ [(0xBB : Byte)]))
      ∧ (∀ x ∈ ([0, 0, 1, 0x40, 0xAA, 0xBB] : List Byte), x ≠ 0x7E)
      ∧ (([0, 0, 0x7E, 0, 5] : List Byte) ++ [0xBB] = [0, 0] ++ 0x7E :: [0, 5, 0xBB] ∧ bytesNat [(0 : Byte), 5] ≤ 240) := by
  refine ⟨?_, ?_, ?_, ?_, ?_, ?_, ?_⟩ <;> decide +kernel

theorem witness_EveryFrameIsReceived :
    ((queued 3).powered = true ∧ (queued 3).link.inBreak = false ∧ (queued 3).link.got = none
        ∧ (queued 3).link.queue.length < 4 ∧ (List.replicate 240 (0x7E : Byte)).length ≤ 240)
      ∧ (byteSum [0x81, 0x08, 0x77] = 0 ∧ byteSum [0x84, 0x02, 0x7B] ≠ 0 ∧ (0x02 : Byte) ≠ 0xA5
        ∧ ∀ k ∈ [(0x81 : Byte), 0x82, 0x83, 0x84], (0x85 : Byte) ≠ k ∧ (0xA5 : Byte) ≠ k)
      ∧ (base.link.sending = none ∧ rig.sending = none ∧ base.link.rate.baud = 115200
        ∧ 0 * 1000000 ≤ (5 - 5) * 115200 ∧ (5 - 5) * 115200 < (0 + 1) * 1000000
        ∧ 19 * 1000000 ≤ (170 - 5) * 115200 ∧ (170 - 5) * 115200 < (19 + 1) * 1000000
        ∧ 20 * 1000000 ≤ (179 - 5) * 115200 ∧ (179 - 5) * 115200 < (20 + 1) * 1000000)
      ∧ (43 ≤ 43 ∧ ¬43 ≤ 42 ∧ base.stations.length = 6 ∧ (base.station 0).receiver = none
        ∧ (base.station 5).receiver = none ∧ 255 < 256) := by decide +kernel

/-- HELLO of three slots on SRXn from 1,000,000 µs: a row at the end of each stop bit, at 43.4 µs a byte. -/
theorem test_srx_bits_are_the_rows :
    srxCommands 2 1000000 (lineBits (RigFrame.hello 3).bytes)
      = [.stationFrameBad 1000044 ⟨2, [0xA5]⟩, .stationFrameBad 1000087 ⟨2, [0x81]⟩, .stationFrameBad 1000131 ⟨2, [0x03]⟩,
          .stationFrameBad 1000174 ⟨2, [0x7C]⟩] := by decide +kernel

/-- A byte that comes 53 bit times after the one before has a gap before it, and one that comes 52 after has none. -/
theorem test_srx_gap :
    (readSrx 0 .idle (byteBits 0x81 ++ List.replicate 43 true ++ byteBits 0x02)).2
        = [(10, .byte 0x81), (62, .silence), (63, .byte 0x02)]
      ∧ (readSrx 0 .idle (byteBits 0x81 ++ List.replicate 42 true ++ byteBits 0x02)).2
        = [(10, .byte 0x81), (62, .byte 0x02)] := by decide +kernel

theorem witness_CueRecordReadsBack :
    (cueOk cue1 = true ∧ cue1.patches.Pairwise (fun a b => a.station < b.station)
        ∧ cue1.clicks.Pairwise (fun a b => a.channel < b.channel))
      ∧ 65535 < 256 ^ 2 ∧ 65534 + 1 < 256 ^ 2 := by decide +kernel

/-- A queue that waits behind a formed reply; a kind that no request has; IDENTIFY; a reply being sent. -/
def answering : State :=
  { queued 1 with link := { (queued 1).link with waiting := some [0x7E], sending := some ([0x7E, 0x00], 5) } }

theorem witness_RequestsAndReplies :
    (answering.powered = true ∧ answering.link.waiting.isSome = true ∧ base.link.queue = [])
      ∧ (∃ s : State, s = { base with link := { base.link with queue := [{ aFrame with kind := 0x7F }] } }
        ∧ s.powered = true ∧ s.link.waiting = none ∧ s.link.queue = { aFrame with kind := 0x7F } :: []
        ∧ readRequest (max s.now 5) { aFrame with kind := 0x7F } = .error .badKind)
      ∧ (∃ (f : Frame) (c : Instr), f = { aFrame with kind := 0x01 } ∧ base.link.waiting = none
        ∧ readRequest (max base.now 5) f = .ok c ∧ (requestOf c).isSome = true)
      ∧ answering.link.sending = some ([0x7E, 0x00], 5) :=
  ⟨by decide +kernel, ⟨_, rfl, rfl, rfl, rfl, rfl⟩, ⟨_, _, rfl, rfl, rfl, rfl⟩, rfl⟩

theorem witness_RestartShowClearsTheShow :
    (withRig waitingRig playing).Serving ∧ (withRig waitingRig playing).stations.length = 6
      ∧ ((withRig waitingRig playing).attention[0]?) = some Condition.initial := by
  unfold State.Serving
  decide +kernel

end Sys2Proof.Tests
end

namespace Sys2Proof.Proofs

open Sys2Proof Sys2Proof.Machine

/-! ## FAULT GET and FAULT CLEAR (R137) -/

theorem readStation_succ (i : Fin 6) : readStation (i.val + 1) = some i := by
  simp [readStation]

theorem stationRequest_succ (i : Fin 6) (f : Fin 6 → State → State × Answer) :
    stationRequest (i.val + 1) f = f i := by
  funext s
  rw [stationRequest, readStation_succ]

theorem exec_faultGet (t n : Nat) (s : State) :
    exec (.faultGet t n) s = request t false (stationRequest n reqFaultGet) s := rfl

theorem exec_faultClear (t n : Nat) (s : State) :
    exec (.faultClear t n) s = request t false (stationRequest n reqFaultClear) s := rfl

/-- Settles O52: both are requests of station `i`, served at once. FAULT GET answers from the state it leaves alone; FAULT
CLEAR is one write of station `i`, answered from the state before the write, so the conditions stay out of its reach. -/
theorem faultGetAndClear : Obligations.FaultGetAndClear := by
  intro s t n i hs hlen hn
  have own : (s.goTo t).station i = s.station i := station_congr (State.goTo_stations s t) i
  subst hn
  constructor
  · rw [exec_faultGet, request_serving t false hs, stationRequest_succ]
    simp only [reqFaultGet, okWith, own]
  · refine ⟨(s.goTo t).setStation i fun st => { st with faults := { first := none, count := 0 } }, ?_,
      onlyStation_setStation i _ _, ?_⟩
    · rw [exec_faultClear, request_serving t false hs, stationRequest_succ]
      simp only [reqFaultClear, okWith, own]
    · exact station_setStation_same i _ hlen

end Sys2Proof.Proofs

namespace Sys2Proof.Proofs

open Sys2Proof Sys2Proof.Machine

/-! ## The ATTN line and the attention summary (R182, R191) -/

/-- A condition that asserts ATTN: pending and enabled. -/
def assertsAttn (c : Condition) : Bool := c.isPending && c.enabled

theorem assertsAttn_iff (c : Condition) : assertsAttn c = true ↔ c.isPending = true ∧ c.enabled = true :=
  Bool.and_eq_true_iff

theorem attnLine_eq_any (s : State) : attnLine s = s.attention.any assertsAttn := rfl

/-- The numbering of `firstPending` is a search of the table, moved up by the number it starts from. -/
theorem firstPending_eq_findIdx? (n : Nat) (cs : List Condition) :
    firstPending n cs = ((cs.findIdx? assertsAttn).map (n + ·)).getD 0 := by
  induction cs generalizing n with
  | nil => rfl
  | cons c cs ih =>
    rw [firstPending, List.findIdx?_cons]
    change (if assertsAttn c = true then _ else _) = _
    split
    · rfl
    · rw [ih, Option.map_map]
      congr 2
      funext i
      simp only [Function.comp_apply]
      omega

theorem attentionSummary_eq_succ_iff (s : State) (k : Nat) :
    attentionSummary s = k + 1 ↔ s.attention.findIdx? assertsAttn = some k := by
  rw [attentionSummary, firstPending_eq_findIdx?]
  cases s.attention.findIdx? assertsAttn with
  | none => simp
  | some i => simp [Nat.add_comm 1]

theorem attentionSummary_ne_zero_iff (s : State) : attentionSummary s ≠ 0 ↔ attnLine s = true := by
  rw [attentionSummary, firstPending_eq_findIdx?, attnLine_eq_any, ← List.findIdx?_isSome]
  cases s.attention.findIdx? assertsAttn with
  | none => simp
  | some i => simp

/-- Settles O55: the summary is the place, from 1, at which a search of the table finds the first condition that asserts
the line, and the line says whether that search finds one. -/
theorem attnFollowsTheConditions : Obligations.AttnFollowsTheConditions := by
  refine ⟨fun s => ⟨?_, (attentionSummary_ne_zero_iff s).symm, fun k hk => ?_⟩, rfl⟩
  · simp only [attnLine_eq_any, List.any_eq_true, assertsAttn_iff]
  · obtain ⟨hlt, hat, before⟩ :=
      List.findIdx?_eq_some_iff_getElem.mp ((attentionSummary_eq_succ_iff s k).mp hk)
    refine ⟨⟨s.attention[k], List.getElem?_eq_getElem hlt, (assertsAttn_iff _).mp hat⟩, fun j c hj hc => ?_⟩
    obtain ⟨_, rfl⟩ := List.getElem?_eq_some_iff.mp hc
    exact Bool.eq_false_iff.mpr (before j hj)

/-! ## ATTENTION ENABLE (R194) -/

theorem exec_attentionEnable (t mask : Nat) (s : State) :
    exec (.attentionEnable t mask) s = request t false (reqAttentionEnable mask) s := rfl

/-- The table with its enable flags replaced whole by the low bits of a mask. -/
def enabledBy (mask : Nat) (cs : List Condition) : List Condition :=
  cs.mapIdx fun k c => { c with enabled := mask.testBit k }

theorem enabledBy_getElem? (mask : Nat) {cs : List Condition} {k : Nat} {c : Condition} (h : cs[k]? = some c) :
    (enabledBy mask cs)[k]? = some { c with enabled := mask.testBit k } := by
  simp [enabledBy, h]

theorem enabledBy_length (mask : Nat) (cs : List Condition) : (enabledBy mask cs).length = cs.length :=
  List.length_mapIdx

theorem reqAttentionEnable_of_lt {mask : Nat} (h : mask < 512) (s : State) :
    reqAttentionEnable mask s = ({ s with attention := enabledBy mask s.attention }, okWith [.num 2 mask]) :=
  if_pos h

theorem reqAttentionEnable_of_le {mask : Nat} (h : 512 ≤ mask) (s : State) :
    reqAttentionEnable mask s = (s, refuse .range) :=
  if_neg (Nat.not_lt.mpr h)

/-- Settles O54: BUSY is the gate of the load, and RANGE leaves the state alone; otherwise the one write replaces the
enable flags in the attention table. -/
theorem attentionEnableReplacesTheMask : Obligations.AttentionEnableReplacesTheMask := by
  intro s t mask hp hlen
  refine ⟨fun hl => ?busy, fun hl hm => ?range, fun hl hm => ?replaced⟩
  case busy => rw [exec_attentionEnable, request_while_loading t hp hl]
  case range => rw [exec_attentionEnable, request_serving t false ⟨hp, hl⟩, reqAttentionEnable_of_le hm]; rfl
  case replaced =>
    refine ⟨{ s.goTo t with attention := enabledBy mask s.attention }, ?_,
      fun _ _ hk => enabledBy_getElem? mask hk, (enabledBy_length mask _).trans hlen, rfl⟩
    rw [exec_attentionEnable, request_serving t false ⟨hp, hl⟩, reqAttentionEnable_of_lt hm]
    rfl

end Sys2Proof.Proofs

namespace Sys2Proof.Proofs

open Sys2Proof Sys2Proof.Machine

/-! ## What the time-driven blocks leave alone

The Beat Clock, the Conductor Follower, the Click Generator at a commit and the Video Overlay Unit write their own records and
raise conditions. `outside` is everything of the state that they leave as it was, their stored settings and the copies that
other blocks hand them among it, so that one equation `outside (f s) = outside s` is the frame rule of an operation. -/

/-- What the time-driven blocks leave alone. -/
structure Outside where
  rest : State
  lead : Nat
  cue : Option CueNo
  follow : FollowSettings
  channels : List ChannelSettings
  video : VideoSettings
  handed : Content
  conditions : Nat

def outside (s : State) : Outside :=
  { rest := { s with clock := BeatClock.initial, follower := Follower.initial, channels := [], video := Video.initial,
                     attention := [] }
    lead := s.clock.lead
    cue := s.clock.position.cue
    follow := s.follower.settings
    channels := s.channels.map (·.settings)
    video := s.video.settings
    handed := { s.video.content with displayed := none }
    conditions := s.attention.length }

section
variable {s : State}

/-! ### The updates -/

@[simp] theorem outside_raise (r : CondRecord) (s : State) : outside (raise r s) = outside s := by
  simp [outside, raise]

@[simp] theorem outside_setClock (f : BeatClock → BeatClock) (s : State) (hl : (f s.clock).lead = s.clock.lead)
    (hc : (f s.clock).position.cue = s.clock.position.cue) : outside (s.setClock f) = outside s := by
  simp [outside, State.setClock, hl, hc]

@[simp] theorem outside_setFollower (f : Follower → Follower) (s : State)
    (h : (f s.follower).settings = s.follower.settings) : outside (s.setFollower f) = outside s := by
  simp [outside, State.setFollower, h]

@[simp] theorem outside_setVideo (f : Video → Video) (s : State) (hs : (f s.video).settings = s.video.settings)
    (hc : { (f s.video).content with displayed := none } = { s.video.content with displayed := none }) :
    outside (s.setVideo f) = outside s := by
  simp [outside, State.setVideo, hs, hc]

/-! ### The Conductor Follower -/

@[simp] theorem outside_followerGoes (st : FollowerSt) (s : State) : outside (followerGoes st s) = outside s := by
  unfold followerGoes; split <;> simp

@[simp] theorem outside_followerFreeze (s : State) : outside (followerFreeze s) = outside s := by
  simp [followerFreeze]

@[simp] theorem outside_enterFree (s : State) : outside (enterFree s) = outside s := by
  simp [enterFree]

@[simp] theorem outside_enterSeeking (s : State) : outside (enterSeeking s) = outside s := by
  simp [enterSeeking]

@[simp] theorem outside_enterLocked (s : State) : outside (enterLocked s) = outside s := by
  simp [enterLocked]

@[simp] theorem outside_enterCoasting (s : State) : outside (enterCoasting s) = outside s := by
  simp [enterCoasting]

@[simp] theorem outside_tellRecord (b : Bool) (g : Governing) (s : State) : outside (tellRecord b g s) = outside s := by
  unfold tellRecord
  split
  · dsimp only; split <;> simp
  · simp

@[simp] theorem outside_missBeat (s : State) : outside (missBeat s) = outside s := by
  unfold missBeat
  extract_lets m n
  have hm : outside m = outside s := by simp [m]
  have hn : outside n = outside s := by simp [n, hm]
  split
  · simp [hm]
  · split <;> simp [hn]
  · exact hm

@[simp] theorem outside_closeWindow (s : State) : outside (closeWindow s) = outside s := by
  unfold closeWindow
  split
  · split
    · dsimp only; split <;> simp
    · rfl
  · rfl

@[simp] theorem outside_judgeWindow (s : State) : outside (judgeWindow s) = outside s := by
  unfold judgeWindow
  split
  · split <;> simp
  · rfl

@[simp] theorem outside_windowAccount (t : Nat) (s : State) : outside (windowAccount t s) = outside s := by
  unfold windowAccount; split <;> simp

@[simp] theorem outside_setClamped (p : Int) (s : State) : outside (setClamped p s) = outside s := rfl

@[simp] theorem outside_followRampStep (a b c : Nat) (s : State) : outside (followRampStep a b c s) = outside s := by
  simp [followRampStep]

@[simp] theorem outside_followRampEnd (a b : Nat) (s : State) : outside (followRampEnd a b s) = outside s := by
  simp [followRampEnd]

@[simp] theorem outside_correct (t : Nat) (e : Int) (early : Bool) (u : Nat) (s : State) :
    outside (correct t e early u s) = outside s := rfl

@[simp] theorem outside_adapt (e : Int) (s : State) : outside (adapt e s) = outside s := by
  unfold adapt
  split
  · apply outside_setFollower
    dsimp only
    split_ifs <;> rfl
  · rfl

@[simp] theorem outside_countGood (e : Int) (s : State) : outside (countGood e s) = outside s := by
  unfold countGood
  split
  · dsimp only; split <;> simp
  · simp

@[simp] theorem outside_rejectPulse (why : Rejection) (s : State) : outside (rejectPulse why s) = outside s := by
  unfold rejectPulse
  extract_lets m n
  have hm : outside m = outside s := by simp [m]
  have hn : outside n = outside s := by simp [n, hm]
  split
  · split <;> simp [hn]
  · exact hm

@[simp] theorem outside_acceptPulse (t : Nat) (e : Int) (early : Bool) (u : Nat) (s : State) :
    outside (acceptPulse t e early u s) = outside s := by
  unfold acceptPulse
  extract_lets m c n
  have hm : outside m = outside s := by simp [m]
  have hn : outside n = outside s := by simp [n, c, hm]
  cases m.follower.st <;> simp [hm, hn]

@[simp] theorem outside_followPulse (t : Nat) (s : State) : outside (followPulse t s) = outside s := by
  unfold followPulse
  split
  · rfl
  · extract_lets c
    split_ifs <;> simp

@[simp] theorem outside_measurePulse (t : Nat) (s : State) : outside (measurePulse t s) = outside s := by
  unfold measurePulse; split <;> simp

@[simp] theorem outside_rejectClose (s : State) : outside (rejectClose s) = outside s := by simp [rejectClose]

@[simp] theorem outside_acceptConducted (s : State) : outside (acceptConducted s) = outside s := by
  simp [acceptConducted]

/-! ### The Beat Clock -/

@[simp] theorem outside_startRamp (r : TempoRecord) (s : State) : outside (startRamp r s) = outside s := by
  unfold startRamp; split <;> simp

@[simp] theorem outside_takeRampPeriod (g : Governing) (r : RampRun) (i : Nat) (s : State) :
    outside (takeRampPeriod g r i s) = outside s := by
  unfold takeRampPeriod; split <;> simp

@[simp] theorem outside_rampStep (b : Bool) (s : State) : outside (rampStep b s) = outside s := by
  unfold rampStep
  split
  · extract_lets i
    split
    · simp
    · simp
  · rfl

@[simp] theorem outside_endRamp (s : State) : outside (endRamp s) = outside s := by
  unfold endRamp
  split
  · extract_lets m
    have hm : outside m = outside s := by simp [m]
    split <;> simp [hm]
  · rfl

@[simp] theorem outside_takeRecord (r : TempoRecord) (s : State) : outside (takeRecord r s) = outside s := by
  simp [takeRecord]

@[simp] theorem outside_clockIdle (s : State) : outside (clockIdle s) = outside s := by
  simp [clockIdle, tellNone]

@[simp] theorem outside_clockFreezes (s : State) : outside (clockFreezes s) = outside s := by
  simp [clockFreezes]

@[simp] theorem outside_freezeAtDownbeat (s : State) : outside (freezeAtDownbeat s).1 = outside s := by
  simp [freezeAtDownbeat]

@[simp] theorem outside_tacetStop (s : State) : outside (tacetStop s).1 = outside s := by
  simp [tacetStop]

@[simp] theorem outside_writeBeat (g : Governing) (r : BeatRec) (s : State) : outside (writeBeat g r s) = outside s := by
  simp [writeBeat]

theorem scheduleChannel_settings (r : BeatRec) (lead : Nat) (c : Channel) :
    (scheduleChannel r lead c).settings = c.settings := by
  unfold scheduleChannel; split <;> rfl

@[simp] theorem outside_clickCommit (r : BeatRec) (s : State) : outside (clickCommit r s) = outside s := by
  unfold clickCommit
  split
  · rfl
  · simp [outside, scheduleChannel_settings]

@[simp] theorem outside_videoCommit (r : BeatRec) (s : State) : outside (videoCommit r s) = outside s := by
  simp [videoCommit]

@[simp] theorem outside_commitAs (t bar beat : Nat) (ph : Phase) (s : State) :
    outside (commitAs t bar beat ph s).1 = outside s := by
  unfold commitAs; split <;> simp

@[simp] theorem outside_commitDown (t : Nat) (s : State) : outside (commitDown t s).1 = outside s := by
  unfold commitDown
  dsimp only
  rw [outside_commitAs, outside_rampStep, outside_setClock _ _ rfl rfl]
  split
  · simp
  · split <;> simp
  · rfl

@[simp] theorem outside_reachDown (t : Nat) (s : State) : outside (reachDown t s).1 = outside s := by
  unfold reachDown; split_ifs <;> simp

@[simp] theorem outside_reachBeat (t : Nat) (s : State) : outside (reachBeat t s).1 = outside s := by
  unfold reachBeat
  split
  · rfl
  · split <;> simp

@[simp] theorem outside_commitScheduled (s : State) : outside (commitScheduled s).1 = outside s := by
  unfold commitScheduled; split <;> simp

@[simp] theorem outside_commitIfDue (s : State) : outside (commitIfDue s).1 = outside s := by
  unfold commitIfDue
  split
  · split <;> simp
  · rfl

@[simp] theorem outside_startClock (bar bars : Nat) (g : Governing) (fresh : Bool) (s : State) :
    outside (startClock bar bars g fresh s) = outside s := by
  simp [startClock]

@[simp] theorem outside_noUsable (s : State) : outside (noUsable s).1 = outside s := by simp [noUsable]

@[simp] theorem outside_resumeStart (bar bars : Nat) (s : State) : outside (resumeStart bar bars s).1 = outside s := by
  unfold resumeStart
  dsimp only
  split
  · split <;> simp
  · simp

@[simp] theorem outside_holdStart (bar bars : Nat) (s : State) : outside (holdStart bar bars s).1 = outside s := by
  unfold holdStart
  split
  · dsimp only; split <;> simp
  · simp
  · simp

@[simp] theorem outside_clockBarSet (b : Option Nat) (s : State) : outside (clockBarSet b s) = outside s := by
  unfold clockBarSet; split <;> simp

@[simp] theorem outside_clockTempo (r : Option TempoRecord) (s : State) : outside (clockTempo r s).1 = outside s := by
  unfold clockTempo
  split
  · rfl
  · split_ifs <;> simp

@[simp] theorem outside_clockVamp (v : Option VampBars) (b : Bool) (s : State) : outside (clockVamp v b s) = outside s := by
  simp [clockVamp]

@[simp] theorem outside_armHold (s : State) : outside (armHold s) = outside s := by simp [armHold]

@[simp] theorem outside_freezeCountIn (s : State) : outside (freezeCountIn s).1 = outside s := by simp [freezeCountIn]

@[simp] theorem outside_cancelHold (s : State) : outside (cancelHold s) = outside s := by simp [cancelHold]

@[simp] theorem outside_clockStop (s : State) : outside (clockStop s) = outside s := by
  unfold clockStop; dsimp only; split <;> simp

@[simp] theorem outside_takePulse (s : State) : outside (takePulse s).1 = outside s := by
  unfold takePulse
  split
  · split
    · rfl
    · split
      · simp
      · simp
      · split <;> simp
      · rfl
  · rfl

/-! ### The Click Generator -/

@[simp] theorem outside_cancelClicks (s : State) : outside (cancelClicks s) = outside s := by
  simp [outside, cancelClicks]

/-! ### The Video Overlay Unit -/

@[simp] theorem outside_genlockGoes (g : Genlock) (s : State) : outside (genlockGoes g s) = outside s := by
  unfold genlockGoes; split <;> simp

@[simp] theorem outside_loseOutput (s : State) : outside (loseOutput s) = outside s := by simp [loseOutput]

@[simp] theorem outside_loseLineLock (s : State) : outside (loseLineLock s) = outside s := by simp [loseLineLock]

@[simp] theorem outside_leaveLocked (n : Nat) (r : Option Rate) (s : State) : outside (leaveLocked n r s) = outside s := by
  simp [leaveLocked]

@[simp] theorem outside_judgeLine (good : Bool) (s : State) : outside (judgeLine good s) = outside s := by
  unfold judgeLine
  extract_lets counts m n
  have hm : outside m = outside s := by simp [m]
  have hn : outside n = outside s := by simp [n]
  cases s.video.genlock
  case noSignal => rfl
  case lineSeek => dsimp only; split <;> simp [hm]
  all_goals dsimp only; split <;> simp [hn]

@[simp] theorem outside_seekField (r : Option Rate) (s : State) : outside (seekField r s) = outside s := by
  unfold seekField
  extract_lets m
  have hm : outside m = outside s := by
    apply outside_setVideo <;> cases r <;> dsimp only <;> split <;> rfl
  split
  · split <;> simp [hm]
  · simp

@[simp] theorem outside_lockedField (r : Option Rate) (s : State) : outside (lockedField r s) = outside s := by
  unfold lockedField
  split
  · split <;> simp
  · extract_lets m
    have hm : outside m = outside s := by simp [m]
    split <;> simp [hm]

/-- A field start moves the overlay's flash and displayed beat, and nothing that it was handed. -/
theorem enterField_handed (overlay : Bool) (v : Video) :
    (enterField overlay v).settings = v.settings
      ∧ { (enterField overlay v).content with displayed := none } = { v.content with displayed := none } := by
  unfold enterField takeSnapshot
  dsimp only
  split
  · split <;> exact ⟨rfl, rfl⟩
  · exact ⟨rfl, rfl⟩

@[simp] theorem outside_startField (ref : Nat) (s : State) : outside (startField ref s) = outside s := by
  obtain ⟨hs, hc⟩ := enterField_handed (!s.loading) (s.video.nextField ref)
  exact outside_setVideo _ s hs hc

@[simp] theorem outside_retimeField (ref : Nat) (s : State) : outside (retimeField ref s) = outside s := by
  refine outside_setVideo _ s ?_ ?_
  · exact (enterField_handed _ _).1
  · exact (enterField_handed _ _).2

@[simp] theorem outside_takeFieldStart (before : Genlock) (ref : Nat) (s : State) :
    outside (takeFieldStart before ref s) = outside s := by
  unfold takeFieldStart
  extract_lets ended rate awaited nominal m n
  have hm : outside m = outside s := by simp [m]
  have hn : outside n = outside s := by rw [← hm]; unfold n; split <;> simp
  rw [← hn]
  split
  · split
    · simp
    · split <;> simp
  · simp
  · rfl

@[simp] theorem outside_takeSync (ref : Nat) (b : Bool) (s : State) : outside (takeSync ref b s) = outside s := by
  unfold takeSync
  extract_lets before good m n
  have hm : outside m = outside s := by unfold m; cases before <;> simp
  have hn : outside n = outside s := by simp [n, hm]
  split <;> simp [hn]

@[simp] theorem outside_loseSync (s : State) : outside (loseSync s) = outside s := by simp [loseSync]

@[simp] theorem outside_generatorField (s : State) : outside (generatorField s) = outside s := by simp [generatorField]

@[simp] theorem outside_missField (s : State) : outside (missField s) = outside s := by simp [missField]

@[simp] theorem outside_videoStop (s : State) : outside (videoStop s) = outside s := by simp [videoStop]

@[simp] theorem outside_applyRateSetting (s : State) : outside (applyRateSetting s) = outside s := by
  unfold applyRateSetting
  split
  · split <;> simp
  · split <;> simp
  · rfl

end

end Sys2Proof.Proofs

namespace Sys2Proof.Proofs

open Sys2Proof Sys2Proof.Machine

/-! ## What the Station Controller leaves alone

Its operations write the stations and their condition, and in a rebuild the account, by which the stop state can change
between REBUILDING and READY. -/

structure RigsKeep (s u : State) : Prop where
  rest : { u with stations := s.stations, attention := s.attention, stop := s.stop, video := s.video } = s
  stop : { u.stop with st := s.stop.st, account := s.stop.account } = s.stop
  video : { u.video with content := { u.video.content with stopState := s.video.content.stopState } } = s.video
  stations : u.stations.length = s.stations.length
  conditions : u.attention.length = s.attention.length
  account : u.stop.account.length = s.stop.account.length
  rebuilds : u.stop.st.rebuilds = s.stop.st.rebuilds
  outside : s.stop.st.rebuilds = false → u.stop = s.stop ∧ u.video = s.video
  agree : s.video.content.stopState = s.stop.st → u.video.content.stopState = u.stop.st

namespace RigsKeep

theorem refl (s : State) : RigsKeep s s :=
  ⟨rfl, rfl, rfl, rfl, rfl, rfl, rfl, fun _ => ⟨rfl, rfl⟩, id⟩

theorem trans {s u v : State} (h : RigsKeep s u) (k : RigsKeep u v) : RigsKeep s v where
  rest := by have e := h.rest; rw [← k.rest] at e; exact e
  stop := by have e := h.stop; rw [← k.stop] at e; exact e
  video := by have e := h.video; rw [← k.video] at e; exact e
  stations := k.stations.trans h.stations
  conditions := k.conditions.trans h.conditions
  account := k.account.trans h.account
  rebuilds := k.rebuilds.trans h.rebuilds
  outside hr := by
    obtain ⟨a, b⟩ := h.outside hr
    obtain ⟨c, d⟩ := k.outside (h.rebuilds.trans hr)
    exact ⟨c.trans a, d.trans b⟩
  agree e := k.agree (h.agree e)

theorem ite {s a b : State} {c : Prop} [Decidable c] (ha : RigsKeep s a) (hb : RigsKeep s b) :
    RigsKeep s (if c then a else b) := by
  split
  · exact ha
  · exact hb

/-! ### The shared operations -/

theorem setStation (i : Fin 6) (f : Station → Station) (s : State) : RigsKeep s (s.setStation i f) :=
  ⟨rfl, rfl, rfl, by simp, rfl, rfl, rfl, fun _ => ⟨rfl, rfl⟩, id⟩

theorem raise (r : CondRecord) (s : State) : RigsKeep s (raise r s) :=
  ⟨rfl, rfl, rfl, rfl, by simp, rfl, rfl, fun _ => ⟨rfl, rfl⟩, id⟩

theorem evaluateReady (s : State) : RigsKeep s (evaluateReady s) := by
  unfold Machine.evaluateReady
  extract_lets blocked
  split
  case h_1 hst _ =>
    split
    · exact refl s
    · exact ⟨rfl, rfl, rfl, rfl, by simp, rfl, by simp [hst, StopSt.rebuilds],
        fun h => by simp [hst, StopSt.rebuilds] at h, fun _ => rfl⟩
  case h_2 hst =>
    split
    · exact ⟨rfl, rfl, rfl, rfl, rfl, rfl, by simp [hst, StopSt.rebuilds],
        fun h => by simp [hst, StopSt.rebuilds] at h, fun _ => rfl⟩
    · exact refl s
  · exact refl s

theorem setAccount (i : Fin 6) (f : Account → Account) (s : State) : RigsKeep s (setAccount i f s) := by
  unfold Machine.setAccount
  split
  case isTrue hr =>
    refine RigsKeep.trans ?_ (evaluateReady _)
    exact ⟨rfl, rfl, rfl, rfl, rfl, by simp, rfl, fun h => by simp [h] at hr, id⟩
  · exact refl s

theorem foldl {α : Type} {f : State → α → State} (h : ∀ s a, RigsKeep s (f s a)) (l : List α) (s : State) :
    RigsKeep s (l.foldl f s) := by
  induction l generalizing s with
  | nil => exact refl s
  | cons a l ih => exact (h s a).trans (ih _)

end RigsKeep

/-! ## What the operations on one station are made of -/

/-- A write of the station's record, a fault of the station, or a write of its entry in the account. -/
inductive RigStep (i : Fin 6) (s : State) : State → Prop
  | station (f : Station → Station) : RigStep i s (s.setStation i f)
  | fault (kind : FaultKind) : RigStep i s (raise (.stationFault i kind) s)
  | account (f : Account → Account) : RigStep i s (setAccount i f s)

/-- An operation on station `i` is made of such steps. -/
def Rigs (i : Fin 6) : State → State → Prop := Relation.ReflTransGen (RigStep i)

namespace Rigs

theorem refl {i : Fin 6} (s : State) : Rigs i s s := Relation.ReflTransGen.refl

theorem trans {i : Fin 6} {s u v : State} (h : Rigs i s u) (k : Rigs i u v) : Rigs i s v :=
  Relation.ReflTransGen.trans h k

theorem ite {i : Fin 6} {s a b : State} {c : Prop} [Decidable c] (ha : Rigs i s a) (hb : Rigs i s b) :
    Rigs i s (if c then a else b) := by
  split
  · exact ha
  · exact hb

theorem keep {i : Fin 6} {s u : State} (h : Rigs i s u) : RigsKeep s u := by
  induction h with
  | refl => exact .refl s
  | tail _ step ih =>
    cases step with
    | station f => exact ih.trans (.setStation i f _)
    | fault kind => exact ih.trans (.raise _ _)
    | account f => exact ih.trans (.setAccount i f _)

/-! ### The shared operations -/

theorem setStation (i : Fin 6) (f : Station → Station) (s : State) : Rigs i s (s.setStation i f) := .single (.station f)

theorem fault (i : Fin 6) (kind : FaultKind) (s : State) : Rigs i s (raise (.stationFault i kind) s) :=
  .single (.fault kind)

theorem setAccount (i : Fin 6) (f : Account → Account) (s : State) : Rigs i s (setAccount i f s) := .single (.account f)

theorem reportEnd (i : Fin 6) (b : Bool) (o : SwitchEnd) (s : State) : Rigs i s (reportEnd i b o s) := by
  unfold Machine.reportEnd reportSwitch
  split
  · exact setAccount i _ s
  · exact setAccount i _ s
  · exact refl s

/-! ### Faults, ends of switches and preloads -/

theorem stationFault (i : Fin 6) (kind : FaultKind) (cue : Option CueNo) (patch : Option Nat) (s : State) :
    Rigs i s (stationFault i kind cue patch s) := (setStation i _ s).trans (fault i kind _)

theorem protocolError (i : Fin 6) (s : State) : Rigs i s (protocolError i s) := setStation i _ s

theorem quickEnd (i : Fin 6) (l : LastSwitch) (b : Bool) (s : State) : Rigs i s (quickEnd i l b s) :=
  (setStation i _ s).trans (reportEnd i _ _ _)

theorem endSwitch (i : Fin 6) (o : SwitchEnd) (l : Option Nat) (s : State) : Rigs i s (endSwitch i o l s) := by
  unfold Machine.endSwitch
  split
  · exact refl s
  · exact (setStation i _ s).trans (reportEnd i _ _ _)

theorem missSwitch (i : Fin 6) (kind : FaultKind) (s : State) : Rigs i s (missSwitch i kind s) := by
  unfold Machine.missSwitch
  split
  · exact refl s
  · exact (endSwitch i _ _ s).trans (stationFault i kind _ _ _)

theorem deferPreload (i : Fin 6) (c : Option CueNo × Nat) (s : State) : Rigs i s (deferPreload i c s) :=
  ite (setStation i _ s) ((setStation i _ s).trans (stationFault i _ _ _ _))

theorem choosePreload (i : Fin 6) (s : State) : Rigs i s (choosePreload i s) := by
  unfold Machine.choosePreload
  extract_lets st
  split
  · exact setStation i _ s
  · refine ite (setStation i _ s) ?_
    split
    · exact setStation i _ s
    · exact deferPreload i _ s

theorem recompute (k : Bool) (i : Fin 6) (s : State) : Rigs i s (recompute k i s) := by
  refine ite (Rigs.trans ?_ (choosePreload i _)) (refl s)
  exact ite (refl s) (setStation i _ s)

/-! ### Switches -/

theorem becomeCold (i : Fin 6) (s : State) : Rigs i s (becomeCold i s) := setStation i _ s

theorem beginSwitch (i : Fin 6) (cue : Option CueNo) (p : Nat) (t : Option Nat) (b : Bool) (s : State) :
    Rigs i s (beginSwitch i cue p t b s) := setStation i _ s

theorem classifySwitch (i : Fin 6) (cue : Option CueNo) (target t : Option Nat) (b : Bool) (s : State) :
    Rigs i s (classifySwitch i cue target t b s) := by
  unfold Machine.classifySwitch
  split
  · exact quickEnd i _ b s
  · exact ite ((quickEnd i _ b s).trans (stationFault i _ _ _ _)) (ite (quickEnd i _ b s) (beginSwitch i _ _ _ b s))

theorem supersede (i : Fin 6) (s : State) : Rigs i s (supersede i s) :=
  (endSwitch i _ _ s).trans (setStation i _ _)

theorem takeOver (i : Fin 6) (cue : Option CueNo) (t : Option Nat) (b : Bool) (w : Switch) (s : State) :
    Rigs i s (takeOver i cue t b w s) :=
  (endSwitch i _ _ s).trans (setStation i _ _)

theorem startSwitch (i : Fin 6) (cue : Option CueNo) (target t : Option Nat) (b : Bool) (s : State) :
    Rigs i s (startSwitch i cue target t b s) := by
  refine ite ?_ (refl s)
  split
  · exact classifySwitch i cue target t b s
  · exact ite (takeOver i cue t b _ s) ((supersede i s).trans (classifySwitch i cue target t b _))

theorem confirmSwitch (i : Fin 6) (w : Switch) (s : State) : Rigs i s (confirmSwitch i w s) :=
  ite ((endSwitch i _ _ s).trans (stationFault i _ _ _ _)) (endSwitch i _ _ s)

/-! ### Answers and timeouts -/

theorem takeLoaded (i : Fin 6) (o : OutLoad) (s : State) : Rigs i s (takeLoaded i o s) := by
  unfold Machine.takeLoaded
  extract_lets st sl waits m
  refine Rigs.trans ?_ (recompute true i _)
  have hm : Rigs i s m := setStation i _ s
  exact ite (ite (hm.trans (becomeCold i m)) (hm.trans (setStation i _ m))) hm

theorem failLoad (i : Fin 6) (kind : FaultKind) (o : OutLoad) (s : State) : Rigs i s (failLoad i kind o s) := by
  unfold Machine.failLoad
  extract_lets waiting m n
  refine Rigs.trans ?_ (recompute true i _)
  have hm : Rigs i s m := setStation i _ s
  unfold n
  obtain _ | w := waiting
  · exact hm.trans (stationFault i kind _ _ m)
  · exact (hm.trans (endSwitch i _ _ m)).trans (stationFault i kind _ _ _)

theorem takeSelected (i : Fin 6) (k : Nat) (s : State) : Rigs i s (takeSelected i k s) := by
  unfold Machine.takeSelected
  extract_lets m n
  refine Rigs.trans ?_ (recompute true i _)
  have hm : Rigs i s m := setStation i _ s
  unfold n
  split
  · exact ite (hm.trans (confirmSwitch i _ m)) hm
  · exact hm

theorem failSelect (i : Fin 6) (k : Nat) (s : State) : Rigs i s (failSelect i k s) := by
  unfold Machine.failSelect
  extract_lets m n
  refine Rigs.trans ?_ (recompute true i _)
  have hm : Rigs i s m := setStation i _ s
  unfold n
  split
  · exact ite (hm.trans (missSwitch i _ m)) hm
  · exact hm

/-! ### Sending -/

theorem sendFrame (i : Fin 6) (f : TxFrame) (s : State) : Rigs i s (sendFrame i f s) := setStation i _ s

theorem sendLoad (i : Fin 6) (e : MapEntry) (cue : Option CueNo) (k v : Nat) (s : State) :
    Rigs i s (sendLoad i e cue k v s) := (setStation i _ s).trans (sendFrame i _ _)

theorem sendSelect (i : Fin 6) (k : Nat) (s : State) : Rigs i s (sendSelect i k s) :=
  (setStation i _ s).trans (sendFrame i _ _)

theorem sendCold (i : Fin 6) (p : Nat) (s : State) : Rigs i s (sendCold i p s) := by
  unfold Machine.sendCold
  extract_lets st
  split
  · exact ((setStation i _ s).trans (sendLoad i _ _ _ _ _)).trans (setStation i _ _)
  · exact (setStation i _ s).trans (missSwitch i _ _)

theorem sendPreload (i : Fin 6) (s : State) : Rigs i s (sendPreload i s) := by
  unfold Machine.sendPreload
  extract_lets st
  split
  · exact setStation i _ s
  · split
    · exact (setStation i _ s).trans (sendLoad i _ _ _ _ _)
    · exact deferPreload i _ s

theorem sendNext (i : Fin 6) (s : State) : Rigs i s (sendNext i s) := by
  unfold Machine.sendNext
  extract_lets st
  refine ite (refl s) (ite ((setStation i _ s).trans (sendFrame i _ _)) ?_)
  split
  · exact sendSelect i _ s
  · exact sendCold i _ s
  · exact ite (sendPreload i s) (ite ((setStation i _ s).trans (sendFrame i _ _)) (refl s))

theorem frameEnds (i : Fin 6) (s : State) : Rigs i s (frameEnds i s) := setStation i _ s

theorem queryComesDue (i : Fin 6) (s : State) : Rigs i s (queryComesDue i s) := setStation i _ s

/-! ### Link states, orders and notices -/

theorem stationOffline (i : Fin 6) (s : State) : Rigs i s (stationOffline i s) := by
  unfold Machine.stationOffline
  extract_lets st m n
  have hn : Rigs i s n := (setStation i _ s).trans (endSwitch i _ _ _)
  exact ite hn (hn.trans (stationFault i _ _ _ _))

theorem stationOnline (i : Fin 6) (n : Nat) (s : State) : Rigs i s (stationOnline i n s) :=
  (setStation i _ s).trans (missSwitch i _ _)

theorem resync (i : Fin 6) (s : State) : Rigs i s (resync i s) :=
  (startSwitch i _ _ _ _ s).trans (recompute false i _)

theorem excludeStation (i : Fin 6) (s : State) : Rigs i s (excludeStation i s) :=
  (setStation i _ s).trans (endSwitch i _ _ _)

theorem includeStation (i : Fin 6) (s : State) : Rigs i s (includeStation i s) := by
  unfold Machine.includeStation
  split
  · exact resync i s
  · exact setStation i _ s
  · exact refl s

theorem resetStation (i : Fin 6) (s : State) : Rigs i s (resetStation i s) :=
  (setStation i _ s).trans (endSwitch i _ _ _)

theorem stationMapChanged (i : Fin 6) (p : Nat) (d : Bool) (s : State) : Rigs i s (stationMapChanged i p d s) := by
  unfold Machine.stationMapChanged
  extract_lets m n
  refine Rigs.trans ?_ (recompute false i _)
  have hm : Rigs i s m := setStation i _ s
  unfold n
  split
  · exact hm
  · exact ite ((hm.trans (setStation i _ m)).trans (missSwitch i _ _)) (hm.trans (becomeCold i m))

theorem stationStop (i : Fin 6) (s : State) : Rigs i s (stationStop i s) :=
  ite ((setStation i _ s).trans (endSwitch i _ _ _)) (refl s)

theorem stationRestart (i : Fin 6) (s : State) : Rigs i s (stationRestart i s) :=
  (setStation i _ s).trans (endSwitch i _ _ _)

theorem takeAhead (set : List CueNo) (latch : Option CueNo) (i : Fin 6) (s : State) :
    Rigs i s (takeAhead set latch i s) := (setStation i _ s).trans (recompute false i _)

theorem greetPresent (i : Fin 6) (s : State) : Rigs i s (greetPresent i s) := setStation i _ s

theorem fireTarget (tracked : Bool) (c : Cue) (i : Fin 6) (s : State) : Rigs i s (fireTarget tracked c i s) := by
  refine ite (startSwitch i _ _ _ _ s) ?_
  split
  · exact startSwitch i _ _ _ _ s
  · exact refl s

theorem stationRebuild (n : CueNo) (i : Fin 6) (s : State) : Rigs i s (stationRebuild n i s) :=
  startSwitch i _ _ _ _ s

end Rigs

theorem RigsKeep.eachStation {f : Fin 6 → State → State} (h : ∀ i s, Rigs i s (f i s)) (s : State) :
    RigsKeep s (eachStation f s) := RigsKeep.foldl (fun s i => (h i s).keep) _ s

end Sys2Proof.Proofs

namespace Sys2Proof.Proofs

open Sys2Proof Sys2Proof.Machine

/-! ## What the running of the show leaves alone

The list, the map, the protection, every stored setting, the flash, the link, the desk, the time and the sizes: no operation of
the running show writes them, whatever blocks it reaches. -/

structure Keeps (s u : State) : Prop where
  pending : u.pending = s.pending
  powered : u.powered = s.powered
  loading : u.loading = s.loading
  now : u.now = s.now
  flash : u.flash = s.flash
  store : u.store = s.store
  map : u.map = s.map
  desk : u.desk = s.desk
  link : u.link = s.link
  lead : u.clock.lead = s.clock.lead
  follow : u.follower.settings = s.follower.settings
  video : u.video.settings = s.video.settings
  settings : u.seq.settings = s.seq.settings
  channels : s.channels.length = 16 → u.channels.map (·.settings) = s.channels.map (·.settings)
  stations : u.stations.length = s.stations.length
  conditions : u.attention.length = s.attention.length
  words : u.stop.words.length = s.stop.words.length
  account : s.stop.words.length = 6 → s.stop.account.length = 6 → u.stop.account.length = 6

namespace Keeps

theorem refl (s : State) : Keeps s s :=
  ⟨rfl, rfl, rfl, rfl, rfl, rfl, rfl, rfl, rfl, rfl, rfl, rfl, rfl, fun _ => rfl, rfl, rfl, rfl, fun _ => id⟩

theorem channels_length {s u : State} (h : Keeps s u) (hc : s.channels.length = 16) : u.channels.length = 16 := by
  have e := congrArg List.length (h.channels hc)
  simpa [hc] using e

theorem trans {s u v : State} (h : Keeps s u) (k : Keeps u v) : Keeps s v where
  pending := k.pending.trans h.pending
  powered := k.powered.trans h.powered
  loading := k.loading.trans h.loading
  now := k.now.trans h.now
  flash := k.flash.trans h.flash
  store := k.store.trans h.store
  map := k.map.trans h.map
  desk := k.desk.trans h.desk
  link := k.link.trans h.link
  lead := k.lead.trans h.lead
  follow := k.follow.trans h.follow
  video := k.video.trans h.video
  settings := k.settings.trans h.settings
  channels hc := (k.channels (h.channels_length hc)).trans (h.channels hc)
  stations := k.stations.trans h.stations
  conditions := k.conditions.trans h.conditions
  words := k.words.trans h.words
  account hw ha := k.account (h.words.trans hw) (h.account hw ha)

theorem ite {s a b : State} {c : Prop} [Decidable c] (ha : Keeps s a) (hb : Keeps s b) :
    Keeps s (if c then a else b) := by
  split
  · exact ha
  · exact hb

/-- The time-driven blocks. -/
theorem timed {s u : State} (h : outside u = outside s) : Keeps s u := by
  have r : ∀ {α : Type} (g : State → α), g (outside u).rest = g (outside s).rest := fun g => by rw [h]
  exact ⟨r (·.pending), r (·.powered), r (·.loading), r (·.now), r (·.flash), r (·.store), r (·.map), r (·.desk),
    r (·.link), congrArg Outside.lead h, congrArg Outside.follow h, congrArg Outside.video h, r (·.seq.settings),
    fun _ => congrArg Outside.channels h, r (·.stations.length), congrArg Outside.conditions h, r (·.stop.words.length),
    fun _ => (r (·.stop.account.length)).trans⟩

/-- The Station Controller. -/
theorem rigs {s u : State} (h : RigsKeep s u) : Keeps s u := by
  have r : ∀ {α : Type} (g : State → α), _ := fun g => congrArg g h.rest
  have v := congrArg Video.settings h.video
  exact ⟨r (·.pending), r (·.powered), r (·.loading), r (·.now), r (·.flash), r (·.store), r (·.map), r (·.desk),
    r (·.link), r (·.clock.lead), r (·.follower.settings), v, r (·.seq.settings),
    fun _ => r (·.channels.map (·.settings)), h.stations, h.conditions, congrArg (·.words.length) h.stop, fun _ => h.account.trans⟩

/-! ### Updates -/

theorem raise (r : CondRecord) (s : State) : Keeps s (raise r s) := timed (outside_raise r s)

theorem setSeq (f : Sequencer → Sequencer) (s : State) (h : (f s.seq).settings = s.seq.settings) :
    Keeps s (s.setSeq f) :=
  { refl s with settings := h }

theorem setStopCtl (f : StopController → StopController) (s : State)
    (hw : (f s.stop).words.length = s.stop.words.length)
    (ha : s.stop.words.length = 6 → s.stop.account.length = 6 → (f s.stop).account.length = 6) :
    Keeps s (s.setStopCtl f) :=
  { refl s with words := hw, account := ha }

theorem setClock (f : BeatClock → BeatClock) (s : State) (h : (f s.clock).lead = s.clock.lead) :
    Keeps s (s.setClock f) :=
  { refl s with lead := h }

theorem setStop (st : StopSt) (s : State) : Keeps s (setStop st s) := { refl s with }

theorem setWords (i : Fin 6) (f : StationWords → StationWords) (s : State) : Keeps s (setWords i f s) :=
  { refl s with words := by simp }

theorem setStation (i : Fin 6) (f : Station → Station) (s : State) : Keeps s (s.setStation i f) :=
  rigs (RigsKeep.setStation i f s)

theorem setAccount (i : Fin 6) (f : Account → Account) (s : State) : Keeps s (setAccount i f s) :=
  rigs (RigsKeep.setAccount i f s)

theorem evaluateReady (s : State) : Keeps s (evaluateReady s) := rigs (RigsKeep.evaluateReady s)

theorem setVideo (f : Video → Video) (s : State) (h : (f s.video).settings = s.video.settings) :
    Keeps s (s.setVideo f) :=
  { refl s with video := h }

/-- A write of the sixteen channels that leaves their settings alone. -/
theorem zipChannels (f : Fin 16 → Channel → Channel) (s : State) (h : ∀ i c, (f i c).settings = c.settings) :
    Keeps s { s with channels := List.zipWith f allChannels s.channels } := by
  refine { refl s with channels := fun hc => ?_ }
  have hl : ∀ (l : List (Fin 16)) (cs : List Channel), cs.length ≤ l.length →
      (List.zipWith f l cs).map (·.settings) = cs.map (·.settings) := by
    intro l
    induction l with
    | nil => intro cs hcs; simp [List.length_eq_zero_iff.mp (Nat.le_zero.mp hcs)]
    | cons i l ih =>
      intro cs hcs
      cases cs with
      | nil => rfl
      | cons c cs => simp [h, ih cs (by simpa using hcs)]
  exact hl allChannels s.channels (by simp [hc, allChannels])

/-! ### The Click Generator -/

theorem drainReport (s : State) : Keeps s (drainReport s) := by
  unfold Machine.drainReport
  split
  · exact ite (setStop _ s) (refl s)
  · exact refl s

theorem clickFire (c : Cue) (s : State) : Keeps s (clickFire c s) := by
  refine zipChannels _ s fun i c => ?_
  split <;> rfl

theorem clickTracked (n : CueNo) (s : State) : Keeps s (clickTracked n s) := zipChannels _ s fun _ _ => rfl

theorem setChannel (i : Fin 16) (f : Channel → Channel) (s : State) (h : ∀ c, (f c).settings = c.settings) :
    Keeps s (s.setChannel i f) := by
  refine { refl s with channels := fun _ => ?_ }
  simp only [State.setChannel_channels]
  apply List.ext_getElem?
  intro j
  simp only [List.getElem?_map, List.getElem?_modify]
  cases s.channels[j]? with
  | none => rfl
  | some c => by_cases hj : i.val = j <;> simp [hj, h]

theorem burstStarts (i : Fin 16) (s : State) : Keeps s (burstStarts i s) := by
  unfold Machine.burstStarts
  refine trans (setChannel i _ s ?_) (drainReport _)
  exact fun _ => rfl

theorem burstEnds (i : Fin 16) (s : State) : Keeps s (burstEnds i s) := setChannel i _ s fun _ => rfl

/-! ### The Cue Sequencer -/

theorem handOver (s : State) : Keeps s (handOver s) :=
  (setSeq _ s rfl).trans (rigs (RigsKeep.eachStation (Rigs.takeAhead _ _) _))

theorem videoStandby (n : Option CueNo) (s : State) : Keeps s (videoStandby n s) := setVideo _ s rfl

theorem videoFire (n : CueNo) (c : Option (List Byte)) (s : State) : Keeps s (videoFire n c s) := setVideo _ s rfl

theorem clearLatch (s : State) : Keeps s (clearLatch s) := by
  unfold Machine.clearLatch
  exact (setSeq _ s rfl).trans (videoStandby _ _)

theorem setLatch (n : CueNo) (s : State) : Keeps s (setLatch n s) :=
  by
  unfold Machine.setLatch
  exact ((setSeq _ s rfl).trans (videoStandby _ _)).trans (handOver _)

theorem withdrawLatch (s : State) : Keeps s (withdrawLatch s) := by
  unfold Machine.withdrawLatch
  split
  · exact (clearLatch s).trans (handOver _)
  · exact refl s

theorem takeJump (n : CueNo) (s : State) : Keeps s (takeJump n s) :=
  ((setSeq _ s rfl).trans (clearLatch _)).trans (handOver _)

theorem fireRigs (tracked : Bool) (c : Cue) (s : State) : Keeps s (fireRigs tracked c s) := by
  unfold Machine.fireRigs
  extract_lets m n
  have hm : Keeps s m := ite (clickTracked _ s) (clickFire c s)
  exact (hm.trans (videoFire _ _ m)).trans (rigs (RigsKeep.eachStation (Rigs.fireTarget tracked c) n))

theorem clockFire (cue : CueNo) (b : Option Nat) (r : Option TempoRecord) (v : Option VampBars) (s : State) :
    Keeps s (clockFire cue b r v s).1 := by
  unfold Machine.clockFire
  extract_lets m r n
  have hm : Keeps s m := setClock _ s rfl
  have hn : Keeps s n := hm.trans (timed (by simp only [n, r, outside_clockVamp, outside_clockTempo, outside_clockBarSet]))
  split
  · exact hn.trans (timed (outside_commitIfDue n))
  · exact hn

theorem fireCue (c : Cue) (src : FireSource) (s : State) : Keeps s (fireCue c src s).1 := by
  unfold Machine.fireCue
  extract_lets tracked m n p q
  have hm : Keeps s m := (setSeq _ s rfl).trans (clearLatch _)
  have hp : Keeps s p := ((hm.trans (fireRigs tracked c m)).trans (setSeq _ n rfl)).trans (handOver _)
  clear_value p
  have hq : Keeps s q := (hp.trans (setSeq _ p rfl)).trans (raise _ _)
  exact hq.trans (clockFire _ _ _ _ q)

theorem takeBeat (r : BeatRec) (s : State) : Keeps s (takeBeat r s) := by
  unfold Machine.takeBeat
  split
  · exact fireCue _ _ s
  · exact refl s

theorem fire (n : CueNo) (src : FireSource) (s : State) : Keeps s (fire n src s) := by
  unfold Machine.fire
  split
  · exact refl s
  · extract_lets r
    split
    · exact (fireCue _ src s).trans (takeBeat _ _)
    · exact fireCue _ src s

theorem sequencerListChanged (before : Option CueNo) (change : ListChange) (s : State) :
    Keeps s (sequencerListChanged before change s) := by
  unfold Machine.sequencerListChanged
  extract_lets m next n
  have hm : Keeps s m := setSeq _ s rfl
  exact (hm.trans (ite (setSeq _ m rfl) ((clearLatch m).trans (setSeq _ _ rfl)))).trans (handOver n)

theorem sequencerStop (s : State) : Keeps s (sequencerStop s) := (setSeq _ s rfl).trans (withdrawLatch _)

theorem sequencerRebuild (n : CueNo) (s : State) : Keeps s (sequencerRebuild n s) :=
  ((setSeq _ s rfl).trans (clearLatch _)).trans (handOver _)

theorem sequencerRestart (s : State) : Keeps s (sequencerRestart s) := (setSeq _ s rfl).trans (handOver _)

theorem timerExpires (s : State) : Keeps s (timerExpires s) := by
  unfold Machine.timerExpires
  split
  · refine ite ((setSeq _ s rfl).trans (fire _ _ _)) ?_
    split
    · exact setSeq _ s rfl
    · exact setSeq _ s rfl
    · exact refl s
  · exact refl s

/-! ### The Stop Controller -/

theorem enterRun (s : State) : Keeps s (enterRun s) := by
  unfold Machine.enterRun
  extract_lets m
  have hm : Keeps s m := setStop _ s
  split
  · exact (hm.trans (setSeq _ m rfl)).trans (fire _ _ _)
  · exact hm

theorem completeHold (p : HeldPosition) (s : State) : Keeps s (completeHold p s) :=
  (setStopCtl _ s rfl fun _ => id).trans (setStop _ _)

theorem countInEnds (s : State) : Keeps s (countInEnds s) := by
  unfold Machine.countInEnds
  split
  · exact enterRun s
  · exact refl s

theorem afterCommit (r : State × Committed) : Keeps r.1 (afterCommit r) := by
  unfold Machine.afterCommit
  extract_lets m n
  have hm : Keeps r.1 m := by
    unfold m
    split
    · exact completeHold _ r.1
    · exact refl r.1
  have hn : Keeps r.1 n := hm.trans (ite (countInEnds m) (refl m))
  split
  · exact hn.trans (takeBeat _ n)
  · exact hn

theorem cancelClicks (s : State) : Keeps s (cancelClicks s) := timed (outside_cancelClicks s)

theorem holdByClock (s : State) : Keeps s (holdByClock s) := by
  unfold Machine.holdByClock
  split
  · exact (timed (outside_armHold s)).trans (setStop _ _)
  · exact (timed (outside_freezeCountIn s)).trans (completeHold _ _)
  · exact ((cancelClicks s).trans (setStopCtl _ _ rfl fun _ => id)).trans (setStop _ _)
  · exact ((cancelClicks s).trans (setStopCtl _ _ rfl fun _ => id)).trans (setStop _ _)

theorem takeHold (s : State) : Keeps s (takeHold s).1 := by
  unfold Machine.takeHold
  split
  · exact holdByClock s
  · exact holdByClock s
  all_goals exact refl s

theorem holdCountIn (s : State) : Keeps s (holdCountIn s) := by
  unfold Machine.holdCountIn
  extract_lets bars bar r
  refine ite ?_ ?_
  · exact ((timed (outside_holdStart bar bars s)).trans (enterRun r.1)).trans (afterCommit (Machine.enterRun r.1, r.2))
  · exact ((setStop _ s).trans (timed (outside_holdStart bar bars _))).trans (afterCommit _)

theorem resumeCountIn (s : State) : Keeps s (resumeCountIn s) := by
  unfold Machine.resumeCountIn
  extract_lets bars bar m r
  have hm : Keeps s m := setStopCtl _ s rfl (by simp)
  refine hm.trans (ite ?_ ?_)
  · exact ((timed (outside_resumeStart bar bars m)).trans (enterRun r.1)).trans (afterCommit (Machine.enterRun r.1, r.2))
  · exact ((setStop _ m).trans (timed (outside_resumeStart bar bars _))).trans (afterCommit _)

theorem goInRun (src : FireSource) (s : State) : Keeps s (goInRun src s).1 := by
  unfold Machine.goInRun
  split
  · exact refl s
  · split
    · exact refl s
    · exact fire _ src s

theorem takeGo (src : FireSource) (s : State) : Keeps s (takeGo src s).1 := by
  unfold Machine.takeGo
  split
  · exact goInRun src s
  · split
    · exact (timed (outside_cancelHold s)).trans (enterRun _)
    · exact holdCountIn s
  · exact holdCountIn s
  · exact holdCountIn s
  · split
    · exact refl s
    · exact resumeCountIn s
  all_goals exact refl s

theorem stationsStop (s : State) : Keeps s (eachStation stationStop s) :=
  rigs (RigsKeep.eachStation Rigs.stationStop s)

theorem stopOrders (src : Source) (s : State) : Keeps s (stopOrders src s) := by
  unfold Machine.stopOrders
  extract_lets m n
  have hm : Keeps s m := (setStop _ s).trans (timed (outside_videoStop _))
  have hn : Keeps s n :=
    (((hm.trans (timed (outside_clockStop m))).trans (cancelClicks _)).trans (stationsStop _)).trans (sequencerStop _)
  exact hn.trans (raise _ n)

theorem takeStop (src : Source) (s : State) : Keeps s (takeStop src s) := by
  have first := (setStopCtl (fun c =>
    { c with held := none, source := some src, position := some (stopPositionOf s.clock.position), resume := none }) s
    rfl fun _ => id).trans (stopOrders src _)
  have second := (setStopCtl (fun c =>
    { c with source := some src, resume := none, account := c.account.map fun _ => .notCounted }) s rfl (by simp)).trans
    (stopOrders src _)
  unfold Machine.takeStop
  split
  case h_5 => exact (stationsStop s).trans (sequencerStop _)
  case h_6 | h_7 => exact second
  all_goals exact first

end Keeps

end Sys2Proof.Proofs

namespace Sys2Proof.Proofs

open Sys2Proof Sys2Proof.Machine

namespace Keeps

/-! ### Rebuilds and the words of the stations -/

theorem clockRebuild (n : CueNo) (r : Option TempoRecord) (s : State) : Keeps s (clockRebuild n r s) :=
  setClock _ s rfl

theorem freshRebuild (s : State) : Keeps s (freshRebuild s) := by
  unfold Machine.freshRebuild
  split
  · exact refl s
  · extract_lets n m p q
    have hm : Keeps s m := by
      refine (setStopCtl _ s ?_ fun h _ => ?_).trans (setStop _ _)
      · rfl
      · simpa using h
    have hp : Keeps s p := hm.trans (clockRebuild _ _ m)
    have hq : Keeps s q := (hp.trans (clickTracked n p)).trans (videoFire _ _ _)
    exact ((hq.trans (rigs (RigsKeep.eachStation (Rigs.stationRebuild n) q))).trans (sequencerRebuild n _)).trans
      (evaluateReady _)

theorem rebuildAgain (s : State) : Keeps s (rebuildAgain s) := ite (freshRebuild s) (refl s)

theorem takeResumePoint (bar : Option Nat) (c : Cue) (s : State) : Keeps s (takeResumePoint bar c s) := by
  unfold Machine.takeResumePoint
  exact (setStopCtl _ s rfl fun _ => id).trans (freshRebuild _)

theorem wordOnline (i : Fin 6) (s : State) : Keeps s (wordOnline i s) :=
  (setWords i _ s).trans (ite (refl _) (rebuildAgain _))

theorem wordOffline (i : Fin 6) (s : State) : Keeps s (wordOffline i s) := (setWords i _ s).trans (setAccount i _ _)

theorem wordExcluded (i : Fin 6) (s : State) : Keeps s (wordExcluded i s) := (setWords i _ s).trans (setAccount i _ _)

theorem wordIncluded (i : Fin 6) (s : State) : Keeps s (wordIncluded i s) :=
  (setWords i _ s).trans (ite (setAccount i _ _) (refl _))

theorem takeDeparture (i : Fin 6) (s : State) : Keeps s (takeDeparture i s) :=
  (rigs (Rigs.stationOffline i s).keep).trans (wordOffline i _)

theorem protocolError (i : Fin 6) (s : State) : Keeps s (protocolError i s) := rigs (Rigs.protocolError i s).keep

theorem takeHello (i : Fin 6) (n : Nat) (s : State) : Keeps s (takeHello i n s) := by
  refine ite (protocolError i s) ?_
  extract_lets m p
  have hm : Keeps s m := (rigs (Rigs.stationOnline i n s).keep).trans (wordOnline i _)
  have hp : Keeps s p := hm.trans (setStation i _ m)
  exact ite hp (hp.trans (rigs (Rigs.resync i p).keep))

theorem changeExcluded (i : Fin 6) (e : Bool) (s : State) : Keeps s (changeExcluded i e s) := by
  refine ite (refl s) (ite ?_ ?_)
  · exact (rigs (Rigs.excludeStation i s).keep).trans (wordExcluded i _)
  · exact ((setStation i _ s).trans (wordIncluded i _)).trans (rigs (Rigs.includeStation i _).keep)

theorem mapChanged (i : Fin 6) (p : Nat) (d : Bool) (s : State) : Keeps s (mapChanged i p d s) :=
  (rigs (Rigs.stationMapChanged i p d s).keep).trans (rebuildAgain _)

theorem listChanged (before : Option CueNo) (change : ListChange) (s : State) : Keeps s (listChanged before change s) :=
  (sequencerListChanged before change s).trans (rebuildAgain _)

/-! ### RESTART SHOW -/

theorem stopRestart (s : State) : Keeps s (stopRestart s) := by
  unfold Machine.stopRestart
  exact (setStopCtl _ s rfl fun _ _ => rfl).trans (setStop _ _)

theorem clockRestart (s : State) : Keeps s (clockRestart s) := { refl s with }

theorem restartChannels (s : State) : Keeps s { s with channels := s.channels.map restartChannel } :=
  { refl s with channels := fun _ => by simp [restartChannel, Function.comp_def] }

theorem videoRestart (s : State) : Keeps s (videoRestart s) := setVideo _ s rfl

theorem attentionRestart (s : State) : Keeps s (attentionRestart s) :=
  { refl s with conditions := by simp [Machine.attentionRestart] }

theorem restartShow (s : State) : Keeps s (restartShow s) := by
  unfold Machine.restartShow
  extract_lets m n
  have hm : Keeps s m := (stopRestart s).trans (clockRestart _)
  have hn : Keeps s n := (hm.trans (restartChannels m)).trans (videoRestart _)
  clear_value n
  exact ((hn.trans (rigs (RigsKeep.eachStation Rigs.stationRestart n))).trans (sequencerRestart _)).trans
    (attentionRestart _)

/-! ### Receivers of the Station Links -/

theorem answerLoad (k : Nat) {f : OutLoad → State → State} (hf : ∀ o s, Keeps s (f o s)) (i : Fin 6) (s : State) :
    Keeps s (answerLoad k f i s) := by
  unfold Machine.answerLoad
  split
  · exact ite (hf _ s) (protocolError i s)
  · exact protocolError i s

theorem answerSelect (k : Nat) (i : Fin 6) (s : State) : Keeps s (answerSelect k i s) := by
  unfold Machine.answerSelect
  split
  · exact ite (rigs (Rigs.takeSelected i k s).keep) (protocolError i s)
  · exact protocolError i s

theorem takeRigFrame (i : Fin 6) (f : RigFrame) (s : State) : Keeps s (takeRigFrame i f s) := by
  cases f with
  | hello n => exact takeHello i n s
  | loaded k => exact answerLoad k (fun o s => rigs (Rigs.takeLoaded i o s).keep) i s
  | loadFailed k => exact answerLoad k (fun o s => rigs (Rigs.failLoad i _ o s).keep) i s
  | selected k => exact answerSelect k i s

theorem takeRigEvent (i : Fin 6) (s : State) (e : RigEvent) : Keeps s (takeRigEvent i s e) := by
  cases e with
  | complete f => exact takeRigFrame i f s
  | failed => exact protocolError i s

theorem foldl {α : Type} {f : State → α → State} (h : ∀ s a, Keeps s (f s a)) (l : List α) (s : State) :
    Keeps s (l.foldl f s) := by
  induction l generalizing s with
  | nil => exact refl s
  | cons a l ih => exact (h s a).trans (ih _)

theorem receiverComes (i : Fin 6) (r : Option (List Byte) × List RigEvent) (s : State) :
    Keeps s (receiverComes i r s) :=
  (setStation i _ s).trans (foldl (takeRigEvent i) r.2 _)

theorem passGap (i : Fin 6) (n : Nat) (s : State) : Keeps s (passGap i n s) := by
  unfold Machine.passGap
  split
  · exact ite (receiverComes i _ s) (refl s)
  · exact refl s

theorem frameComes (i : Fin 6) (f : RigFrame) (s : State) : Keeps s (frameComes i f s) :=
  (passGap i 4 s).trans (receiverComes i _ _)

theorem bytesCome (input : RigBytes) (s : State) : Keeps s (bytesCome input s) := by
  unfold Machine.bytesCome
  split
  · exact passGap _ 0 s
  · exact (passGap _ _ s).trans (receiverComes _ _ _)

theorem loadTimesOut (i : Fin 6) (s : State) : Keeps s (loadTimesOut i s) := by
  unfold Machine.loadTimesOut
  split
  · exact rigs (Rigs.failLoad i _ _ s).keep
  · exact refl s

theorem selectTimesOut (i : Fin 6) (s : State) : Keeps s (selectTimesOut i s) := by
  unfold Machine.selectTimesOut
  split
  · exact rigs (Rigs.failSelect i _ s).keep
  · exact refl s

theorem presentRises (i : Fin 6) (s : State) : Keeps s (presentRises i s) :=
  ite (refl s) (ite (setStation i _ s) (setStation i _ s))

theorem presentFalls (i : Fin 6) (s : State) : Keeps s (presentFalls i s) := ite (takeDeparture i s) (refl s)

theorem presentChange (held : Nat) {f : State → State} (h : ∀ s, Keeps s (f s)) (s : State) :
    Keeps s (presentChange held f s) := ite (h s) (refl s)

theorem unlessLoading {f : State → State} (h : ∀ s, Keeps s (f s)) (s : State) : Keeps s (unlessLoading f s) :=
  ite (refl s) (h s)

end Keeps

end Sys2Proof.Proofs

namespace Sys2Proof.Proofs

open Sys2Proof Sys2Proof.Machine

/-! ## Every command as an effect at a show time -/

/-- The show time at which a command of a part with power takes place: that of an outside event, or the due time of a step that
the part takes by itself; none where that step does not come. -/
def dueTime : Instr → State → Option Nat
  | .powerOn _ _, s | .powerLost _, s => some s.now
  | .gapTimeout, s => gapDue s
  | .replySent, s => replyDue s
  | .storeTimeout, s => storeDue s
  | .beatCommit, s => commitDue s
  | .windowClose, s => windowCloseDue s
  | .followTimerExpiry, s => timerDue s
  | .burstStart i, s => burstStartDue i s
  | .burstEnd i, s => burstEndDue i s
  | .syncLossTimeout, s => syncLossDue s
  | .generatorFieldStart, s => generatorDue s
  | .missedInputField, s => missedFieldDue s
  | .queryRepeat i, s => queryRepeatDue i s
  | .loadTimeout i, s => loadDue i s
  | .selectTimeout i, s => selectDue i s
  | .stationFrameSent i, s => frameEndDue i s
  | .imageLoadEnd t _, _ | .requestFrameReceived t _ _ _, _ | .breakDeclared t, _ | .requestTaken t, _ | .identify t, _
  | .restartShow t, _ | .cuePut t _, _ | .cueDelete t _, _ | .cueGet t _ _, _ | .cueList t _ _ _, _ | .mapPut t _ _ _ _ _, _
  | .mapDelete t _ _, _ | .mapGet t _ _, _ | .protectSet t _ _ _ _, _ | .protectGet t, _ | .store t, _ | .flashEraseDone t, _
  | .flashProgramDone t, _ | .flashVerifyDone t _, _ | .flashMarkDone t _, _ | .flashError t, _ | .standby t, _
  | .cancelStandby t, _ | .go t, _ | .jump t _, _ | .hold t, _ | .stop t, _ | .resumePoint t _ _, _ | .vampRelease t, _
  | .showSet t _, _ | .showGet t, _ | .followSet t _, _ | .followGet t, _ | .clockSet t _, _ | .positionGet t, _
  | .channelSet t _ _, _ | .channelGet t _, _ | .videoSet t _, _ | .videoGet t, _ | .stationSet t _ _, _ | .stationGet t _, _
  | .stationPin t _ _, _ | .stationUnpin t _ _, _ | .stationFlush t _, _ | .stationReset t _, _ | .faultGet t _, _
  | .faultClear t _, _ | .attentionQuery t _, _ | .attentionPeek t, _ | .attentionEnable t _, _ | .deskStbyEdge t _, _
  | .deskGoEdge t _, _ | .deskHoldEdge t _, _ | .deskStopEdge t _, _ | .deskLineRelease t _ _, _ | .keyLevelChange t _ _, _
  | .beatPulse t _, _ | .lineSync t _ _, _ | .presentAsserted t _ _, _ | .presentDeasserted t _ _, _ | .hello t _ _, _
  | .loaded t _ _, _ | .loadFailed t _ _, _ | .selected t _ _, _ | .stationFrameBad t _, _ | .stationFrameGap t _, _
  | .stationSend t _, _ | .receivedByte t _, _ | .lineReturnedToMark t, _ => some t

/-- What a command that is no request does at its show time. -/
def eventEffect : Instr → State → State
  | .powerOn a b => powerOn a b
  | .powerLost m => losePower m
  | .imageLoadEnd _ a => endLoad a
  | .requestFrameReceived _ tag kind p => receiveFrame { tag := tag, kind := kind, payload := p }
  | .gapTimeout => gapExpires
  | .breakDeclared _ => declareBreak
  | .requestTaken _ => takeOldest
  | .replySent => replyEnds
  | .flashEraseDone _ => eraseDone
  | .flashProgramDone _ => programDone
  | .flashVerifyDone _ b => verifyDone b
  | .flashMarkDone _ b => markDone b
  | .flashError _ => flashFails
  | .storeTimeout => endStore false
  | .deskStbyEdge _ h => deskEdge .stby h deskStandby
  | .deskGoEdge _ h => deskEdge .go h deskGo
  | .deskHoldEdge _ h => deskEdge .hold h fun s => (takeHold s).1
  | .deskStopEdge _ h => deskEdge .stop h (takeStop .desk)
  | .deskLineRelease _ l h => fun s => if s.hasHeld Config.deskDebounce h then s.setDesk (Desk.take false l) else s
  | .keyLevelChange _ a h => fun s =>
    if s.hasHeld Config.deskDebounce h then { s with desk := { s.desk with key := a } } else s
  | .beatPulse _ q => fun s => if s.hasHeld Config.beatDebounce q then afterCommit (takePulse s) else s
  | .beatCommit => fun s => afterCommit (commitScheduled s)
  | .windowClose => closeWindow
  | .followTimerExpiry => timerExpires
  | .burstStart i => burstStarts i
  | .burstEnd i => burstEnds i
  | .lineSync t sub b => unlessLoading (takeSync (t * Config.refPerMicro + sub) b)
  | .syncLossTimeout => loseSync
  | .generatorFieldStart => generatorField
  | .missedInputField => missField
  | .presentAsserted _ i h => presentChange h (presentRises i)
  | .presentDeasserted _ i h => presentChange h (presentFalls i)
  | .queryRepeat i => queryComesDue i
  | .hello _ i n => unlessLoading (frameComes i (.hello n))
  | .loaded _ i k => unlessLoading (frameComes i (.loaded k))
  | .loadFailed _ i k => unlessLoading (frameComes i (.loadFailed k))
  | .selected _ i k => unlessLoading (frameComes i (.selected k))
  | .stationFrameBad _ x => unlessLoading (bytesCome x)
  | .stationFrameGap _ x => unlessLoading fun s => gapComes x.station (bytesCome x s)
  | .loadTimeout i => loadTimesOut i
  | .selectTimeout i => selectTimesOut i
  | .stationSend _ i => unlessLoading (sendNext i)
  | .stationFrameSent i => frameEnds i
  | .receivedByte _ b => receiveByte b
  | .lineReturnedToMark _ => endBreak
  | _ => id

/-- What a command does at its show time. -/
def effect (c : Instr) (s : State) : State :=
  match requestOf c with
  | some r => keepReply (takeRequest r.1 r.2 s)
  | none => eventEffect c s

/-- The state a command leaves of a part with power. -/
def taken (c : Instr) (s : State) : State :=
  match dueTime c s with
  | some d => effect c (s.goTo d)
  | none => s

@[simp] theorem goTo_now_self (s : State) : s.goTo s.now = s := goTo_of_le le_rfl

theorem exec_powerOn (a b : Bool) (s : State) : exec (.powerOn a b) s = .next (powerOn a b s) := rfl

/-- Every command but POWER_ON waits for power, and then takes effect at its show time. -/
theorem exec_eq (c : Instr) (s : State) (hc : ∀ a b, c ≠ .powerOn a b) :
    exec c s = .next (if s.powered then taken c s else s) := by
  cases c
  case powerOn a b => exact absurd rfl (hc a b)
  case powerLost m =>
    change Host.Outcome.next (if s.powered then losePower m s else s) = .next (if s.powered then losePower m (s.goTo s.now) else s)
    rw [goTo_now_self]
  all_goals rfl

theorem exec_next (c : Instr) (s : State) : ∃ u, exec c s = .next u := by
  by_cases hc : ∀ a b, c ≠ .powerOn a b
  · exact ⟨_, exec_eq c s hc⟩
  · push Not at hc
    obtain ⟨a, b, rfl⟩ := hc
    exact ⟨_, rfl⟩

end Sys2Proof.Proofs

namespace Sys2Proof.Proofs

open Sys2Proof Sys2Proof.Machine

/-! ## What every command but an edit leaves alone -/

/-- What the framer of the Show Link can hold: an unfinished frame (R175). -/
def Unfinished (got : Option (List Byte)) : Prop := ∀ g, got = some g → g.length < Config.maxPayload + 6

/-- A complete frame that the framer comes to has at most 240 payload bytes (R175). -/
def FrameEvent.Fits : FrameEvent → Prop
  | .complete f => f.payload.length ≤ Config.maxPayload
  | .crcDiscard | .lengthDiscard => True

theorem unfinished_none : Unfinished none := by simp [Unfinished]

theorem frameStep_sound (g : List Byte) : (∀ got, frameStep g = .goes got → Unfinished got)
    ∧ ∀ e again, frameStep g = .comes e again → FrameEvent.Fits e := by
  unfold frameStep
  extract_lets len
  split_ifs with h₁ h₂ h₃ h₄
  · refine ⟨fun got h k hk => ?_, by simp⟩
    cases h; cases hk
    simp only [Config.maxPayload]
    omega
  · refine ⟨by simp, fun e again h => ?_⟩
    cases h; trivial
  · refine ⟨fun got h k hk => ?_, by simp⟩
    cases h; cases hk
    omega
  · refine ⟨by simp, fun e again h => ?_⟩
    cases h
    have := List.length_take_le len (g.drop 4)
    simp only [FrameEvent.Fits]
    omega
  · refine ⟨by simp, fun e again h => ?_⟩
    cases h; trivial

theorem takeOne_sound (got : Option (List Byte)) (b : Byte) : (∀ g, takeOne got b = .goes g → Unfinished g)
    ∧ ∀ e again, takeOne got b = .comes e again → FrameEvent.Fits e := by
  cases got with
  | none =>
    refine ⟨fun g h => ?_, by simp [takeOne]⟩
    cases h
    split
    · intro k hk; cases hk; decide
    · exact unfinished_none
  | some g => exact frameStep_sound (g ++ [b])

theorem feed_sound (fuel : Nat) (got : Option (List Byte)) (bs : List Byte) :
    (Unfinished got → Unfinished (feed takeOne fuel got bs).1)
      ∧ ∀ e ∈ (feed takeOne fuel got bs).2, FrameEvent.Fits e := by
  induction fuel generalizing got bs with
  | zero => simp [feed]
  | succ fuel ih =>
    cases bs with
    | nil => simp [feed]
    | cons b bs =>
      obtain ⟨hgo, hco⟩ := takeOne_sound got b
      unfold feed
      split
      case h_1 g h =>
        obtain ⟨h₁, h₂⟩ := ih g bs
        exact ⟨fun _ => h₁ (hgo g h), h₂⟩
      case h_2 e again h =>
        obtain ⟨h₁, h₂⟩ := ih none (again ++ bs)
        refine ⟨fun _ => h₁ unfinished_none, fun x hx => ?_⟩
        rcases List.mem_cons.mp hx with rfl | hx
        · exact hco _ _ h
        · exact h₂ x hx

/-- The show data and settings stay, time does not go back, the part keeps as many records of each kind, and the Show Link
stays within its limits. -/
structure KeepsShow (s u : State) : Prop where
  loading : u.loading = s.loading
  now : s.now ≤ u.now
  cues : u.store.cues = s.store.cues
  cueCount : u.store.cueCount = s.store.cueCount
  poolUsed : u.store.poolUsed = s.store.poolUsed
  protect : u.store.protect = s.store.protect
  map : u.map = s.map
  lead : u.clock.lead = s.clock.lead
  follow : u.follower.settings = s.follower.settings
  video : u.video.settings = s.video.settings
  settings : u.seq.settings = s.seq.settings
  channels : s.channels.length = 16 → u.channels.map (·.settings) = s.channels.map (·.settings)
  stations : u.stations.length = s.stations.length
  conditions : u.attention.length = s.attention.length
  words : u.stop.words.length = s.stop.words.length
  account : s.stop.words.length = 6 → s.stop.account.length = 6 → u.stop.account.length = 6
  link : s.LinkSound → u.LinkSound

theorem Keeps.show {s u : State} (h : Keeps s u) : KeepsShow s u :=
  ⟨h.loading, h.now.ge, by rw [h.store], by rw [h.store], by rw [h.store], by rw [h.store], h.map, h.lead, h.follow, h.video,
    h.settings, h.channels, h.stations, h.conditions, h.words, h.account, fun k => by simpa [State.LinkSound, h.link] using k⟩

namespace KeepsShow

theorem refl (s : State) : KeepsShow s s := (Keeps.refl s).show

theorem channels_length {s u : State} (h : KeepsShow s u) (hc : s.channels.length = 16) : u.channels.length = 16 := by
  have e := congrArg List.length (h.channels hc)
  simpa [hc] using e

theorem trans {s u v : State} (h : KeepsShow s u) (k : KeepsShow u v) : KeepsShow s v where
  loading := k.loading.trans h.loading
  now := h.now.trans k.now
  cues := k.cues.trans h.cues
  cueCount := k.cueCount.trans h.cueCount
  poolUsed := k.poolUsed.trans h.poolUsed
  protect := k.protect.trans h.protect
  map := k.map.trans h.map
  lead := k.lead.trans h.lead
  follow := k.follow.trans h.follow
  video := k.video.trans h.video
  settings := k.settings.trans h.settings
  channels hc := (k.channels (h.channels_length hc)).trans (h.channels hc)
  stations := k.stations.trans h.stations
  conditions := k.conditions.trans h.conditions
  words := k.words.trans h.words
  account hw ha := k.account (h.words.trans hw) (h.account hw ha)
  link hl := k.link (h.link hl)

theorem ite {s a b : State} {c : Prop} [Decidable c] (ha : KeepsShow s a) (hb : KeepsShow s b) :
    KeepsShow s (if c then a else b) := by
  split
  · exact ha
  · exact hb

theorem goTo (t : Nat) (s : State) : KeepsShow s (s.goTo t) := { refl s with now := le_max_left _ _ }

theorem setLink (f : Link → Link) (s : State) (h : s.LinkSound → (s.setLink f).LinkSound) : KeepsShow s (s.setLink f) :=
  { refl s with link := h }

theorem setDesk (f : Desk → Desk) (s : State) : KeepsShow s (s.setDesk f) := { refl s with }

theorem keepReply (r : State × Answer) : KeepsShow r.1 (keepReply r) := { refl r.1 with }

theorem raise (r : CondRecord) (s : State) : KeepsShow s (raise r s) := (Keeps.raise r s).show

/-! ### The Show Link and the flash -/

theorem linkError (c : LinkCount) (s : State) : KeepsShow s (linkError c s) :=
  (setLink _ s fun h => by cases c <;> exact h).trans (raise _ _)

theorem arrive (f : Frame) (s : State) (hf : f.payload.length ≤ Config.maxPayload) : KeepsShow s (arrive f s) := by
  unfold Machine.arrive
  split
  case isTrue hq =>
    refine setLink _ s fun ⟨_, hp, hg⟩ => ⟨?_, ?_, hg⟩
    · simpa using Nat.succ_le_of_lt hq
    · simpa [or_imp, forall_and, hf] using hp
  · exact linkError _ s

theorem takeFrameEvent (s : State) {e : FrameEvent} (he : FrameEvent.Fits e) : KeepsShow s (takeFrameEvent s e) := by
  cases e with
  | complete f => exact arrive f s he
  | crcDiscard => exact linkError _ s
  | lengthDiscard => exact linkError _ s

theorem takeFrameEvents (l : List FrameEvent) (s : State) (hl : ∀ e ∈ l, FrameEvent.Fits e) :
    KeepsShow s (l.foldl Machine.takeFrameEvent s) := by
  induction l generalizing s with
  | nil => exact refl s
  | cons e l ih =>
    exact (takeFrameEvent s (hl e List.mem_cons_self)).trans (ih _ fun x hx => hl x (List.mem_cons_of_mem e hx))

theorem receiveByte (b : Byte) (s : State) : KeepsShow s (receiveByte b s) := by
  unfold Machine.receiveByte
  split
  · exact refl s
  · extract_lets r
    obtain ⟨hgot, hev⟩ := feed_sound (feedFuel ((s.link.got.map List.length).getD 0 + 1)) s.link.got [b]
    refine trans (setLink _ s ?_) (takeFrameEvents r.2 _ hev)
    exact fun ⟨hq, hp, hg⟩ => ⟨hq, hp, hgot hg⟩

theorem receiveFrame (f : Frame) (s : State) : KeepsShow s (receiveFrame f s) := by
  unfold Machine.receiveFrame
  split
  · exact refl s
  · extract_lets m
    have hm : KeepsShow s m := by
      refine setLink _ s ?_
      exact fun ⟨hq, hp, _⟩ => ⟨hq, hp, by simp⟩
    split
    case isTrue hf => exact hm.trans (arrive f m hf)
    · exact hm.trans (linkError _ m)

theorem gapExpires (s : State) : KeepsShow s (gapExpires s) := by
  unfold Machine.gapExpires
  refine trans (setLink _ s ?_) (linkError _ _)
  exact fun ⟨hq, hp, _⟩ => ⟨hq, hp, by simp⟩

theorem declareBreak (s : State) : KeepsShow s (declareBreak s) := by
  unfold Machine.declareBreak
  refine ite (refl s) (trans (setLink _ s ?_) (linkError _ _))
  exact fun _ => ⟨by simp, by simp, by simp⟩

theorem replyEnds (s : State) : KeepsShow s (replyEnds s) := setLink _ s id

theorem endBreak (s : State) : KeepsShow s (endBreak s) := setLink _ s id

theorem giveReply (b : List Byte) (s : State) : KeepsShow s (giveReply b s) := by
  refine setLink _ s fun h => ?_
  simp only [State.LinkSound, State.setLink_link] at h ⊢
  split <;> exact h

theorem goStage (st : StoreStage) (s : State) : KeepsShow s (goStage st s) := { refl s with }

theorem setFlash (f : FlashArea) (s : State) : KeepsShow s { s with flash := f } := { refl s with }

theorem setStore (f : CueStore → CueStore) (s : State) (hc : (f s.store).cues = s.store.cues)
    (hn : (f s.store).cueCount = s.store.cueCount) (hp : (f s.store).poolUsed = s.store.poolUsed)
    (ht : (f s.store).protect = s.store.protect) : KeepsShow s (s.setStore f) :=
  { refl s with cues := hc, cueCount := hn, poolUsed := hp, protect := ht }

theorem endStore (ok : Bool) (s : State) : KeepsShow s (endStore ok s) := by
  unfold Machine.endStore
  exact (setStore _ s rfl rfl rfl rfl).trans (raise _ _)

theorem eraseDone (s : State) : KeepsShow s (eraseDone s) := by
  unfold Machine.eraseDone
  split
  · exact goStage _ s
  · exact refl s

theorem programDone (s : State) : KeepsShow s (programDone s) := by
  unfold Machine.programDone
  split
  · exact (setFlash _ s).trans (goStage _ _)
  · exact refl s

theorem verifyDone (b : Bool) (s : State) : KeepsShow s (verifyDone b s) := by
  unfold Machine.verifyDone
  split
  · exact ite (goStage _ s) ((setFlash _ s).trans (endStore _ _))
  · exact refl s

theorem markDone (b : Bool) (s : State) : KeepsShow s (markDone b s) := by
  unfold Machine.markDone
  split
  · exact ite ((setFlash _ s).trans (endStore _ _)) (endStore _ s)
  · exact refl s

/-! ### Desk and station lines -/

theorem deskEdge (l : DeskLine) (h : Nat) {f : State → State} (hf : ∀ s, Keeps s (f s)) (s : State) :
    KeepsShow s (deskEdge l h f s) :=
  ite ((setDesk _ s).trans (Keeps.unlessLoading hf _).show) (refl s)

theorem gapComes (i : Fin 6) (s : State) : KeepsShow s (gapComes i s) := by
  unfold Machine.gapComes
  split
  · exact (goTo _ s).trans (Keeps.receiverComes i _ _).show
  · exact refl s

theorem unlessLoading {f : State → State} (h : ∀ s, KeepsShow s (f s)) (s : State) : KeepsShow s (unlessLoading f s) :=
  ite (refl s) (h s)

theorem deskStandby (s : State) : Keeps s (deskStandby s) := by
  unfold Machine.deskStandby
  split
  · exact Keeps.raise _ s
  · exact Keeps.setLatch _ s

theorem deskGo (s : State) : Keeps s (deskGo s) := by
  unfold Machine.deskGo
  extract_lets r
  split
  · exact (Keeps.takeGo _ s).trans (Keeps.raise _ _)
  · exact Keeps.takeGo _ s

end KeepsShow

/-! ### Commands -/

/-- The ten requests that write the list, the map, the protection or a stored setting. -/
def isEdit : Instr → Bool
  | .cuePut _ _ | .cueDelete _ _ | .mapPut _ _ _ _ _ _ | .mapDelete _ _ _ | .protectSet _ _ _ _ _ | .showSet _ _
  | .followSet _ _ | .clockSet _ _ | .channelSet _ _ _ | .videoSet _ _ => true
  | _ => false

theorem stationRequest_keeps (n : Nat) {f : Fin 6 → State → State × Answer} (h : ∀ i s, Keeps s (f i s).1) (s : State) :
    Keeps s (stationRequest n f s).1 := by
  unfold stationRequest
  split
  · exact Keeps.refl s
  · exact h _ s

theorem reqStationSet_keeps (x : RawStationSet) (i : Fin 6) (s : State) : Keeps s (reqStationSet x i s).1 := by
  unfold reqStationSet
  extract_lets st
  split
  · exact (Keeps.setStation i _ s).trans (Keeps.changeExcluded i _ _)
  · exact Keeps.refl s

theorem reqStationPin_keeps (p : Nat) (i : Fin 6) (s : State) : Keeps s (reqStationPin p i s).1 := by
  unfold reqStationPin
  extract_lets pins
  split_ifs
  · exact Keeps.refl s
  · exact Keeps.refl s
  · exact Keeps.refl s
  · exact (Keeps.setStation i _ s).trans (Keeps.rigs (Rigs.recompute false i _).keep)

theorem reqStationUnpin_keeps (p : Nat) (i : Fin 6) (s : State) : Keeps s (reqStationUnpin p i s).1 := by
  unfold reqStationUnpin
  extract_lets pins
  split_ifs
  · exact Keeps.refl s
  · exact Keeps.refl s
  · exact (Keeps.setStation i _ s).trans (Keeps.rigs (Rigs.recompute false i _).keep)

theorem queryCondition_keeps (k : Nat) (s : State) : Keeps s (queryCondition k s).1 :=
  { Keeps.refl s with conditions := by simp [queryCondition, clearCondition] }

theorem reqAttentionQuery_keeps (n : Option Nat) (s : State) : Keeps s (reqAttentionQuery n s).1 := by
  unfold reqAttentionQuery
  split
  · split
    · exact queryCondition_keeps _ s
    · exact Keeps.refl s
  · split
    · exact Keeps.refl s
    · exact queryCondition_keeps _ s

theorem reqAttentionEnable_keeps (m : Nat) (s : State) : Keeps s (reqAttentionEnable m s).1 := by
  unfold reqAttentionEnable
  split
  · exact { Keeps.refl s with conditions := by simp }
  · exact Keeps.refl s

theorem reqStandby_keeps (s : State) : Keeps s (reqStandby s).1 := by
  unfold reqStandby
  split <;> dsimp only
  · exact Keeps.refl s
  · exact Keeps.setLatch _ s

theorem reqJump_keeps (n : CueNo) (s : State) : Keeps s (reqJump n s).1 := by
  unfold reqJump
  split_ifs <;> dsimp only
  · exact Keeps.refl s
  · exact Keeps.refl s
  · exact Keeps.refl s
  · exact Keeps.takeJump n s

theorem reqResumePoint_keeps (n : CueNo) (b : Option Nat) (s : State) : Keeps s (reqResumePoint n b s).1 := by
  unfold reqResumePoint
  split_ifs
  · exact Keeps.refl s
  · exact Keeps.refl s
  · split <;> dsimp only
    · exact Keeps.refl s
    · exact Keeps.takeResumePoint b _ s

theorem reqVampRelease_keeps (s : State) : Keeps s (reqVampRelease s).1 := by
  unfold reqVampRelease
  split <;> dsimp only
  · exact Keeps.refl s
  · apply Keeps.setClock
    rfl

theorem reqStore_keepsShow (s : State) : KeepsShow s (reqStore s).1 := by
  unfold reqStore
  split
  · exact KeepsShow.refl s
  · exact { KeepsShow.refl s with }

/-- A request that is no edit. -/
theorem request_keepsShow {c : Instr} {r : Bool × (State → State × Answer)} (h : requestOf c = some r)
    (he : isEdit c = false) (s : State) : KeepsShow s (r.2 s).1 := by
  cases c <;> simp only [requestOf, Option.some.injEq, reduceCtorEq] at h <;> subst h <;>
    simp only [isEdit, reduceCtorEq] at he
  case restartShow => exact (Keeps.restartShow s).show
  case store => exact reqStore_keepsShow s
  case standby => exact (reqStandby_keeps s).show
  case cancelStandby => exact (Keeps.withdrawLatch s).show
  case go => exact (Keeps.takeGo _ s).show
  case jump => exact (reqJump_keeps _ s).show
  case hold => exact (Keeps.takeHold s).show
  case stop => exact (Keeps.takeStop _ s).show
  case resumePoint => exact (reqResumePoint_keeps _ _ s).show
  case vampRelease => exact (reqVampRelease_keeps s).show
  case stationSet => exact (stationRequest_keeps _ (reqStationSet_keeps _) s).show
  case stationGet => exact (stationRequest_keeps _ (fun _ s => Keeps.refl s) s).show
  case stationPin => exact (stationRequest_keeps _ (reqStationPin_keeps _) s).show
  case stationUnpin => exact (stationRequest_keeps _ (reqStationUnpin_keeps _) s).show
  case stationFlush => exact (stationRequest_keeps _ (fun i s => Keeps.setStation i _ s) s).show
  case stationReset => exact (stationRequest_keeps _ (fun i s => Keeps.rigs (Rigs.resetStation i s).keep) s).show
  case faultGet => exact (stationRequest_keeps _ (fun _ s => Keeps.refl s) s).show
  case faultClear => exact (stationRequest_keeps _ (fun i s => Keeps.setStation i _ s) s).show
  case attentionQuery => exact (reqAttentionQuery_keeps _ s).show
  case attentionEnable => exact (reqAttentionEnable_keeps _ s).show
  all_goals exact KeepsShow.refl s

/-- The commands that are no requests and leave the show alone: all but power, the end of the load, and the taking of a
request. -/
theorem eventEffect_keepsShow (c : Instr) (s : State) (h₁ : ∀ a b, c ≠ .powerOn a b) (h₂ : ∀ m, c ≠ .powerLost m)
    (h₃ : ∀ t a, c ≠ .imageLoadEnd t a) (h₄ : ∀ t, c ≠ .requestTaken t) : KeepsShow s (eventEffect c s) := by
  have rig : ∀ {f : State → State}, (∀ s, Keeps s (f s)) → KeepsShow s (unlessLoading f s) :=
    fun hf => (Keeps.unlessLoading hf s).show
  cases c
  case powerOn a b => exact absurd rfl (h₁ a b)
  case powerLost m => exact absurd rfl (h₂ m)
  case imageLoadEnd t a => exact absurd rfl (h₃ t a)
  case requestTaken t => exact absurd rfl (h₄ t)
  case requestFrameReceived => exact KeepsShow.receiveFrame _ s
  case gapTimeout => exact KeepsShow.gapExpires s
  case breakDeclared => exact KeepsShow.declareBreak s
  case replySent => exact KeepsShow.replyEnds s
  case flashEraseDone => exact KeepsShow.eraseDone s
  case flashProgramDone => exact KeepsShow.programDone s
  case flashVerifyDone => exact KeepsShow.verifyDone _ s
  case flashMarkDone => exact KeepsShow.markDone _ s
  case flashError => exact KeepsShow.ite (KeepsShow.endStore _ s) (KeepsShow.refl s)
  case storeTimeout => exact KeepsShow.endStore _ s
  case deskStbyEdge => exact KeepsShow.deskEdge _ _ KeepsShow.deskStandby s
  case deskGoEdge => exact KeepsShow.deskEdge _ _ KeepsShow.deskGo s
  case deskHoldEdge => exact KeepsShow.deskEdge _ _ Keeps.takeHold s
  case deskStopEdge => exact KeepsShow.deskEdge _ _ (Keeps.takeStop _) s
  case deskLineRelease => exact KeepsShow.ite (KeepsShow.setDesk _ s) (KeepsShow.refl s)
  case keyLevelChange => exact KeepsShow.ite { KeepsShow.refl s with } (KeepsShow.refl s)
  case beatPulse => exact (Keeps.ite ((Keeps.timed (outside_takePulse s)).trans (Keeps.afterCommit _)) (Keeps.refl s)).show
  case beatCommit => exact ((Keeps.timed (outside_commitScheduled s)).trans (Keeps.afterCommit _)).show
  case windowClose => exact (Keeps.timed (outside_closeWindow s)).show
  case followTimerExpiry => exact (Keeps.timerExpires s).show
  case burstStart => exact (Keeps.burstStarts _ s).show
  case burstEnd => exact (Keeps.burstEnds _ s).show
  case lineSync => exact rig fun s => Keeps.timed (outside_takeSync _ _ s)
  case syncLossTimeout => exact (Keeps.timed (outside_loseSync s)).show
  case generatorFieldStart => exact (Keeps.timed (outside_generatorField s)).show
  case missedInputField => exact (Keeps.timed (outside_missField s)).show
  case presentAsserted => exact (Keeps.presentChange _ (Keeps.presentRises _) s).show
  case presentDeasserted => exact (Keeps.presentChange _ (Keeps.presentFalls _) s).show
  case queryRepeat => exact (Keeps.setStation _ _ s).show
  case hello => exact rig (Keeps.frameComes _ _)
  case loaded => exact rig (Keeps.frameComes _ _)
  case loadFailed => exact rig (Keeps.frameComes _ _)
  case selected => exact rig (Keeps.frameComes _ _)
  case stationFrameBad => exact rig (Keeps.bytesCome _)
  case stationFrameGap x =>
    exact KeepsShow.unlessLoading (fun s => (Keeps.bytesCome x s).show.trans (KeepsShow.gapComes _ _)) s
  case loadTimeout => exact (Keeps.loadTimesOut _ s).show
  case selectTimeout => exact (Keeps.selectTimesOut _ s).show
  case stationSend => exact rig fun s => Keeps.rigs (Rigs.sendNext _ s).keep
  case stationFrameSent => exact (Keeps.setStation _ _ s).show
  case receivedByte => exact KeepsShow.receiveByte _ s
  case lineReturnedToMark => exact KeepsShow.endBreak s
  all_goals exact KeepsShow.refl s

/-- The write of an accepted edit, before its notice or what else follows it. -/
inductive Writes (s : State) : Instr → State → Prop
  | cuePut {t : Nat} {r : RawCue} {c : Cue} (hr : readCue r = some c) (ho : putRefusal c s = none) :
      Writes s (.cuePut t r) (putCue c s)
  | cueDelete {t : Nat} {n : CueNo} {c : Cue} (hc : findCue s.store.cues n = some c)
      (hp : protectsCue s.store.protect n = false) : Writes s (.cueDelete t n) (deleteCue c s)
  | mapPut {t : Nat} {e : MapEntry} (hp : protectsMap s.store.protect = false) (he : mapEntryOk e = true)
      (hn : (findMap s.map e.station e.patch).isSome = true ∨ s.map.length < Config.maxMap) :
      Writes s (.mapPut t e.station e.patch e.bank e.program e.load) { s with map := placeMap e s.map }
  | mapDelete {t k p : Nat} (hp : protectsMap s.store.protect = false) :
      Writes s (.mapDelete t k p) { s with map := removeMap k p s.map }
  | protectSet {t m k : Nat} {lo hi : CueNo} {p : Protect} (hr : readProtect m lo hi k = some p) :
      Writes s (.protectSet t m lo hi k) (s.setStore fun x => { x with protect := p })
  | showSet {t : Nat} {f : RawShowSet} {x : ShowSettings} (hs : RawShowSet.selects f = true → s.storing = false)
      (hr : readShowSet f s.seq.settings = some x) : Writes s (.showSet t f) (s.setSeq fun q => { q with settings := x })
  | followSet {t : Nat} {f : RawFollowSet} {x : FollowSettings} (hs : RawFollowSet.selects f = true → s.storing = false)
      (hr : readFollowSet f s.follower.settings = some x) :
      Writes s (.followSet t f)
        (s.setFollower fun k => { adaptiveChange k.settings.constant x.constant k with settings := x })
  | clockSet {t c : Nat} (hs : s.storing = false) (hc : c ≤ Config.maxLead) :
      Writes s (.clockSet t (some c)) (s.setClock fun k => { k with lead := c })
  | channelSet {t n : Nat} {f : RawChannelSet} {i : Fin 16} {x : ChannelSettings} {o : Override}
      (hs : RawChannelSet.selectsStored f = true → s.storing = false)
      (hr : readChannelSet f (s.channel i).settings (s.channel i).override = some (x, o)) :
      Writes s (.channelSet t n f) (s.setChannel i (writeChannel x o))
  | videoSet {t : Nat} {f : RawVideoSet} {x : VideoSettings} (hs : RawVideoSet.selects f = true → s.storing = false)
      (hr : readVideoSet f s.video.settings = some x) :
      Writes s (.videoSet t f) (s.setVideo fun v => { v with settings := x })

/-- The edits of list, map and protection are for a part that is not storing. -/
def needsNoStore : Instr → Bool
  | .cuePut _ _ | .cueDelete _ _ | .mapPut _ _ _ _ _ _ | .mapDelete _ _ _ | .protectSet _ _ _ _ _ => true
  | _ => false

theorem reqCuePut_writes (t : Nat) (r : RawCue) (s : State) : (reqCuePut r s).1 = s ∨
    s.storing = false ∧ ∃ w, Writes s (.cuePut t r) w ∧ Keeps w (reqCuePut r s).1 := by
  unfold reqCuePut
  split
  · exact .inl rfl
  case isFalse hs =>
    split
    · exact .inl rfl
    case h_2 c hr =>
      split
      · exact .inl rfl
      · exact .inl rfl
      case h_3 ho =>
        dsimp only
        exact .inr ⟨Bool.eq_false_iff.mpr hs, _, .cuePut hr ho, Keeps.listChanged _ _ _⟩

theorem reqCueDelete_writes (t : Nat) (n : CueNo) (s : State) : (reqCueDelete n s).1 = s ∨
    s.storing = false ∧ ∃ w, Writes s (.cueDelete t n) w ∧ Keeps w (reqCueDelete n s).1 := by
  unfold reqCueDelete
  split_ifs with hs _ hp
  · exact .inl rfl
  · exact .inl rfl
  · exact .inl rfl
  · split
    · exact .inl rfl
    case h_2 c hc =>
      dsimp only
      exact .inr ⟨Bool.eq_false_iff.mpr hs, _, .cueDelete hc (Bool.eq_false_iff.mpr hp), Keeps.listChanged _ _ _⟩

/-- A map edit that is not refused finds no store in progress and an unprotected map. -/
theorem mapEditRefusal_none {k p : Nat} {s : State} (h : mapEditRefusal k p s = none) :
    s.storing = false ∧ protectsMap s.store.protect = false ∧ stationOk k = true ∧ patchOk p = true := by
  unfold mapEditRefusal at h
  split_ifs at h with hs hk hp
  simp only [Bool.not_eq_true', Bool.not_eq_false, Bool.and_eq_true] at hk
  exact ⟨Bool.eq_false_iff.mpr hs, Bool.eq_false_iff.mpr hp, hk.1, hk.2⟩

theorem reqMapPut_writes (t k p b g l : Nat) (s : State) : (reqMapPut k p b g l s).1 = s ∨
    s.storing = false ∧ ∃ w, Writes s (.mapPut t k p b g l) w ∧ Keeps w (reqMapPut k p b g l s).1 := by
  unfold reqMapPut
  split
  · exact .inl rfl
  · exact .inl rfl
  case h_3 i hm _ =>
    obtain ⟨hs, hp, -, -⟩ := mapEditRefusal_none hm
    extract_lets e m
    split_ifs with he hn
    · exact .inl rfl
    · exact .inl rfl
    · refine .inr ⟨hs, m, .mapPut (e := e) hp (by simpa using he) ?_, Keeps.mapChanged i p false m⟩
      by_cases hf : (findMap s.map k p).isSome = true
      · exact .inl hf
      · refine .inr (not_le.mp fun hle => hn ⟨?_, hle⟩)
        simpa using hf

theorem reqMapDelete_writes (t k p : Nat) (s : State) : (reqMapDelete k p s).1 = s ∨
    s.storing = false ∧ ∃ w, Writes s (.mapDelete t k p) w ∧ Keeps w (reqMapDelete k p s).1 := by
  unfold reqMapDelete
  split
  · exact .inl rfl
  · exact .inl rfl
  case h_3 i hm _ =>
    obtain ⟨hs, hp, -, -⟩ := mapEditRefusal_none hm
    split
    · exact .inl rfl
    · extract_lets m
      exact .inr ⟨hs, m, .mapDelete hp, Keeps.mapChanged i p true m⟩

theorem reqProtectSet_writes (t m k : Nat) (lo hi : CueNo) (s : State) : (reqProtectSet m lo hi k s).1 = s ∨
    s.storing = false ∧ ∃ w, Writes s (.protectSet t m lo hi k) w ∧ Keeps w (reqProtectSet m lo hi k s).1 := by
  unfold reqProtectSet
  split_ifs with hs
  · exact .inl rfl
  · exact .inl rfl
  · split
    · exact .inl rfl
    case h_2 p hr => exact .inr ⟨Bool.eq_false_iff.mpr hs, _, .protectSet hr, Keeps.refl _⟩

/-- Not both storing and selecting a field. -/
theorem free_of_not_and {a b : Bool} (h : ¬(a = true ∧ b = true)) : b = true → a = false := by
  cases a <;> simp_all

theorem reqShowSet_writes (t : Nat) (f : RawShowSet) (s : State) : (reqShowSet f s).1 = s ∨
    ∃ w, Writes s (.showSet t f) w ∧ Keeps w (reqShowSet f s).1 := by
  unfold reqShowSet
  split_ifs with hs
  · exact .inl rfl
  · split
    · exact .inl rfl
    case h_2 x hr =>
      dsimp only
      exact .inr ⟨_, .showSet (free_of_not_and hs) hr, Keeps.ite (Keeps.refl _) (Keeps.handOver _)⟩

theorem reqFollowSet_writes (t : Nat) (f : RawFollowSet) (s : State) : (reqFollowSet f s).1 = s ∨
    ∃ w, Writes s (.followSet t f) w ∧ Keeps w (reqFollowSet f s).1 := by
  unfold reqFollowSet
  split_ifs with hs
  · exact .inl rfl
  · split
    · exact .inl rfl
    case h_2 x hr =>
      exact .inr ⟨_, .followSet (free_of_not_and hs) hr, Keeps.timed (outside_judgeWindow _)⟩

theorem reqClockSet_writes (t : Nat) (l : Option Nat) (s : State) : (reqClockSet l s).1 = s ∨
    ∃ w, Writes s (.clockSet t l) w ∧ Keeps w (reqClockSet l s).1 := by
  unfold reqClockSet
  split
  · exact .inl rfl
  case h_2 c =>
    split_ifs with hs hc
    · exact .inl rfl
    · exact .inl rfl
    · refine .inr ⟨_, .clockSet (Bool.eq_false_iff.mpr hs) (not_lt.mp hc), ?_⟩
      exact (Keeps.timed (outside_commitIfDue _)).trans (Keeps.afterCommit _)

theorem reqChannelSet_writes (t n : Nat) (f : RawChannelSet) (s : State) : (reqChannelSet n f s).1 = s ∨
    ∃ w, Writes s (.channelSet t n f) w ∧ Keeps w (reqChannelSet n f s).1 := by
  unfold reqChannelSet
  split
  · exact .inl rfl
  case h_2 i _ =>
    extract_lets c
    split_ifs with hs
    · exact .inl rfl
    · split
      · exact .inl rfl
      case h_2 x o hr =>
        dsimp only
        exact .inr ⟨_, .channelSet (free_of_not_and hs) hr, Keeps.drainReport _⟩

theorem reqVideoSet_writes (t : Nat) (f : RawVideoSet) (s : State) : (reqVideoSet f s).1 = s ∨
    ∃ w, Writes s (.videoSet t f) w ∧ Keeps w (reqVideoSet f s).1 := by
  unfold reqVideoSet
  split_ifs with hs
  · exact .inl rfl
  · split
    · exact .inl rfl
    case h_2 x hr =>
      dsimp only
      exact .inr ⟨_, .videoSet (free_of_not_and hs) hr, Keeps.ite (Keeps.refl _) (Keeps.timed (outside_applyRateSetting _))⟩

/-- An edit that changes anything has written, and what follows the write leaves the show alone. -/
theorem edit_writes {c : Instr} {r : Bool × (State → State × Answer)} (h : requestOf c = some r) (he : isEdit c = true)
    (s : State) : (r.2 s).1 = s
      ∨ (needsNoStore c = true → s.storing = false) ∧ ∃ w, Writes s c w ∧ Keeps w (r.2 s).1 := by
  have free : ∀ {p q : Prop}, q → (false = true → p) ∧ q := fun hq => ⟨by simp, hq⟩
  have busy : ∀ {p q : Prop}, p ∧ q → (true = true → p) ∧ q := fun h => ⟨fun _ => h.1, h.2⟩
  cases c <;> simp only [isEdit, reduceCtorEq] at he <;>
    simp only [requestOf, Option.some.injEq] at h <;> subst h
  case cuePut t r => exact (reqCuePut_writes t r s).imp_right busy
  case cueDelete t n => exact (reqCueDelete_writes t n s).imp_right busy
  case mapPut => exact (reqMapPut_writes _ _ _ _ _ _ s).imp_right busy
  case mapDelete => exact (reqMapDelete_writes _ _ _ s).imp_right busy
  case protectSet => exact (reqProtectSet_writes _ _ _ _ _ s).imp_right busy
  case showSet => exact (reqShowSet_writes _ _ s).imp_right free
  case followSet => exact (reqFollowSet_writes _ _ s).imp_right free
  case clockSet => exact (reqClockSet_writes _ _ s).imp_right free
  case channelSet => exact (reqChannelSet_writes _ _ _ s).imp_right free
  case videoSet => exact (reqVideoSet_writes _ _ s).imp_right free

/-- The effect of a command on the show: it leaves it alone, or an edit `c` writes it in a state `m` in which all of it stands
as in `s`. -/
inductive Moves (s u : State) : Prop
  | keeps (h : KeepsShow s u)
  | edits (c : Instr) (m w : State) (hl : m.loading = false) (hm : KeepsShow s m) (hs : m.store = s.store)
      (hb : needsNoStore c = true → m.storing = false) (hw : Writes m c w) (hu : KeepsShow w u)

theorem Moves.after {s m u : State} (h : Moves s m) (k : KeepsShow m u) : Moves s u := by
  cases h with
  | keeps h => exact .keeps (h.trans k)
  | edits c m w hl hm hs hb hw hu => exact .edits c m w hl hm hs hb hw (hu.trans k)

theorem Moves.before {s m u : State} (h : KeepsShow s m) (hs : m.store = s.store) (k : Moves m u) : Moves s u := by
  cases k with
  | keeps k => exact .keeps (h.trans k)
  | edits c n w hl hn hs' hb hw hu => exact .edits c n w hl (h.trans hn) (hs'.trans hs) hb hw hu

theorem takeRequest_moves {c : Instr} {r : Bool × (State → State × Answer)} (h : requestOf c = some r) (s : State) :
    Moves s (takeRequest r.1 r.2 s).1 := by
  unfold takeRequest
  split
  · exact .keeps (KeepsShow.refl s)
  case isFalse hl =>
    cases he : isEdit c with
    | false => exact .keeps (request_keepsShow h he s)
    | true =>
      rcases edit_writes h he s with e | ⟨hb, w, hw, hu⟩
      · rw [e]; exact .keeps (KeepsShow.refl s)
      · refine .edits c s w ?_ (KeepsShow.refl s) rfl hb hw hu.show
        have hr : r.1 = false := by
          cases c <;> simp only [isEdit, reduceCtorEq] at he <;> simp only [requestOf, Option.some.injEq] at h <;> rw [← h]
        simpa [hr] using hl

theorem takeOldest_moves (s : State) : Moves s (takeOldest s) := by
  unfold takeOldest
  split
  case h_1 f fs _ hq =>
    have drop : s.LinkSound → (s.setLink fun l => { l with queue := fs }).LinkSound := by
      rintro ⟨hn, hp, hg⟩
      rw [hq] at hn hp
      exact ⟨Nat.le_of_succ_le hn, fun g h => hp g (List.mem_cons_of_mem f h), hg⟩
    refine .before (KeepsShow.setLink _ s drop) rfl ?_
    refine .after (m := (answerFrame f _).1) ?_ ((KeepsShow.keepReply _).trans (KeepsShow.giveReply _ _))
    unfold answerFrame
    split
    · exact .keeps (KeepsShow.refl _)
    · split
      case h_1 h => exact takeRequest_moves h _
      · exact .keeps (KeepsShow.refl _)
  · exact .keeps (KeepsShow.refl s)

/-- Every command but those of power and the end of the load. -/
theorem taken_moves (c : Instr) (s : State) (h₁ : ∀ a b, c ≠ .powerOn a b) (h₂ : ∀ m, c ≠ .powerLost m)
    (h₃ : ∀ t a, c ≠ .imageLoadEnd t a) : Moves s (taken c s) := by
  unfold taken
  split
  case h_1 d _ =>
    refine .before (KeepsShow.goTo d s) rfl ?_
    unfold effect
    split
    case h_1 h => exact (takeRequest_moves h _).after (KeepsShow.keepReply _)
    · by_cases h₄ : ∀ t, c ≠ .requestTaken t
      · exact .keeps (eventEffect_keepsShow c _ h₁ h₂ h₃ h₄)
      · push Not at h₄
        obtain ⟨t, rfl⟩ := h₄
        exact takeOldest_moves _
  · exact .keeps (KeepsShow.refl s)

end Sys2Proof.Proofs

namespace Sys2Proof.Proofs

open Sys2Proof Sys2Proof.Machine

/-! ## The cue list -/

theorem cueLt_irrefl (a : CueNo) : cueLt a a = false := by simp [cueLt]

/-- The order of cue numbers is total (R67). -/
theorem cueLt_of_not {a b : CueNo} (h : a ≠ b) (h' : ¬cueLt a b = true) : cueLt b a = true := by
  obtain ⟨aw, ap⟩ := a
  obtain ⟨bw, bp⟩ := b
  simp only [cueLt, Bool.or_eq_true, Bool.and_eq_true, decide_eq_true_eq, beq_iff_eq] at *
  simp only [ne_eq, CueNo.mk.injEq] at h
  omega

theorem increasing_iff (cues : List Cue) :
    increasing cues = true ↔ cues.Pairwise fun a b => cueLt a.number b.number = true := by
  refine ⟨increasing_pairwise, fun h => ?_⟩
  induction cues with
  | nil => rfl
  | cons a l ih =>
    cases l with
    | nil => rfl
    | cons b l =>
      obtain ⟨ha, hl⟩ := List.pairwise_cons.mp h
      simp [increasing, ha b (by simp), ih hl]

theorem findCue_some {cues : List Cue} {n : CueNo} {c : Cue} (h : findCue cues n = some c) : c ∈ cues ∧ c.number = n :=
  ⟨List.mem_of_find?_eq_some h, by simpa using List.find?_some h⟩

theorem findCue_none {cues : List Cue} {n : CueNo} : findCue cues n = none ↔ ∀ d ∈ cues, d.number ≠ n := by
  simp [findCue]

theorem findCue_cons (d : Cue) (ds : List Cue) (n : CueNo) :
    findCue (d :: ds) n = if d.number = n then some d else findCue ds n := by
  simp only [findCue, List.find?_cons, beq_iff_eq]
  split <;> simp_all

theorem findCue_placeCue (c : Cue) (cues : List Cue) (n : CueNo) :
    findCue (placeCue c cues) n = if c.number = n then some c else findCue cues n := by
  induction cues with
  | nil => simp [placeCue, findCue_cons]
  | cons d ds ih =>
    by_cases hd : d.number = c.number
    · simp only [placeCue, hd, if_true, findCue_cons, beq_self_eq_true]
      split_ifs <;> rfl
    · by_cases hlt : cueLt c.number d.number = true
      · simp [placeCue, hd, hlt, findCue_cons]
      · rw [placeCue, if_neg (by simpa using hd), if_neg hlt, findCue_cons, findCue_cons, ih]
        split_ifs with h₁ h₂
        · exact absurd (h₁.trans h₂.symm) hd
        all_goals rfl

theorem mem_placeCue {c x : Cue} {cues : List Cue} (h : x ∈ placeCue c cues) : x = c ∨ x ∈ cues := by
  induction cues with
  | nil => simpa [placeCue] using h
  | cons d ds ih =>
    unfold placeCue at h
    split_ifs at h
    · rcases List.mem_cons.mp h with h | h <;> simp [h]
    · simpa using h
    · rcases List.mem_cons.mp h with h | h
      · simp [h]
      · rcases ih h with h | h <;> simp [h]

/-- What a put does to a list in order: it stays in order, and one cue comes, in place of the one of its number. -/
theorem placeCue_sorted (c : Cue) {cues : List Cue} (h : cues.Pairwise fun a b => cueLt a.number b.number = true) :
    (placeCue c cues).Pairwise (fun a b => cueLt a.number b.number = true)
      ∧ (placeCue c cues).length + ((findCue cues c.number).map fun _ => 1).getD 0 = cues.length + 1
      ∧ poolOf (placeCue c cues) + ((findCue cues c.number).map cueEntries).getD 0 = poolOf cues + cueEntries c := by
  induction cues with
  | nil => simp [placeCue, findCue, poolOf]
  | cons d ds ih =>
    obtain ⟨hd, hds⟩ := List.pairwise_cons.mp h
    obtain ⟨ih₁, ih₂, ih₃⟩ := ih hds
    rw [findCue_cons]
    unfold placeCue
    split_ifs with he hlt
    · refine ⟨List.pairwise_cons.mpr ⟨fun x hx => he ▸ hd x hx, hds⟩, by simp, ?_⟩
      simp [poolOf]; omega
    · have hall : ∀ x ∈ d :: ds, cueLt c.number x.number = true := fun x hx => by
        rcases List.mem_cons.mp hx with rfl | hx
        · exact hlt
        · exact cueLt_trans hlt (hd x hx)
      have hnone : findCue ds c.number = none := findCue_none.mpr fun x hx e => by
        have := hall x (List.mem_cons_of_mem d hx)
        rw [e, cueLt_irrefl] at this
        cases this
      refine ⟨List.pairwise_cons.mpr ⟨hall, h⟩, by simp [hnone], ?_⟩
      simp [poolOf, hnone]; omega
    · refine ⟨List.pairwise_cons.mpr ⟨fun x hx => ?_, ih₁⟩, by simpa using by omega, ?_⟩
      · rcases mem_placeCue hx with rfl | hx
        · exact cueLt_of_not (Ne.symm he) hlt
        · exact hd x hx
      · simp only [poolOf, List.map_cons, List.sum_cons] at *; omega

theorem findCue_removeCue (m : CueNo) (cues : List Cue) (n : CueNo) :
    findCue (removeCue m cues) n = if m = n then none else findCue cues n := by
  induction cues with
  | nil => simp [removeCue, findCue]
  | cons d ds ih =>
    rw [findCue_cons]
    simp only [removeCue, List.filter_cons, bne_iff_ne, ne_eq] at ih ⊢
    by_cases hd : d.number = m
    · rw [if_neg (by simpa using hd), ih, hd]
      split_ifs <;> rfl
    · rw [if_pos (by simpa using hd), findCue_cons, ih]
      split_ifs <;> simp_all

/-- What a delete does to a list in order: one cue goes. -/
theorem removeCue_sorted {c : Cue} {cues : List Cue} (h : cues.Pairwise fun a b => cueLt a.number b.number = true)
    (hc : findCue cues c.number = some c) :
    (removeCue c.number cues).length + 1 = cues.length
      ∧ poolOf (removeCue c.number cues) + cueEntries c = poolOf cues := by
  induction cues with
  | nil => simp [findCue] at hc
  | cons d ds ih =>
    obtain ⟨hd, hds⟩ := List.pairwise_cons.mp h
    rw [findCue_cons] at hc
    simp only [removeCue, List.filter_cons] at ih ⊢
    split_ifs at hc with he
    · cases hc
      have keep : ds.filter (fun x => x.number != c.number) = ds := List.filter_eq_self.mpr fun x hx => by
        have := hd x hx
        simp only [bne_iff_ne, ne_eq]
        intro e
        rw [e, cueLt_irrefl] at this
        cases this
      simp only [bne_self_eq_false, Bool.false_eq_true, if_false, keep, List.length_cons, poolOf, List.map_cons,
        List.sum_cons, true_and]
      exact Nat.add_comm _ _
    · obtain ⟨ih₁, ih₂⟩ := ih hds hc
      rw [if_pos (by simpa using he)]
      simp only [List.length_cons, poolOf, List.map_cons, List.sum_cons] at *
      omega

/-! ## Records in order (R68, R72) -/

theorem sortBy_perm {α : Type} (key : α → Int) (l : List α) : (sortBy key l).Perm l := by
  induction l with
  | nil => exact .refl _
  | cons x xs ih => exact (insertBy_perm key x _).trans (ih.cons x)

theorem sortBy_sorted {α : Type} (key : α → Int) (l : List α) : (sortBy key l).Pairwise fun a b => key a ≤ key b := by
  induction l with
  | nil => exact .nil
  | cons x xs ih => exact insertBy_sorted key x ih

/-- Sorting distinct keys puts them in strictly increasing order. -/
theorem sortBy_strict {α : Type} (f : α → Nat) {l : List α} (h : (l.map f).Nodup) :
    (sortBy (fun a => (f a : Int)) l).Pairwise fun a b => f a < f b := by
  have hs := sortBy_sorted (fun a => (f a : Int)) l
  have hn : ((sortBy (fun a => (f a : Int)) l).map f).Nodup := ((sortBy_perm _ l).map f).nodup_iff.mpr h
  rw [List.Nodup, List.pairwise_map] at hn
  exact (hs.and hn).imp fun {a b} ⟨hle, hne⟩ => by have := Int.ofNat_le.mp hle; omega

theorem orderedCue_ok {c : Cue} (h : cueOk c = true) : cueOk (orderedCue c) = true := by
  have hp := sortBy_perm (fun p : PatchAction => (p.station : Int)) c.patches
  have hk := sortBy_perm (fun a : ClickAction => (a.channel : Int)) c.clicks
  have hp' := (hp.map (·.station)).nodup_iff
  have hk' := (hk.map (·.channel)).nodup_iff
  simp only [cueOk, orderedCue, Bool.and_eq_true, decide_eq_true_eq, hp.length_eq, hk.length_eq, hp', hk', hp.all_eq,
    hk.all_eq] at h ⊢
  exact h

theorem orderedCue_inOrder {c : Cue} (h : cueOk c = true) : cueInOrder (orderedCue c) = true := by
  simp only [cueOk, Bool.and_eq_true, decide_eq_true_eq] at h
  obtain ⟨⟨⟨⟨⟨-, hp⟩, -⟩, -⟩, hk⟩, -⟩ := h
  simp only [cueInOrder, orderedCue, Bool.and_eq_true, decide_eq_true_eq]
  exact ⟨decide_eq_true (sortBy_strict PatchAction.station hp), decide_eq_true (sortBy_strict ClickAction.channel hk)⟩

end Sys2Proof.Proofs

namespace Sys2Proof.Proofs

open Sys2Proof Sys2Proof.Machine

/-! ## What every step keeps

A predicate that the running of the show and the ten edits keep, and that holds of a part leaving its reset and of one that has
installed an image, is kept by every step. -/

/-- The end of the load installs an image it accepts, or nothing, and hands the loaded show over. -/
theorem endLoad_keeps (a : FlashAnswer) {s : State} (hl : s.loading = true) :
    ∃ m w, KeepsShow s m ∧ ((∃ i, imageOk i = true ∧ w = installImage i m) ∨ w = installNothing m)
      ∧ Keeps { w with loading := false } (endLoad a s) := by
  have hands : ∀ w : State, Keeps w (eachStation greetPresent (handOver w)) := fun w =>
    (Keeps.handOver w).trans (.rigs (RigsKeep.eachStation Rigs.greetPresent _))
  have accepted : ∀ i, imageRead s.flash a = some i → imageOk i = true := fun i h => by
    have ok : ∀ b, acceptedImage b = some i → imageOk i = true := fun b hb => by
      unfold acceptedImage at hb
      split at hb
      · split_ifs at hb with hi
        cases hb
        simp only [Bool.and_eq_true] at hi
        exact hi.2
      · cases hb
    unfold imageRead at h
    split at h
    · cases h
    · exact ok _ h
    · exact ok _ h
  unfold endLoad
  rw [if_pos hl]
  extract_lets image m w
  refine ⟨m, w, KeepsShow.setFlash _ s, ?_, hands _⟩
  cases hi : imageRead s.flash a with
  | none => exact .inr (by simp only [w, image, hi])
  | some i => exact .inl ⟨i, accepted i hi, by simp only [w, image, hi]⟩

/-- The rules under which every step keeps `P`. -/
structure Stable (P : State → Prop) : Prop where
  keeps : ∀ {s u : State}, KeepsShow s u → P s → P u
  writes : ∀ {s u : State} {c : Instr}, Writes s c u → P s → P u
  resets : ∀ q f r b, P { State.leavingReset q f r with powered := b }
  installs : ∀ {i : ShowImage} {s : State}, imageOk i = true → P s → P (installImage i s)
  empties : ∀ {s : State}, P s → P (installNothing s)
  loads : ∀ {s : State}, P s → P { s with loading := false }

namespace Stable

variable {P : State → Prop}

theorem taken (h : Stable P) (c : Instr) (s : State) (hc : ∀ a b, c ≠ .powerOn a b) (hs : P s) : P (taken c s) := by
  by_cases h₂ : ∃ m, c = .powerLost m
  · obtain ⟨m, rfl⟩ := h₂
    exact h.resets _ _ _ false
  by_cases h₃ : ∃ t a, c = .imageLoadEnd t a
  · obtain ⟨t, a, rfl⟩ := h₃
    change P (endLoad a (s.goTo t))
    have ht := h.keeps (KeepsShow.goTo t s) hs
    cases hl : (s.goTo t).loading with
    | true =>
      obtain ⟨m, w, hm, hw, hu⟩ := endLoad_keeps a hl
      refine h.keeps hu.show (h.loads ?_)
      rcases hw with ⟨i, hi, rfl⟩ | rfl
      · exact h.installs hi (h.keeps hm ht)
      · exact h.empties (h.keeps hm ht)
    | false =>
      unfold endLoad
      rwa [if_neg (Bool.eq_false_iff.mp hl)]
  · push Not at h₂ h₃
    cases taken_moves c s hc h₂ h₃ with
    | keeps k => exact h.keeps k hs
    | edits e m w _ hm _ _ hw hu => exact h.keeps hu (h.writes hw (h.keeps hm hs))

theorem exec (h : Stable P) {c : Instr} {s u : State} (hs : P s) (he : exec c s = .next u) : P u := by
  by_cases hc : ∀ a b, c ≠ .powerOn a b
  · rw [exec_eq c s hc] at he
    cases he
    split
    · exact h.taken c s hc hs
    · exact hs
  · push Not at hc
    obtain ⟨a, b, rfl⟩ := hc
    cases he
    exact h.resets _ _ _ true

theorem step (h : Stable P) {s u : State} (hs : P s) (he : step s = .next u) : P u := by
  unfold Machine.step at he
  split at he
  · cases he; exact hs
  case h_2 c cs _ =>
    have k : KeepsShow s { s with pending := cs } := { KeepsShow.refl s with }
    exact h.exec (h.keeps k hs) he

end Stable

end Sys2Proof.Proofs

namespace Sys2Proof.Proofs

open Sys2Proof Sys2Proof.Machine

/-! ## The sizes and the Show Link -/

theorem sized_stable : Stable State.Sized where
  keeps h := fun ⟨hs, hc, ha, hw, hb⟩ =>
    ⟨h.stations.trans hs, h.channels_length hc, h.conditions.trans ha, h.words.trans hw, h.account hw hb⟩
  writes hw hs := by cases hw <;> simpa [State.Sized, putCue, deleteCue] using hs
  resets _ _ _ _ := by simp [State.Sized, State.leavingReset, StopController.initial]
  installs {i s} hi := fun ⟨hs, hc, ha, hw, hb⟩ => by
    have hn : i.channels.length = 16 := by
      simp only [imageOk, settingsOk, Bool.and_eq_true, beq_iff_eq] at hi
      tauto
    exact ⟨hs, by simp [installImage, hc, hn], ha, hw, hb⟩
  empties hs := by simpa [State.Sized, installNothing] using hs
  loads hs := hs

theorem link_stable : Stable State.LinkSound where
  keeps h := h.link
  writes hw hs := by cases hw <;> exact hs
  resets _ _ _ _ := by simp [State.LinkSound, State.leavingReset, Link.initial]
  installs _ hs := hs
  empties hs := hs
  loads hs := hs

/-- Settles O4: the sizes and the link's limits are stable. -/
theorem stepKeepsSizesAndLink : Obligations.StepKeepsSizesAndLink :=
  ⟨fun _ _ hs he => sized_stable.step hs he, fun _ _ hs he => link_stable.step hs he⟩

/-! ## The cue list -/

theorem ordered_of_accepted {c d : Cue} (h : (if cueOk d then some (orderedCue d) else none) = some c) :
    cueOk c = true ∧ cueInOrder c = true := by
  split_ifs at h with hd
  cases h
  exact ⟨orderedCue_ok hd, orderedCue_inOrder hd⟩

theorem readCue_ok {r : RawCue} {c : Cue} (h : readCue r = some c) : cueOk c = true ∧ cueInOrder c = true := by
  unfold readCue at h
  split_ifs at h
  split at h
  · split at h
    · exact ordered_of_accepted h
    · dsimp only at h
      split at h
      · cases h
      · exact ordered_of_accepted h
  · cases h

theorem findCue_le_poolOf (cues : List Cue) (n : CueNo) : ((findCue cues n).map cueEntries).getD 0 ≤ poolOf cues := by
  cases hf : findCue cues n with
  | none => exact Nat.zero_le _
  | some c => exact List.le_sum_of_mem (List.mem_map_of_mem (findCue_some hf).1)

theorem putRefusal_none {c : Cue} {s : State} (h : putRefusal c s = none) :
    protectsCue s.store.protect c.number = false
      ∧ ((findCue s.store.cues c.number).isSome = true ∨ s.store.cueCount < Config.maxCues)
      ∧ poolAfterPut c s ≤ Config.maxPool := by
  unfold putRefusal at h
  split_ifs at h with h₁ h₂ h₃
  refine ⟨Bool.eq_false_iff.mpr h₁, ?_, Nat.le_of_not_lt h₃⟩
  cases hf : findCue s.store.cues c.number
  · rw [hf] at h₂; right; simpa using h₂
  · exact .inl rfl

theorem storeSound_putCue {c : Cue} {r : RawCue} {s : State} (hr : readCue r = some c) (ho : putRefusal c s = none)
    (hs : s.StoreSound) : (putCue c s).StoreSound := by
  obtain ⟨hsort, hok, hord, hn, hmax, hp, hpool⟩ := hs
  obtain ⟨-, hroom, hfit⟩ := putRefusal_none ho
  obtain ⟨hs', hn', hp'⟩ := placeCue_sorted c ((increasing_iff _).mp hsort)
  obtain ⟨hc₁, hc₂⟩ := readCue_ok hr
  have each {p : Cue → Bool} (h₁ : p c = true) (h₂ : s.store.cues.all p = true) : (placeCue c s.store.cues).all p = true :=
    List.all_eq_true.mpr fun x hx => by
      rcases mem_placeCue hx with rfl | hx
      · exact h₁
      · exact List.all_eq_true.mp h₂ x hx
  refine ⟨(increasing_iff _).mpr hs', each hc₁ hok, each hc₂ hord, ?_, ?_, ?_, hfit⟩
  · simp only [putCue, State.setStore]
    cases hf : findCue s.store.cues c.number <;> simp_all
  · simp only [putCue, State.setStore]
    split
    · exact hmax
    case isFalse h => exact hroom.resolve_left h
  · simp only [putCue, State.setStore, poolAfterPut, hp]
    have := findCue_le_poolOf s.store.cues c.number
    omega

theorem storeSound_deleteCue {c : Cue} {n : CueNo} {s : State} (hc : findCue s.store.cues n = some c) (hs : s.StoreSound) :
    (deleteCue c s).StoreSound := by
  obtain ⟨hsort, hok, hord, hn, hmax, hp, hpool⟩ := hs
  obtain ⟨-, rfl⟩ := findCue_some hc
  have hsort' := (increasing_iff _).mp hsort
  obtain ⟨hn', hp'⟩ := removeCue_sorted hsort' hc
  have each {p : Cue → Bool} (h : s.store.cues.all p = true) : (removeCue c.number s.store.cues).all p = true :=
    List.all_eq_true.mpr fun x hx => List.all_eq_true.mp h x (List.mem_of_mem_filter hx)
  refine ⟨(increasing_iff _).mpr (hsort'.filter _), each hok, each hord, ?_, ?_, ?_, ?_⟩ <;>
    simp only [deleteCue, State.setStore] <;> omega

theorem cueEntries_orderedCue (c : Cue) : cueEntries (orderedCue c) = cueEntries c := by
  simp [cueEntries, orderedCue, (sortBy_perm _ c.patches).length_eq, (sortBy_perm _ c.clicks).length_eq]

theorem poolOf_orderedCue (cues : List Cue) : poolOf (cues.map orderedCue) = poolOf cues := by
  simp [poolOf, Function.comp_def, cueEntries_orderedCue]

theorem storeSound_installImage {i : ShowImage} (s : State) (hi : imageOk i = true) : (installImage i s).StoreSound := by
  simp only [imageOk, Bool.and_eq_true, decide_eq_true_eq] at hi
  obtain ⟨⟨⟨⟨⟨⟨⟨⟨hn, hsort⟩, hok⟩, hpool⟩, -⟩, -⟩, -⟩, -⟩, -⟩ := hi
  rw [increasing_iff] at hsort
  have ok := List.all_eq_true.mp hok
  refine ⟨(increasing_iff _).mpr (List.pairwise_map.mpr hsort), ?_, ?_, by simp [installImage], hn, (poolOf_orderedCue _).symm,
    hpool⟩ <;> simp only [installImage, List.all_map, List.all_eq_true] <;> intro c hc
  · exact orderedCue_ok (ok c hc)
  · exact orderedCue_inOrder (ok c hc)

theorem storeSound_nil {s : State} (h : s.store.cues = []) (hn : s.store.cueCount = 0) (hp : s.store.poolUsed = 0) :
    s.StoreSound := by
  simp [State.StoreSound, h, hn, hp, increasing, poolOf]

theorem store_stable : Stable State.StoreSound where
  keeps h hs := by simpa only [State.StoreSound, h.cues, h.cueCount, h.poolUsed] using hs
  writes hw hs := by
    cases hw with
    | cuePut hr ho => exact storeSound_putCue hr ho hs
    | cueDelete hc _ => exact storeSound_deleteCue hc hs
    | _ => exact hs
  resets _ _ _ _ := storeSound_nil rfl rfl rfl
  installs hi _ := storeSound_installImage _ hi
  empties _ := storeSound_nil rfl rfl rfl
  loads hs := hs

/-- Settles O5: the cue list's soundness is stable. -/
theorem stepKeepsStoreSound : Obligations.StepKeepsStoreSound := fun _ _ hs he => store_stable.step hs he

end Sys2Proof.Proofs

namespace Sys2Proof.Proofs

open Sys2Proof Sys2Proof.Machine

/-! ## The patch map -/

theorem findMap_none {map : List MapEntry} {k p : Nat} : findMap map k p = none ↔ ∀ e ∈ map, ¬(e.station = k ∧ e.patch = p) := by
  simp [findMap]

theorem mem_placeMap {e x : MapEntry} {map : List MapEntry} (h : x ∈ placeMap e map) : x = e ∨ x ∈ map := by
  unfold placeMap at h
  split_ifs at h
  · obtain ⟨d, hd, rfl⟩ := List.mem_map.mp h
    split_ifs
    · exact .inl rfl
    · exact .inr hd
  · simpa [or_comm] using h

theorem placeMap_length {e : MapEntry} {map : List MapEntry} :
    (placeMap e map).length = if (findMap map e.station e.patch).isSome then map.length else map.length + 1 := by
  unfold placeMap
  split <;> simp

theorem placeMap_nodup {e : MapEntry} {map : List MapEntry} (h : (map.map fun e => (e.station, e.patch)).Nodup) :
    ((placeMap e map).map fun e => (e.station, e.patch)).Nodup := by
  unfold placeMap
  split
  · have same : (map.map fun d => if d.station = e.station ∧ d.patch = e.patch then e else d).map (fun e => (e.station, e.patch))
        = map.map fun e => (e.station, e.patch) := by
      rw [List.map_map]
      refine List.map_congr_left fun d _ => ?_
      simp only [Function.comp_apply]
      split_ifs with hd
      · rw [hd.1, hd.2]
      · rfl
    rwa [same]
  case isFalse hn =>
    have hn' := findMap_none.mp (by simpa using hn)
    rw [List.map_append, List.map_singleton, List.nodup_append]
    refine ⟨h, List.nodup_singleton _, fun a ha b hb e' => ?_⟩
    rw [List.mem_singleton] at hb
    obtain ⟨d, hd, rfl⟩ := List.mem_map.mp ha
    rw [hb] at e'
    exact hn' d hd ⟨congrArg Prod.fst e', congrArg Prod.snd e'⟩

theorem map_stable : Stable State.MapSound where
  keeps h hs := by simpa only [State.MapSound, h.map] using hs
  writes hw hs := by
    obtain ⟨hn, hok, hd⟩ := hs
    cases hw with
    | @mapPut t e hp he hr =>
      refine ⟨?_, List.all_eq_true.mpr fun x hx => ?_, placeMap_nodup hd⟩
      · simp only [placeMap_length]
        split
        · exact hn
        case isFalse h => exact hr.resolve_left h
      · rcases mem_placeMap hx with rfl | hx
        · exact he
        · exact List.all_eq_true.mp hok x hx
    | mapDelete _ =>
      exact ⟨(List.length_filter_le _ _).trans hn,
        List.all_eq_true.mpr fun x hx => List.all_eq_true.mp hok x (List.mem_of_mem_filter hx), hd.sublist ((List.filter_sublist).map _)⟩
    | _ => exact ⟨hn, hok, hd⟩
  resets _ _ _ _ := by simp [State.MapSound, State.leavingReset]
  installs hi _ := by
    simp only [imageOk, Bool.and_eq_true, decide_eq_true_eq] at hi
    obtain ⟨⟨⟨⟨⟨-, hn⟩, hd⟩, hok⟩, -⟩, -⟩ := hi
    exact ⟨hn, hok, hd⟩
  empties _ := by simp [State.MapSound, installNothing]
  loads hs := hs

/-! ## The settings -/

theorem readRange_some {lo hi n x : Nat} (h : readRange lo hi n = some x) : lo ≤ x ∧ x ≤ hi := by
  unfold readRange at h
  split_ifs at h with hr
  cases h
  exact hr

theorem masked_ok {α β : Type} {read : α → Option β} {old x : β} {f : Option α} (P : β → Prop)
    (hr : ∀ a y, read a = some y → P y) (ho : P old) (h : masked read old f = some x) : P x := by
  cases f with
  | none => cases h; exact ho
  | some a => exact hr a x h

theorem masked_range {lo hi old x : Nat} {f : Option Nat} (ho : lo ≤ old ∧ old ≤ hi) (h : masked (readRange lo hi) old f = some x) :
    lo ≤ x ∧ x ≤ hi :=
  masked_ok (fun y => lo ≤ y ∧ y ≤ hi) (fun _ _ => readRange_some) ho h

theorem readLevel_some {l : Int} {x : Nat} (h : readLevel l = some x) : x ≤ 60 := by
  unfold readLevel at h
  split_ifs at h with hl
  cases h
  omega

theorem readProtect_ok {m k : Nat} {lo hi : CueNo} {p : Protect} (h : readProtect m lo hi k = some p) : protectOk p = true := by
  unfold readProtect at h
  split at h
  · cases h; rfl
  · split_ifs at h with hr
    cases h
    exact hr
  · cases h; rfl
  · cases h

/-- The settings of a channel within their ranges (R88). -/
def ChannelSettings.Ok (c : ChannelSettings) : Prop := c.down ≤ 60 ∧ c.lead ≤ 100000 ∧ 1 ≤ c.toneSet ∧ c.toneSet ≤ 4

def FollowSettings.Ok (f : FollowSettings) : Prop := 1 ≤ f.m ∧ f.m ≤ 8

def VideoSettings.Ok (v : VideoSettings) : Prop :=
  v.delay ≤ 200000 ∧ (1 ≤ v.pit.length ∧ v.pit.length ≤ 4) ∧ 1 ≤ v.stage.length ∧ v.stage.length ≤ 4

def ShowSettings.Ok (s : ShowSettings) : Prop :=
  s.lookAhead ≤ 4 ∧ (10 ≤ s.lateThreshold ∧ s.lateThreshold ≤ 1000) ∧ s.resumeCountIn ≤ 2 ∧ s.holdCountIn ≤ 2

theorem settingsOk_iff (i : ShowImage) : settingsOk i = true ↔
    i.lead ≤ Config.maxLead ∧ FollowSettings.Ok i.follow ∧ i.channels.length = 16 ∧ (∀ c ∈ i.channels, ChannelSettings.Ok c)
      ∧ VideoSettings.Ok i.video ∧ ShowSettings.Ok i.settings := by
  simp only [settingsOk, Bool.and_eq_true, decide_eq_true_eq, beq_iff_eq, List.all_eq_true, FollowSettings.Ok,
    ChannelSettings.Ok, VideoSettings.Ok, ShowSettings.Ok, and_assoc]

theorem readFollowSet_ok {f : RawFollowSet} {old x : FollowSettings} (ho : FollowSettings.Ok old)
    (h : readFollowSet f old = some x) : FollowSettings.Ok x := by
  simp only [readFollowSet, Option.bind_eq_bind, Option.bind_eq_some_iff, Option.pure_def, Option.some.injEq] at h
  obtain ⟨_, -, _, -, _, hm, rfl⟩ := h
  exact masked_range ho hm

theorem readShowSet_ok {f : RawShowSet} {old x : ShowSettings} (ho : ShowSettings.Ok old)
    (h : readShowSet f old = some x) : ShowSettings.Ok x := by
  simp only [readShowSet, Option.bind_eq_bind, Option.bind_eq_some_iff, Option.pure_def, Option.some.injEq] at h
  obtain ⟨_, -, _, hl, _, ht, _, hr, _, hh, rfl⟩ := h
  obtain ⟨ol, ot, or, oh⟩ := ho
  exact ⟨(masked_range ⟨Nat.zero_le _, ol⟩ hl).2, masked_range ot ht, (masked_range ⟨Nat.zero_le _, or⟩ hr).2,
    (masked_range ⟨Nat.zero_le _, oh⟩ hh).2⟩

theorem readVideoSet_ok {f : RawVideoSet} {old x : VideoSettings} (ho : VideoSettings.Ok old)
    (h : readVideoSet f old = some x) : VideoSettings.Ok x := by
  simp only [readVideoSet, Option.bind_eq_bind, Option.bind_eq_some_iff, Option.pure_def, Option.some.injEq] at h
  obtain ⟨_, -, _, -, _, hd, _, -, _, -, _, -, _, -, _, hp, _, hs, rfl⟩ := h
  obtain ⟨od, op, os⟩ := ho
  exact ⟨(masked_range ⟨Nat.zero_le _, od⟩ hd).2, masked_range op hp, masked_range os hs⟩

theorem readChannelSet_ok {f : RawChannelSet} {old : ChannelSettings} {o : Override} {x : ChannelSettings × Override}
    (ho : ChannelSettings.Ok old) (h : readChannelSet f old o = some x) : ChannelSettings.Ok x.1 := by
  simp only [readChannelSet, Option.bind_eq_bind, Option.bind_eq_some_iff, Option.pure_def, Option.some.injEq] at h
  obtain ⟨_, -, _, hd, _, hl, _, -, _, ht, _, -, rfl⟩ := h
  obtain ⟨od, ol, ot⟩ := ho
  exact ⟨masked_ok (· ≤ 60) (fun _ _ => readLevel_some) od hd, (masked_range ⟨Nat.zero_le _, ol⟩ hl).2, masked_range ot ht⟩

theorem adaptiveChange_settings (a b : TimeConstant) (k : Follower) : (adaptiveChange a b k).settings = k.settings := by
  unfold adaptiveChange
  split_ifs <;> rfl

theorem initialSettings_ok : Config.defaultLead ≤ Config.maxLead ∧ FollowSettings.Ok FollowSettings.initial
    ∧ ChannelSettings.Ok ChannelSettings.initial ∧ VideoSettings.Ok VideoSettings.initial ∧ ShowSettings.Ok ShowSettings.initial := by
  unfold FollowSettings.Ok ChannelSettings.Ok VideoSettings.Ok ShowSettings.Ok
  decide

theorem mem_modify {α : Type} {l : List α} {i : Nat} {f : α → α} {x : α} (h : x ∈ l.modify i f) :
    (∃ y, l[i]? = some y ∧ x = f y) ∨ x ∈ l := by
  obtain ⟨j, hj, rfl⟩ := List.mem_iff_getElem.mp h
  rw [List.getElem_modify]
  rw [List.length_modify] at hj
  split_ifs with hi
  · subst hi
    exact .inl ⟨l[i], List.getElem?_eq_getElem hj, rfl⟩
  · exact .inr (List.getElem_mem hj)

/-- The image of a state whose show is kept. -/
theorem KeepsShow.image {s u : State} (h : KeepsShow s u) (hc : s.channels.length = 16) : imageOf u = imageOf s := by
  simp only [imageOf, h.cues, h.map, h.protect, h.lead, h.follow, h.video, h.settings, h.channels hc]

theorem settings_stable : Stable State.SettingsSound where
  keeps h := fun ⟨hp, hs⟩ => by
    have hn := ((settingsOk_iff _).mp hs).2.2.1
    exact ⟨by rwa [h.protect], by rwa [h.image (by simpa [imageOf] using hn)]⟩
  writes hw := fun ⟨hp, hs⟩ => by
    rw [settingsOk_iff] at hs
    obtain ⟨hl, hf, hn, hc, hv, hq⟩ := hs
    simp only [State.SettingsSound, settingsOk_iff]
    cases hw with
    | protectSet hr => exact ⟨readProtect_ok hr, hl, hf, hn, hc, hv, hq⟩
    | showSet _ hr => exact ⟨hp, hl, hf, hn, hc, hv, readShowSet_ok hq hr⟩
    | followSet _ hr => exact ⟨hp, hl, readFollowSet_ok hf hr, hn, hc, hv, hq⟩
    | clockSet _ hr => exact ⟨hp, hr, hf, hn, hc, hv, hq⟩
    | @channelSet t n f i x o _ hr =>
      simp only [imageOf, List.mem_map, List.length_map, forall_exists_index, and_imp, forall_apply_eq_imp_iff₂] at hc hn
      refine ⟨hp, hl, hf, by simpa [imageOf] using hn, ?_, hv, hq⟩
      simp only [imageOf, List.mem_map, forall_exists_index, and_imp, forall_apply_eq_imp_iff₂]
      intro c h
      rcases mem_modify h with ⟨y, -, rfl⟩ | h
      · refine readChannelSet_ok (hc _ ?_) hr
        rw [State.channel, List.getD_eq_getElem _ _ (by omega)]
        exact List.getElem_mem _
      · exact hc c h
    | videoSet _ hr => exact ⟨hp, hl, hf, hn, hc, readVideoSet_ok hv hr, hq⟩
    | _ => exact ⟨hp, hl, hf, hn, hc, hv, hq⟩
  resets _ _ _ _ := ⟨rfl, show settingsOk (imageOf State.reset) = true from by decide⟩
  installs {i s} hi := fun ⟨_, hs⟩ => by
    simp only [imageOk, Bool.and_eq_true, decide_eq_true_eq] at hi
    obtain ⟨⟨-, hp'⟩, hs'⟩ := hi
    have hn := ((settingsOk_iff _).mp hs).2.2.1
    have hn' := ((settingsOk_iff _).mp hs').2.2.1
    have same : (installImage i s).channels.map (·.settings) = i.channels := by
      rw [installImage, List.map_zipWith]
      refine List.ext_getElem ?_ fun j h₁ h₂ => by simp
      simp only [imageOf, List.length_map] at hn
      simp [hn, hn']
    refine ⟨hp', ?_⟩
    rw [settingsOk_iff] at hs' ⊢
    simp only [imageOf, same]
    exact hs'
  empties {s} := fun ⟨_, hs⟩ => by
    have hn := ((settingsOk_iff _).mp hs).2.2.1
    obtain ⟨hl, hf, hc, hv, hq⟩ := initialSettings_ok
    refine ⟨rfl, (settingsOk_iff _).mpr ⟨hl, hf, by simpa [installNothing, imageOf] using hn, ?_, hv, hq⟩⟩
    simp only [installNothing, imageOf, raise, List.mem_map, forall_exists_index, and_imp, forall_apply_eq_imp_iff₂]
    exact fun _ _ => hc
  loads hs := hs

/-- Settles O6: the map's and the settings' soundness are stable. -/
theorem stepKeepsMapAndSettingsSound : Obligations.StepKeepsMapAndSettingsSound :=
  ⟨fun _ _ hs he => map_stable.step hs he, fun _ _ hs he => settings_stable.step hs he⟩

end Sys2Proof.Proofs

namespace Sys2Proof.Proofs

open Sys2Proof Sys2Proof.Machine

/-! ## A store freezes the image, protect mode ALL list and map -/

theorem KeepsShow.sized {s u : State} (h : KeepsShow s u) (hs : s.Sized) : u.Sized := sized_stable.keeps h hs

/-- A powered part that serves takes every command but the loss of power as one of the moves. -/
theorem exec_moves {c : Instr} {s u : State} (hl : s.loading = false) (h₁ : ∀ a b, c ≠ .powerOn a b) (h₂ : ∀ m, c ≠ .powerLost m)
    (he : exec c s = .next u) : Moves s u := by
  rw [exec_eq c s h₁] at he
  cases he
  split
  · by_cases h₃ : ∃ t a, c = .imageLoadEnd t a
    · obtain ⟨t, a, rfl⟩ := h₃
      change Moves s (endLoad a (s.goTo t))
      unfold endLoad
      rw [if_neg (show ¬(s.goTo t).loading = true from Bool.eq_false_iff.mp hl)]
      exact .keeps (KeepsShow.goTo t s)
    · push Not at h₃
      exact taken_moves c s h₁ h₂ h₃
  · exact .keeps (KeepsShow.refl s)

/-- A masked set that selects nothing leaves the settings. -/
theorem readShowSet_unselected {f : RawShowSet} {old x : ShowSettings} (h : RawShowSet.selects f = false)
    (hr : readShowSet f old = some x) : x = old := by
  simp only [RawShowSet.selects, Bool.or_eq_false_iff, Option.isSome_eq_false_iff, Option.isNone_iff_eq_none] at h
  simpa [readShowSet, h, masked] using hr.symm

theorem readFollowSet_unselected {f : RawFollowSet} {old x : FollowSettings} (h : RawFollowSet.selects f = false)
    (hr : readFollowSet f old = some x) : x = old := by
  simp only [RawFollowSet.selects, Bool.or_eq_false_iff, Option.isSome_eq_false_iff, Option.isNone_iff_eq_none] at h
  simpa [readFollowSet, h, masked] using hr.symm

theorem readVideoSet_unselected {f : RawVideoSet} {old x : VideoSettings} (h : RawVideoSet.selects f = false)
    (hr : readVideoSet f old = some x) : x = old := by
  simp only [RawVideoSet.selects, Bool.or_eq_false_iff, Option.isSome_eq_false_iff, Option.isNone_iff_eq_none] at h
  simpa [readVideoSet, h, masked] using hr.symm

theorem readChannelSet_unselected {f : RawChannelSet} {old : ChannelSettings} {o : Override} {x : ChannelSettings × Override}
    (h : RawChannelSet.selectsStored f = false) (hr : readChannelSet f old o = some x) : x.1 = old := by
  simp only [RawChannelSet.selectsStored, Bool.or_eq_false_iff, Option.isSome_eq_false_iff, Option.isNone_iff_eq_none] at h
  simp only [readChannelSet, h, masked, Option.bind_eq_bind, Option.bind_some, Option.pure_def, Option.bind_eq_some_iff,
    Option.some.injEq] at hr
  obtain ⟨_, -, rfl⟩ := hr
  rfl

theorem map_modify_settings {l : List Channel} {i : Nat} {f : Channel → Channel} {d : Channel} (hi : i < l.length)
    (h : (f (l.getD i d)).settings = (l.getD i d).settings) : (l.modify i f).map (·.settings) = l.map (·.settings) := by
  refine List.ext_getElem (by simp) fun j h₁ h₂ => ?_
  simp only [List.getElem_map, List.getElem_modify]
  split_ifs with e
  · subst e
    rwa [List.getD_eq_getElem _ _ hi] at h
  · rfl

/-- No write of an edit that a part may take during a store changes the image. -/
theorem Writes.image {s u : State} {c : Instr} (h : Writes s c u) (hb : needsNoStore c = true → s.storing = false)
    (hs : s.storing = true) (hn : s.channels.length = 16) : imageOf u = imageOf s := by
  have busy {b : Bool} (h : b = true → s.storing = false) : b = false := by
    cases b
    · rfl
    · rw [h rfl] at hs; cases hs
  have none {c : Instr} (h : needsNoStore c = true → s.storing = false) (hc : needsNoStore c = true) : imageOf u = imageOf s := by
    rw [h hc] at hs; cases hs
  cases h with
  | cuePut _ _ | cueDelete _ _ | mapPut _ _ _ | mapDelete _ | protectSet _ => exact none hb rfl
  | clockSet h _ => rw [h] at hs; cases hs
  | showSet h hr => rw [readShowSet_unselected (busy h) hr]; rfl
  | followSet h hr => rw [readFollowSet_unselected (busy h) hr]; rfl
  | videoSet h hr => rw [readVideoSet_unselected (busy h) hr]; rfl
  | @channelSet _ _ _ i x o h hr =>
    have hx := readChannelSet_unselected (busy h) hr
    simp only [imageOf, State.setChannel_channels]
    rw [map_modify_settings (d := Channel.initial) (by omega) hx]
    rfl

/-- Settles O10: the edits that write an item are refused during a store, and nothing else writes one. -/
theorem storeFreezesTheImage : Obligations.StoreFreezesTheImage := by
  intro c s u hsz hserve hst h₁ h₂ he
  have hn := hsz.2.1
  cases exec_moves hserve.2 h₁ h₂ he with
  | keeps k => exact k.image hn
  | edits e m w hl hm hs hb hw hu =>
    have hst' : m.storing = true := by rwa [State.storing, hs]
    have hn' := hm.channels_length hn
    have hi := hw.image hb hst' hn'
    have hnw : w.channels.length = 16 := by
      have := congrArg (·.channels.length) hi
      simpa [imageOf, hn'] using this
    rw [hu.image hnw, hi, hm.image hn]

/-- Settles O11: the edits of list and map are refused in mode ALL, and nothing else writes either. -/
theorem protectAllFreezesListAndMap : Obligations.ProtectAllFreezesListAndMap := by
  intro c s u hp hl h₁ h₂ he
  cases exec_moves hl h₁ h₂ he with
  | keeps k => exact ⟨k.cues, k.cueCount, k.poolUsed, k.map⟩
  | edits e m w _ hm _ _ hw hu =>
    have hp' : m.store.protect.mode = .all := by rw [hm.protect, hp]
    have same : w.store.cues = m.store.cues ∧ w.store.cueCount = m.store.cueCount ∧ w.store.poolUsed = m.store.poolUsed
        ∧ w.map = m.map := by
      cases hw with
      | cuePut _ ho =>
        have := (putRefusal_none ho).1
        simp [protectsCue, hp'] at this
      | cueDelete _ h => simp [protectsCue, hp'] at h
      | mapPut h _ _ | mapDelete h => simp [protectsMap, hp'] at h
      | _ => exact ⟨rfl, rfl, rfl, rfl⟩
    obtain ⟨hc, hn, hpool, hmap⟩ := same
    exact ⟨hu.cues.trans (hc.trans hm.cues), hu.cueCount.trans (hn.trans hm.cueCount),
      hu.poolUsed.trans (hpool.trans hm.poolUsed), hu.map.trans (hmap.trans hm.map)⟩

/-! ## The queue and every command's next state -/

/-- Settles O1: the two cases of `step`. -/
theorem stepTakesTheFrontCommand : Obligations.StepTakesTheFrontCommand := by
  refine ⟨fun s c rest h => ?_, fun s h => ?_⟩ <;> simp only [Machine.step, h]

theorem now_le_taken (c : Instr) (s : State) (h₁ : ∀ a b, c ≠ .powerOn a b) (h₂ : ∀ m, c ≠ .powerLost m) : s.now ≤ (taken c s).now := by
  by_cases h₃ : ∃ t a, c = .imageLoadEnd t a
  · obtain ⟨t, a, rfl⟩ := h₃
    change s.now ≤ (endLoad a (s.goTo t)).now
    cases hl : (s.goTo t).loading with
    | false =>
      unfold endLoad
      rw [if_neg (Bool.eq_false_iff.mp hl)]
      exact (KeepsShow.goTo t s).now
    | true =>
      obtain ⟨m, w, hm, hw, hu⟩ := endLoad_keeps a hl
      have hwm : w.now = m.now := by rcases hw with ⟨i, -, rfl⟩ | rfl <;> rfl
      have : (endLoad a (s.goTo t)).now = w.now := hu.now
      rw [this, hwm]
      exact (KeepsShow.goTo t s).now.trans hm.now
  · push Not at h₃
    cases taken_moves c s h₁ h₂ h₃ with
    | keeps k => exact k.now
    | edits e m w _ hm _ _ hw hu =>
      have hwm : w.now = m.now := by cases hw <;> rfl
      exact hm.now.trans (hwm ▸ hu.now)

theorem exec_of_request {c : Instr} {r : Bool × (State → State × Answer)} (h : requestOf c = some r) :
    ∃ t, ∀ s, exec c s = request t r.1 r.2 s := by
  cases c <;> cases h <;> exact ⟨_, fun _ => rfl⟩

theorem request_not_in_load {c : Instr} {r : Bool × (State → State × Answer)} (h : requestOf c = some r)
    (hs : servedInLoad c = false) : r.1 = false := by
  cases c <;> simp_all [requestOf, servedInLoad] <;> simp [← h]

/-- Settles O2: every command takes effect at its show time, and the load answers BUSY. -/
theorem everyCommandAnswersANextState : Obligations.EveryCommandAnswersANextState := by
  refine ⟨exec_next, fun c s hp h₁ => ?_, fun c s u h₁ h₂ he => ?_, fun c s hp hl hr hs => ?_⟩
  · rw [exec_eq c s h₁, if_neg (Bool.eq_false_iff.mp hp)]
  · rw [exec_eq c s h₁] at he
    cases he
    split
    · exact now_le_taken c s h₁ h₂
    · exact le_rfl
  · obtain ⟨r, hr⟩ := Option.isSome_iff_exists.mp hr
    obtain ⟨t, ht⟩ := exec_of_request hr
    refine ⟨t, ?_⟩
    rw [ht, request_not_in_load hr hs, request_while_loading t hp hl]

end Sys2Proof.Proofs

namespace Sys2Proof.Proofs

open Sys2Proof Sys2Proof.Machine

/-! ## Power and reset -/

theorem baud_lineRate (a b : Bool) :
    (lineRate a b).baud = if a then (if b then 921600 else 460800) else (if b then 230400 else 115200) := by
  cases a <;> cases b <;> rfl

/-- A part that leaves its reset, with power or without. -/
def restarted (q : List Instr) (f : FlashArea) (r : LineRate) (b : Bool) : State :=
  { State.leavingReset q f r with powered := b }

section
variable (q : List Instr) (f : FlashArea) (r : LineRate) (b : Bool)

theorem restarted_copies : (restarted q f r b).CopiesAgree := ⟨rfl, rfl, rfl, rfl⟩

theorem restarted_pointer : (restarted q f r b).PointerSound := by
  refine ⟨fun n h => ?_, fun n h => ?_, fun _ => ⟨rfl, rfl⟩⟩ <;> cases h

theorem restarted_stop : (restarted q f r b).StopSound := by
  refine ⟨fun h => ?_, fun h => ?_⟩ <;> cases h

theorem restarted_station (i : Fin 6) : (restarted q f r b).station i = Station.initial := by
  fin_cases i <;> rfl

theorem restarted_words (i : Fin 6) : (restarted q f r b).words i = { online := false, excluded := false } := by
  fin_cases i <;> rfl

theorem initial_bare : Station.initial.Bare := by simp [Station.Bare, Station.initial]

theorem restarted_stations : (restarted q f r b).StationsSound := by
  intro st hst
  obtain rfl : st = Station.initial := List.eq_of_mem_replicate hst
  refine ⟨fun _ => rfl, fun _ => initial_bare, ?_, ?_, ?_, ?_⟩
  · intro j h
    exact absurd h (Nat.not_lt_zero j)
  · simp [Station.SlotsDistinct, Station.initial]
  · simp [Station.TargetsResident, Station.initial]
  · simp [Station.SwitchPlaced, Station.initial]

theorem restarted_ready : (restarted q f r b).ReadySound := by
  have quiet : (restarted q f r b).stop.st.rebuilds = false := rfl
  refine ⟨fun _ => quiet, fun h => absurd h (by simp [quiet]), fun i => ?_⟩
  rw [restarted_station, restarted_words]
  exact ⟨fun h => absurd h (by simp [Station.initial]), rfl, fun h => absurd h (by simp [quiet])⟩

end

/-- The properties that every step keeps hold after reset. -/
theorem reset_sound : State.reset.Sized ∧ State.reset.StoreSound ∧ State.reset.MapSound ∧ State.reset.SettingsSound
    ∧ State.reset.CopiesAgree ∧ State.reset.PointerSound ∧ State.reset.StopSound ∧ State.reset.StationsSound
    ∧ State.reset.ReadySound ∧ State.reset.LinkSound :=
  ⟨sized_stable.resets _ _ _ true, store_stable.resets _ _ _ true, map_stable.resets _ _ _ true,
    settings_stable.resets _ _ _ true, restarted_copies _ _ _ true, restarted_pointer _ _ _ true, restarted_stop _ _ _ true,
    restarted_stations _ _ _ true, restarted_ready _ _ _ true, link_stable.resets _ _ _ true⟩

theorem flashAtLoss_none (w : Bool) {s : State} (h : s.store.job = none) : flashAtLoss w s = s.flash := by
  unfold flashAtLoss
  rw [h]

theorem flashAtLoss_some (w : Bool) {s : State} {j : StoreJob} (h : s.store.job = some j) :
    flashAtLoss w s = { s.flash with marker := if j.stage = .mark ∧ w = true then true else false } := by
  unfold flashAtLoss
  rw [h]
  dsimp only
  split_ifs <;> rfl

/-- Settles O3: both commands of power leave the state of `leavingReset`, whose values are those of the blocks' `initial`. -/
theorem powerOnResetAndLoss : Obligations.PowerOnResetAndLoss := by
  refine ⟨⟨fun s a b => ⟨lineRate a b, rfl, baud_lineRate a b⟩, fun s written hp => ?_⟩, ?_, reset_sound⟩
  · change whenPowered (losePower written) s = _
    rw [whenPowered_on hp, losePower]
    cases hj : s.store.job with
    | none => rw [flashAtLoss_none _ hj]; rfl
    | some j => rw [flashAtLoss_some _ hj]; rfl
  · refine ⟨rfl, rfl, rfl, rfl, rfl, rfl, rfl, rfl, rfl, rfl, rfl, ?_⟩
    decide

/-! ## The desk lines -/

theorem hasHeld_goTo {need held t : Nat} {s : State} : (s.goTo t).hasHeld need held = true ↔ need ≤ held ∧ need ≤ max s.now t := by
  simp [State.hasHeld, State.goTo]

theorem deskEdge_off {l : DeskLine} {held : Nat} {f : State → State} {s : State}
    (h : s.hasHeld Config.deskDebounce held = false ∨ s.desk.level l = true) : deskEdge l held f s = s := by
  unfold deskEdge
  rcases h with h | h <;> simp [h]

theorem deskEdge_loading {l : DeskLine} {t held : Nat} {f : State → State} {s : State} (h : DeskEdge l t held s) (hl : s.loading = true) :
    deskEdge l held f (s.goTo t) = (s.goTo t).setDesk (Desk.take true l) := by
  obtain ⟨h₁, h₂, h₃⟩ := h
  have hh : (s.goTo t).hasHeld Config.deskDebounce held = true := hasHeld_goTo.mpr ⟨h₁, h₂⟩
  simp only [deskEdge, hh, State.goTo_desk, h₃, Bool.not_false, Bool.and_self, if_true]
  exact if_pos hl

/-- Settles O28: the debounce is the test of `deskEdge`, and the load ignores the edge. -/
theorem deskLinesAreDebounced : Obligations.DeskLinesAreDebounced := by
  intro s t held hp
  have short (h : held < 10000 ∨ max s.now t < 10000) : (s.goTo t).hasHeld Config.deskDebounce held = false := by
    rw [Bool.eq_false_iff, ne_eq, hasHeld_goTo]
    simp only [Config.deskDebounce]
    omega
  have off {l : DeskLine} {f : State → State} (h : (s.goTo t).hasHeld Config.deskDebounce held = false ∨ s.desk.level l = true) :
      event t (deskEdge l held f) s = .next (s.goTo t) := by
    rw [event_on _ hp, deskEdge_off h]
  have load {l : DeskLine} {f : State → State} (h : DeskEdge l t held s) (hl : s.loading = true) :
      event t (deskEdge l held f) s = .next ((s.goTo t).setDesk (Desk.take true l)) := by
    rw [event_on _ hp, deskEdge_loading h hl]
  have release (l : DeskLine) : exec (.deskLineRelease t l held) s
      = .next (if (s.goTo t).hasHeld Config.deskDebounce held then (s.goTo t).setDesk (Desk.take false l) else s.goTo t) :=
    event_on _ hp
  refine ⟨fun h₁ h₂ => ?_, fun h => ⟨fun l => ?_, off (.inl (short h)), off (.inl (short h)), off (.inl (short h)), off (.inl (short h))⟩,
    fun h => off (.inr h), fun h => off (.inr h), fun h => off (.inr h), fun h => off (.inr h),
    fun hl => ⟨fun h => load h hl, fun h => load h hl, fun h => load h hl, fun h => load h hl⟩⟩
  · have hh : (s.goTo t).hasHeld Config.deskDebounce held = true := hasHeld_goTo.mpr ⟨h₁, h₂⟩
    simp only [release, hh, if_true]
    exact ⟨rfl, rfl, rfl, rfl⟩
  · rw [release, short h]
    rfl

end Sys2Proof.Proofs

namespace Sys2Proof.Proofs

open Sys2Proof Sys2Proof.Machine

/-! ## What only the overlay, and only the follower, writes -/

/-- The state but for the overlay and the conditions. -/
def sansVideo (s : State) : State := { s with video := Video.initial, attention := [] }

/-- The state but for the follower and the conditions. -/
def sansFollower (s : State) : State := { s with follower := Follower.initial, attention := [] }

@[simp] theorem sansVideo_raise (r : CondRecord) (s : State) : sansVideo (raise r s) = sansVideo s := rfl
@[simp] theorem sansVideo_setVideo (f : Video → Video) (s : State) : sansVideo (s.setVideo f) = sansVideo s := rfl

@[simp] theorem sansVideo_genlockGoes (g : Genlock) (s : State) : sansVideo (genlockGoes g s) = sansVideo s := by
  unfold genlockGoes; split <;> simp

@[simp] theorem sansVideo_loseOutput (s : State) : sansVideo (loseOutput s) = sansVideo s := rfl

@[simp] theorem sansVideo_loseLineLock (s : State) : sansVideo (loseLineLock s) = sansVideo s := by simp [loseLineLock]

@[simp] theorem sansVideo_leaveLocked (n : Nat) (r : Option Rate) (s : State) : sansVideo (leaveLocked n r s) = sansVideo s := by
  simp [leaveLocked]

@[simp] theorem sansVideo_judgeLine (good : Bool) (s : State) : sansVideo (judgeLine good s) = sansVideo s := by
  unfold judgeLine
  extract_lets counts m n
  cases s.video.genlock
  case noSignal => rfl
  all_goals dsimp only; split <;> simp [m, n]

@[simp] theorem sansVideo_seekField (r : Option Rate) (s : State) : sansVideo (seekField r s) = sansVideo s := by
  unfold seekField
  extract_lets m
  split
  · split <;> simp [m]
  · simp

@[simp] theorem sansVideo_lockedField (r : Option Rate) (s : State) : sansVideo (lockedField r s) = sansVideo s := by
  unfold lockedField
  split
  · split <;> simp
  · extract_lets m
    split <;> simp [m]

@[simp] theorem sansVideo_startField (ref : Nat) (s : State) : sansVideo (startField ref s) = sansVideo s := rfl
@[simp] theorem sansVideo_retimeField (ref : Nat) (s : State) : sansVideo (retimeField ref s) = sansVideo s := rfl

@[simp] theorem sansVideo_takeFieldStart (before : Genlock) (ref : Nat) (s : State) :
    sansVideo (takeFieldStart before ref s) = sansVideo s := by
  unfold takeFieldStart
  extract_lets ended rate awaited nominal m n
  have hm : sansVideo m = sansVideo s := rfl
  have hn : sansVideo n = sansVideo s := by rw [← hm]; unfold n; split <;> simp
  rw [← hn]
  split
  · split
    · simp
    · split <;> simp
  · simp
  · rfl

@[simp] theorem sansVideo_takeSync (ref : Nat) (b : Bool) (s : State) : sansVideo (takeSync ref b s) = sansVideo s := by
  unfold takeSync
  extract_lets before good m n
  have hm : sansVideo m = sansVideo s := by unfold m; cases before <;> simp
  have hn : sansVideo n = sansVideo s := by simp [n, hm]
  split <;> simp [hn]

@[simp] theorem sansVideo_loseSync (s : State) : sansVideo (loseSync s) = sansVideo s := by simp [loseSync]
@[simp] theorem sansVideo_generatorField (s : State) : sansVideo (generatorField s) = sansVideo s := by simp [generatorField]
@[simp] theorem sansVideo_missField (s : State) : sansVideo (missField s) = sansVideo s := by simp [missField]

@[simp] theorem sansVideo_applyRateSetting (s : State) : sansVideo (applyRateSetting s) = sansVideo s := by
  unfold applyRateSetting
  split
  · split <;> simp
  · split <;> simp
  · rfl

@[simp] theorem sansFollower_raise (r : CondRecord) (s : State) : sansFollower (raise r s) = sansFollower s := rfl
@[simp] theorem sansFollower_setFollower (f : Follower → Follower) (s : State) : sansFollower (s.setFollower f) = sansFollower s :=
  rfl

@[simp] theorem sansFollower_followerGoes (st : FollowerSt) (s : State) : sansFollower (followerGoes st s) = sansFollower s := by
  unfold followerGoes; split <;> simp

@[simp] theorem sansFollower_missBeat (s : State) : sansFollower (missBeat s) = sansFollower s := by
  unfold missBeat
  extract_lets m n
  split
  · simp [m]
  · split <;> simp [m, n, enterCoasting]
  · simp [m]

@[simp] theorem sansFollower_closeWindow (s : State) : sansFollower (closeWindow s) = sansFollower s := by
  unfold closeWindow
  split
  · split
    · dsimp only
      split <;> simp
    · rfl
  · rfl

@[simp] theorem sansFollower_judgeWindow (s : State) : sansFollower (judgeWindow s) = sansFollower s := by
  unfold judgeWindow
  split
  · split <;> simp
  · rfl

/-! ## The deeds of a command

What a command does to the blocks of the show, as a chain of orders of the model. A promise that each of these orders keeps is kept
by every command; what a command does besides (`Aside`) is beside the point of the promises about copies, clock and stations. -/

/-- Only the time, the desk, the link, the flash, the map, conditions, settings, the follower or the drawing of the outputs
differ. -/
structure Aside (s u : State) : Prop where
  loading : u.loading = s.loading
  cues : u.store.cues = s.store.cues
  seq : { u.seq with settings := s.seq.settings } = s.seq
  clock : { u.clock with lead := s.clock.lead, vamp := s.clock.vamp } = s.clock
  bursts : u.channels.map (·.bursts) = s.channels.map (·.bursts)
  handed : { u.video.content with displayed := none } = { s.video.content with displayed := none }
  stations : u.stations = s.stations
  stop : u.stop = s.stop
  conditions : u.attention.length = s.attention.length

theorem Aside.refl (s : State) : Aside s s := ⟨rfl, rfl, rfl, rfl, rfl, rfl, rfl, rfl, rfl⟩

theorem Aside.ite {s a b : State} {c : Prop} [Decidable c] (ha : Aside s a) (hb : Aside s b) : Aside s (if c then a else b) := by
  split
  · exact ha
  · exact hb

/-- The fields of a station that no promise speaks of. -/
def Minor (f : Station → Station) : Prop :=
  ∀ st, { f st with
    lateOverride := st.lateOverride, victim := st.victim, queryDue := st.queryDue, queryAt := st.queryAt
    lastSwitch := st.lastSwitch, hostPins := st.hostPins, failed := st.failed, pressure := st.pressure, faults := st.faults
    protoErrors := st.protoErrors, sending := st.sending, ahead := st.ahead, standbyTarget := st.standbyTarget
    receiver := st.receiver } = st

/-- An order of the model that a command gives, in the state that it finds. -/
inductive Deed (s : State) : State → Prop
  | aside {u : State} (h : Aside s u) : Deed s u
  | restart (hl : s.loading = false) : Deed s (restartShow s)
  | edit (hl : s.loading = false) (change : ListChange) (x : CueStore) :
      Deed s (listChanged (nextCue s) change { s with store := x })
  | mapEdit (hl : s.loading = false) (i : Fin 6) (p : Nat) (d : Bool) (map : List MapEntry) :
      Deed s (mapChanged i p d { s with map := map })
  | setLatch (hl : s.loading = false) (n : CueNo) (hn : nextCue s = some n) : Deed s (setLatch n s)
  | withdraw : Deed s (withdrawLatch s)
  | jump (hl : s.loading = false) (n : CueNo) (hn : (findCue s.store.cues n).isSome = true) : Deed s (takeJump n s)
  | handOver : Deed s (handOver s)
  | go (hl : s.loading = false) (src : FireSource) : Deed s (takeGo src s).1
  | hold (hl : s.loading = false) : Deed s (takeHold s).1
  | stop (hl : s.loading = false) (src : Source) : Deed s (takeStop src s)
  | resume (hl : s.loading = false) (bar : Option Nat) (c : Cue) (hst : s.stop.st = .stopped ∨ s.stop.st.rebuilds = true)
      (hc : findCue s.store.cues c.number = some c) : Deed s (takeResumePoint bar c s)
  | channel (i : Fin 16) (x : ChannelSettings) (o : Override) : Deed s (drainReport (s.setChannel i (writeChannel x o)))
  | pulse : Deed s (afterCommit (takePulse s))
  | commit (hb : s.clock.st.beats = true) : Deed s (afterCommit (commitScheduled s))
  | recommit : Deed s (afterCommit (commitIfDue s))
  | timer : Deed s (timerExpires s)
  | burstStart (i : Fin 16) : Deed s (burstStarts i s)
  | burstEnd (i : Fin 16) : Deed s (burstEnds i s)
  | rise (i : Fin 6) : Deed s (presentRises i s)
  | fall (i : Fin 6) : Deed s (presentFalls i s)
  | minor (i : Fin 6) (f : Station → Station) (hf : Minor f) : Deed s (s.setStation i f)
  | flush (hl : s.loading = false) (i : Fin 6) : Deed s (s.setStation i Station.flushed)
  | recompute (hl : s.loading = false) (i : Fin 6) : Deed s (recompute false i s)
  | reset (hl : s.loading = false) (i : Fin 6) : Deed s (resetStation i s)
  | exclude (hl : s.loading = false) (i : Fin 6) (e : Bool) : Deed s (changeExcluded i e s)
  | hello (hl : s.loading = false) (i : Fin 6) (n : Nat) : Deed s (takeHello i n s)
  | loaded (i : Fin 6) (o : OutLoad) (ho : (s.station i).outLoad = some o) : Deed s (takeLoaded i o s)
  | failLoad (i : Fin 6) (kind : FaultKind) (o : OutLoad) (ho : (s.station i).outLoad = some o) : Deed s (failLoad i kind o s)
  | selected (i : Fin 6) (k : Nat) (hk : ∃ o, (s.station i).outSelect = some o ∧ o.slot = k) : Deed s (takeSelected i k s)
  | failSelect (i : Fin 6) (k : Nat) (hk : ∃ o, (s.station i).outSelect = some o ∧ o.slot = k) : Deed s (failSelect i k s)
  | send (hl : s.loading = false) (i : Fin 6) : Deed s (sendNext i s)
  | sent (i : Fin 6) : Deed s (frameEnds i s)
  | load (a : FlashAnswer) (hl : s.loading = true) : Deed s (endLoad a s)

/-- A chain of deeds. -/
def Deeds : State → State → Prop := Relation.ReflTransGen Deed

namespace Deeds

theorem refl (s : State) : Deeds s s := Relation.ReflTransGen.refl

theorem one {s u : State} (h : Deed s u) : Deeds s u := .single h

theorem aside {s u : State} (h : Aside s u) : Deeds s u := one (.aside h)

theorem trans {s u v : State} (h : Deeds s u) (k : Deeds u v) : Deeds s v := Relation.ReflTransGen.trans h k

theorem ite {s a b : State} {c : Prop} [Decidable c] (ha : Deeds s a) (hb : Deeds s b) : Deeds s (if c then a else b) := by
  split
  · exact ha
  · exact hb

/-- What each deed keeps, a chain keeps. -/
theorem keep {P : State → Prop} (h : ∀ {s u}, Deed s u → P s → P u) {s u : State} (hd : Deeds s u) (hs : P s) : P u := by
  induction hd with
  | refl => exact hs
  | tail _ hd ih => exact h hd ih

/-! ### Writes beside the show -/

theorem goTo (t : Nat) (s : State) : Deeds s (s.goTo t) := aside { Aside.refl s with }

theorem setLink (f : Link → Link) (s : State) : Deeds s (s.setLink f) := aside { Aside.refl s with }

theorem raise (r : CondRecord) (s : State) : Deeds s (raise r s) := aside { Aside.refl s with conditions := by simp }

theorem setDesk (f : Desk → Desk) (s : State) : Deeds s (s.setDesk f) := aside { Aside.refl s with }

theorem keepReply (r : State × Answer) : Deeds r.1 (keepReply r) := aside { Aside.refl r.1 with }

theorem endStore (ok : Bool) (s : State) : Deeds s (endStore ok s) :=
  trans (u := s.setStore fun x => { x with job := none, lastImage := if ok then .ok else .failed }) (aside { Aside.refl s with })
    (raise _ _)

theorem goStage (st : StoreStage) (s : State) : Deeds s (goStage st s) := aside { Aside.refl s with }

theorem setFlash (f : FlashArea) (s : State) : Deeds s { s with flash := f } := aside { Aside.refl s with }

theorem eraseDone (s : State) : Deeds s (eraseDone s) := by
  unfold Machine.eraseDone
  split
  · exact goStage _ s
  · exact refl s

theorem programDone (s : State) : Deeds s (programDone s) := by
  unfold Machine.programDone
  split
  · exact (setFlash _ s).trans (goStage _ _)
  · exact refl s

theorem verifyDone (b : Bool) (s : State) : Deeds s (verifyDone b s) := by
  unfold Machine.verifyDone
  split
  · exact ite (goStage _ s) ((setFlash _ s).trans (endStore _ _))
  · exact refl s

theorem markDone (b : Bool) (s : State) : Deeds s (markDone b s) := by
  unfold Machine.markDone
  split
  · exact ite ((setFlash _ s).trans (endStore _ _)) (endStore _ _)
  · exact refl s

theorem linkError (c : LinkCount) (s : State) : Deeds s (linkError c s) := (setLink _ s).trans (raise _ _)

theorem arrive (f : Frame) (s : State) : Deeds s (arrive f s) := by
  unfold Machine.arrive
  exact ite (setLink _ s) (linkError _ s)

theorem takeFrameEvents (l : List FrameEvent) (s : State) : Deeds s (l.foldl takeFrameEvent s) := by
  induction l generalizing s with
  | nil => exact refl s
  | cons e l ih =>
    refine trans ?_ (ih _)
    cases e with
    | complete f => exact arrive f s
    | crcDiscard => exact linkError _ s
    | lengthDiscard => exact linkError _ s

/-- What the overlay does by itself. -/
theorem overlay {s u : State} (h : outside u = outside s) (hr : sansVideo u = sansVideo s) : Deeds s u := by
  have r : ∀ {α : Type} (g : State → α), g (sansVideo u) = g (sansVideo s) := fun g => congrArg g hr
  exact aside ⟨r (·.loading), r (·.store.cues), by rw [show u.seq = s.seq from r (·.seq)],
    by rw [show u.clock = s.clock from r (·.clock)], by rw [show u.channels = s.channels from r (·.channels)],
    congrArg Outside.handed h, r (·.stations), r (·.stop), congrArg Outside.conditions h⟩

/-- What the follower does by itself. -/
theorem follow {s u : State} (h : outside u = outside s) (hr : sansFollower u = sansFollower s) : Deeds s u := by
  have r : ∀ {α : Type} (g : State → α), g (sansFollower u) = g (sansFollower s) := fun g => congrArg g hr
  exact aside ⟨r (·.loading), r (·.store.cues), by rw [show u.seq = s.seq from r (·.seq)],
    by rw [show u.clock = s.clock from r (·.clock)], by rw [show u.channels = s.channels from r (·.channels)],
    congrArg Outside.handed h, r (·.stations), r (·.stop), congrArg Outside.conditions h⟩

end Deeds

end Sys2Proof.Proofs

namespace Sys2Proof.Proofs

open Sys2Proof Sys2Proof.Machine

/-! ## Every command is a chain of deeds -/

namespace Deeds

theorem frameEvents (l : List FrameEvent) (f : Link → Link) (s : State) : Deeds s (l.foldl takeFrameEvent (s.setLink f)) :=
  (setLink f s).trans (takeFrameEvents l _)

theorem receiveByte (b : Byte) (s : State) : Deeds s (receiveByte b s) := by
  unfold Machine.receiveByte
  exact ite (refl s) (frameEvents _ _ s)

theorem receiveFrame (f : Frame) (s : State) : Deeds s (receiveFrame f s) := by
  unfold Machine.receiveFrame
  refine ite (refl s) ((setLink _ s).trans (ite (arrive f _) (linkError _ _)))

theorem declareBreak (s : State) : Deeds s (declareBreak s) := by
  unfold Machine.declareBreak
  exact ite (refl s) ((setLink _ s).trans (linkError _ _))

theorem giveReply (b : List Byte) (s : State) : Deeds s (giveReply b s) := setLink _ s

/-! ### Requests -/

theorem cuePut (r : RawCue) {s : State} (hl : s.loading = false) : Deeds s (reqCuePut r s).1 := by
  unfold reqCuePut
  split
  · exact refl s
  · split
    · exact refl s
    · split
      · exact refl s
      · exact refl s
      · dsimp only
        exact one (.edit hl _ _)

theorem cueDelete (n : CueNo) {s : State} (hl : s.loading = false) : Deeds s (reqCueDelete n s).1 := by
  unfold reqCueDelete
  split_ifs
  · exact refl s
  · exact refl s
  · exact refl s
  · split
    · exact refl s
    · dsimp only
      exact one (.edit hl _ _)

theorem mapPut (k p b g l : Nat) {s : State} (hl : s.loading = false) : Deeds s (reqMapPut k p b g l s).1 := by
  unfold reqMapPut
  split
  · exact refl s
  · exact refl s
  · dsimp only
    split_ifs
    · exact refl s
    · exact refl s
    · exact one (.mapEdit hl _ _ _ _)

theorem mapDelete (k p : Nat) {s : State} (hl : s.loading = false) : Deeds s (reqMapDelete k p s).1 := by
  unfold reqMapDelete
  split
  · exact refl s
  · exact refl s
  · split
    · exact refl s
    · exact one (.mapEdit hl _ _ _ _)

theorem protectSet (m k : Nat) (lo hi : CueNo) (s : State) : Deeds s (reqProtectSet m lo hi k s).1 := by
  unfold reqProtectSet
  split_ifs
  · exact refl s
  · exact refl s
  · split
    · exact refl s
    · exact aside { Aside.refl s with }

theorem store (s : State) : Deeds s (reqStore s).1 := by
  unfold reqStore
  split
  · exact refl s
  · exact aside { Aside.refl s with }

theorem standbyTest_ok {s : State} {n : CueNo} (h : standbyTest s = .ok n) : nextCue s = some n := by
  unfold standbyTest at h
  split_ifs at h
  split at h
  · cases h
  · cases h
    assumption

theorem standby {s : State} (hl : s.loading = false) : Deeds s (reqStandby s).1 := by
  unfold reqStandby
  split
  · exact refl s
  case h_2 h =>
    dsimp only
    exact one (.setLatch hl _ (standbyTest_ok h))

theorem jump (n : CueNo) {s : State} (hl : s.loading = false) : Deeds s (reqJump n s).1 := by
  unfold reqJump
  split_ifs with _ _ hn
  · exact refl s
  · exact refl s
  · exact refl s
  · dsimp only
    exact one (.jump hl n (by simpa [Option.isNone_iff_eq_none, Option.isSome_iff_ne_none] using hn))

theorem resumePoint (n : CueNo) (b : Option Nat) {s : State} (hl : s.loading = false) : Deeds s (reqResumePoint n b s).1 := by
  unfold reqResumePoint
  split_ifs with _ hst
  · exact refl s
  · exact refl s
  · split
    · exact refl s
    case h_2 c hc =>
      obtain ⟨-, rfl⟩ := findCue_some hc
      dsimp only
      refine one (.resume hl b c ?_ hc)
      simpa [or_iff_not_imp_left] using hst

theorem vampRelease (s : State) : Deeds s (reqVampRelease s).1 := by
  unfold reqVampRelease
  split
  · exact refl s
  · exact aside { Aside.refl s with }

theorem showSet (f : RawShowSet) (s : State) : Deeds s (reqShowSet f s).1 := by
  unfold reqShowSet
  split
  · exact refl s
  · split
    · exact refl s
    · have h (x : ShowSettings) : Deeds s (s.setSeq fun q => { q with settings := x }) := aside { Aside.refl s with }
      exact (h _).trans (ite (refl _) (one .handOver))

theorem followSet (f : RawFollowSet) (s : State) : Deeds s (reqFollowSet f s).1 := by
  unfold reqFollowSet
  split
  · exact refl s
  · split
    · exact refl s
    · have h (g : Follower → Follower) : Deeds s (s.setFollower g) := aside { Aside.refl s with }
      exact (h _).trans (follow (outside_judgeWindow _) (sansFollower_judgeWindow _))

theorem clockSet (l : Option Nat) (s : State) : Deeds s (reqClockSet l s).1 := by
  unfold reqClockSet
  split
  · exact refl s
  · split_ifs
    · exact refl s
    · exact refl s
    · have h (c : Nat) : Deeds s (s.setClock fun k => { k with lead := c }) := aside { Aside.refl s with }
      exact (h _).trans (one .recommit)

theorem channelSet (n : Nat) (f : RawChannelSet) (s : State) : Deeds s (reqChannelSet n f s).1 := by
  unfold reqChannelSet
  split
  · exact refl s
  · dsimp only
    split
    · exact refl s
    · split
      · exact refl s
      · exact one (.channel _ _ _)

theorem videoSet (f : RawVideoSet) (s : State) : Deeds s (reqVideoSet f s).1 := by
  unfold reqVideoSet
  split
  · exact refl s
  · split
    · exact refl s
    · have h (x : VideoSettings) : Deeds s (s.setVideo fun v => { v with settings := x }) := aside { Aside.refl s with }
      exact (h _).trans (ite (refl _) (overlay (outside_applyRateSetting _) (sansVideo_applyRateSetting _)))

theorem stationRequest (n : Nat) {f : Fin 6 → State → State × Answer} (s : State) (h : ∀ i, Deeds s (f i s).1) :
    Deeds s (stationRequest n f s).1 := by
  unfold Machine.stationRequest
  split
  · exact refl s
  · exact h _

theorem minor (i : Fin 6) (f : Station → Station) (s : State) (hf : Minor f := by intro _; rfl) : Deeds s (s.setStation i f) :=
  one (.minor i f hf)

theorem stationSet (x : RawStationSet) (i : Fin 6) {s : State} (hl : s.loading = false) : Deeds s (reqStationSet x i s).1 := by
  unfold reqStationSet
  dsimp only
  split
  case h_1 e l _ _ =>
    refine (minor i (fun st => { st with lateOverride := l }) s).trans (one (.exclude ?_ i e))
    exact hl
  · exact refl s

theorem recomputed (i : Fin 6) (f : Station → Station) {s : State} (hl : s.loading = false) (hf : Minor f := by intro _; rfl) :
    Deeds s (Machine.recompute false i (s.setStation i f)) := by
  refine (minor i f s hf).trans (one (.recompute ?_ i))
  exact hl

theorem stationPin (p : Nat) (i : Fin 6) {s : State} (hl : s.loading = false) : Deeds s (reqStationPin p i s).1 := by
  unfold reqStationPin
  dsimp only
  split_ifs
  · exact refl s
  · exact refl s
  · exact refl s
  · exact recomputed i _ hl

theorem stationUnpin (p : Nat) (i : Fin 6) {s : State} (hl : s.loading = false) : Deeds s (reqStationUnpin p i s).1 := by
  unfold reqStationUnpin
  dsimp only
  split_ifs
  · exact refl s
  · exact refl s
  · exact recomputed i _ hl

theorem queryCondition (k : Nat) (s : State) : Deeds s (queryCondition k s).1 :=
  aside { Aside.refl s with conditions := by simp [Machine.queryCondition, clearCondition] }

theorem attentionQuery (n : Option Nat) (s : State) : Deeds s (reqAttentionQuery n s).1 := by
  unfold reqAttentionQuery
  split
  · exact (show Deeds s (if _ then _ else _ : State × Answer).1 from by split; exacts [queryCondition _ s, refl s])
  · split
    · exact refl s
    · exact queryCondition _ s

theorem attentionEnable (m : Nat) (s : State) : Deeds s (reqAttentionEnable m s).1 := by
  unfold reqAttentionEnable
  split
  · exact aside { Aside.refl s with conditions := by simp }
  · exact refl s

/-- A request that is served. -/
theorem request {c : Instr} {r : Bool × (State → State × Answer)} (h : requestOf c = some r) {s : State}
    (hl : r.1 = false → s.loading = false) : Deeds s (r.2 s).1 := by
  cases c <;> simp only [requestOf, Option.some.injEq, reduceCtorEq] at h <;> subst h <;> simp only [forall_const] at hl
  case restartShow => exact one (.restart hl)
  case cuePut => exact cuePut _ hl
  case cueDelete => exact cueDelete _ hl
  case mapPut => exact mapPut _ _ _ _ _ hl
  case mapDelete => exact mapDelete _ _ hl
  case protectSet => exact protectSet _ _ _ _ s
  case store => exact store s
  case standby => exact standby hl
  case cancelStandby => exact one .withdraw
  case go => exact one (.go hl _)
  case jump => exact jump _ hl
  case hold => exact one (.hold hl)
  case stop => exact one (.stop hl _)
  case resumePoint => exact resumePoint _ _ hl
  case vampRelease => exact vampRelease s
  case showSet => exact showSet _ s
  case followSet => exact followSet _ s
  case clockSet => exact clockSet _ s
  case channelSet => exact channelSet _ _ s
  case videoSet => exact videoSet _ s
  case stationSet => exact stationRequest _ s fun i => stationSet _ i hl
  case stationGet => exact stationRequest _ s fun _ => refl s
  case stationPin => exact stationRequest _ s fun i => stationPin _ i hl
  case stationUnpin => exact stationRequest _ s fun i => stationUnpin _ i hl
  case stationFlush => exact stationRequest _ s fun i => one (.flush hl i)
  case stationReset => exact stationRequest _ s fun i => one (.reset hl i)
  case faultGet => exact stationRequest _ s fun _ => refl s
  case faultClear => exact stationRequest _ s fun i => minor i _ s
  case attentionQuery => exact attentionQuery _ s
  case attentionEnable => exact attentionEnable _ s
  all_goals exact refl s

theorem takeRequest {c : Instr} {r : Bool × (State → State × Answer)} (h : requestOf c = some r) (s : State) :
    Deeds s (takeRequest r.1 r.2 s).1 := by
  unfold Machine.takeRequest
  split
  · exact refl s
  case isFalse hl => exact request h fun hr => by simpa [hr] using hl

theorem takeOldest (s : State) : Deeds s (takeOldest s) := by
  unfold Machine.takeOldest
  split
  case h_1 f fs _ _ =>
    refine (setLink (fun l => { l with queue := fs }) s).trans
      (trans (u := (answerFrame f (s.setLink fun l => { l with queue := fs })).1) ?_ ?_)
    · unfold answerFrame
      split
      · exact refl _
      · split
        case h_1 h => exact takeRequest h _
        · exact refl _
    · exact (keepReply _).trans (giveReply _ _)
  · exact refl s

/-! ### The rigs -/

theorem protocolError (i : Fin 6) (s : State) : Deeds s (protocolError i s) := by
  unfold Machine.protocolError
  exact minor i _ s

theorem rigFrame (i : Fin 6) (f : RigFrame) {s : State} (hl : s.loading = false) : Deeds s (takeRigFrame i f s) := by
  have load (k : Nat) {g : OutLoad → State → State} (hg : ∀ o, (s.station i).outLoad = some o → Deeds s (g o s)) :
      Deeds s (answerLoad k g i s) := by
    unfold answerLoad
    split
    case h_1 o ho => exact ite (hg o ho) (protocolError i s)
    · exact protocolError i s
  cases f with
  | hello n => exact one (.hello hl i n)
  | loaded k => exact load k fun o ho => one (.loaded i o ho)
  | loadFailed k => exact load k fun o ho => one (.failLoad i _ o ho)
  | selected k =>
    change Deeds s (answerSelect k i s)
    unfold answerSelect
    split
    case h_1 o ho =>
      split
      case isTrue h => exact one (.selected i k ⟨o, ho, h⟩)
      · exact protocolError i s
    · exact protocolError i s

theorem rigEvents (i : Fin 6) (l : List RigEvent) {s : State} (hl : s.loading = false) : Deeds s (l.foldl (takeRigEvent i) s) := by
  induction l generalizing s with
  | nil => exact refl s
  | cons e l ih =>
    have he : Deeds s (takeRigEvent i s e) := by
      cases e with
      | complete f => exact rigFrame i f hl
      | failed => exact protocolError i s
    exact he.trans (ih ((Keeps.takeRigEvent i s e).loading.trans hl))

theorem receiverComes (i : Fin 6) (r : Option (List Byte) × List RigEvent) {s : State} (hl : s.loading = false) :
    Deeds s (receiverComes i r s) :=
  (minor i (fun st => { st with receiver := r.1.map fun g => { bytes := g, last := s.now } }) s).trans (rigEvents i r.2 hl)

theorem passGap (i : Fin 6) (n : Nat) {s : State} (hl : s.loading = false) : Deeds s (passGap i n s) := by
  unfold Machine.passGap
  split
  · exact ite (receiverComes i _ hl) (refl s)
  · exact refl s

theorem frameComes (i : Fin 6) (f : RigFrame) {s : State} (hl : s.loading = false) : Deeds s (frameComes i f s) :=
  (passGap i 4 hl).trans (receiverComes i _ ((Keeps.passGap i 4 s).loading.trans hl))

theorem bytesCome (x : RigBytes) {s : State} (hl : s.loading = false) : Deeds s (bytesCome x s) := by
  unfold Machine.bytesCome
  split
  · exact passGap _ _ hl
  · exact (passGap _ _ hl).trans (receiverComes _ _ ((Keeps.passGap _ _ s).loading.trans hl))

theorem gapComes (i : Fin 6) {s : State} (hl : s.loading = false) : Deeds s (gapComes i s) := by
  unfold Machine.gapComes
  split
  · exact (goTo _ s).trans (receiverComes i _ hl)
  · exact refl s

theorem unlessLoading {f : State → State} {s : State} (h : s.loading = false → Deeds s (f s)) : Deeds s (unlessLoading f s) := by
  unfold Machine.unlessLoading
  split
  · exact refl s
  case isFalse hl => exact h (by simpa using hl)

theorem deskEdge (l : DeskLine) (held : Nat) {f : State → State} (h : ∀ s, s.loading = false → Deeds s (f s)) (s : State) :
    Deeds s (deskEdge l held f s) := by
  unfold Machine.deskEdge
  exact ite ((setDesk _ s).trans (unlessLoading (h _))) (refl s)

theorem deskStandby {s : State} (hl : s.loading = false) : Deeds s (deskStandby s) := by
  unfold Machine.deskStandby
  split
  · exact raise _ s
  case h_2 h => exact one (.setLatch hl _ (standbyTest_ok h))

theorem deskGo {s : State} (hl : s.loading = false) : Deeds s (deskGo s) := by
  unfold Machine.deskGo
  dsimp only
  split
  · exact (one (.go hl _)).trans (raise _ _)
  · exact one (.go hl _)

theorem loadTimesOut (i : Fin 6) (s : State) : Deeds s (loadTimesOut i s) := by
  unfold Machine.loadTimesOut
  split
  case h_1 o ho => exact one (.failLoad i _ o ho)
  · exact refl s

theorem selectTimesOut (i : Fin 6) (s : State) : Deeds s (selectTimesOut i s) := by
  unfold Machine.selectTimesOut
  split
  case h_1 o ho => exact one (.failSelect i _ ⟨o, ho, rfl⟩)
  · exact refl s

theorem presentChange (held : Nat) {f : State → State} {s : State} (h : Deeds s (f s)) : Deeds s (presentChange held f s) :=
  ite h (refl s)

/-- The commands that are no requests, but for those of power. -/
theorem eventEffect (c : Instr) (s : State) (hb : c = .beatCommit → s.clock.st.beats = true) (h₁ : ∀ a b, c ≠ .powerOn a b)
    (h₂ : ∀ m, c ≠ .powerLost m) : Deeds s (eventEffect c s) := by
  cases c
  case powerOn a b => exact absurd rfl (h₁ a b)
  case powerLost m => exact absurd rfl (h₂ m)
  case imageLoadEnd t a =>
    change Deeds s (endLoad a s)
    cases hl : s.loading with
    | true => exact one (.load a hl)
    | false =>
      unfold endLoad
      rw [if_neg (Bool.eq_false_iff.mp hl)]
      exact refl s
  case requestTaken => exact takeOldest s
  case requestFrameReceived => exact receiveFrame _ s
  case gapTimeout => exact (setLink _ s).trans (linkError _ _)
  case breakDeclared => exact declareBreak s
  case replySent => unfold Proofs.eventEffect replyEnds; exact setLink _ s
  case flashEraseDone => exact eraseDone s
  case flashProgramDone => exact programDone s
  case flashVerifyDone => exact verifyDone _ s
  case flashMarkDone => exact markDone _ s
  case flashError => exact ite (endStore _ s) (refl s)
  case storeTimeout => exact endStore _ s
  case deskStbyEdge => exact deskEdge _ _ (fun _ hl => deskStandby hl) s
  case deskGoEdge => exact deskEdge _ _ (fun _ hl => deskGo hl) s
  case deskHoldEdge => exact deskEdge _ _ (fun _ hl => one (.hold hl)) s
  case deskStopEdge => exact deskEdge _ _ (fun _ hl => one (.stop hl _)) s
  case deskLineRelease => exact ite (setDesk _ s) (refl s)
  case keyLevelChange => exact ite (aside { Aside.refl s with }) (refl s)
  case beatPulse => exact ite (one .pulse) (refl s)
  case beatCommit => exact one (.commit (hb rfl))
  case windowClose => exact follow (outside_closeWindow s) (sansFollower_closeWindow s)
  case followTimerExpiry => exact one .timer
  case burstStart i => exact one (.burstStart i)
  case burstEnd i => exact one (.burstEnd i)
  case lineSync => exact unlessLoading fun _ => overlay (outside_takeSync _ _ s) (sansVideo_takeSync _ _ s)
  case syncLossTimeout => exact overlay (outside_loseSync s) (sansVideo_loseSync s)
  case generatorFieldStart => exact overlay (outside_generatorField s) (sansVideo_generatorField s)
  case missedInputField => exact overlay (outside_missField s) (sansVideo_missField s)
  case presentAsserted i h => exact presentChange _ (one (.rise _))
  case presentDeasserted => exact presentChange _ (one (.fall _))
  case queryRepeat => unfold Proofs.eventEffect queryComesDue; exact minor _ _ s
  case hello => exact unlessLoading (frameComes _ _)
  case loaded => exact unlessLoading (frameComes _ _)
  case loadFailed => exact unlessLoading (frameComes _ _)
  case selected => exact unlessLoading (frameComes _ _)
  case stationFrameBad x => exact unlessLoading (bytesCome x)
  case stationFrameGap x =>
    exact unlessLoading (f := fun s => Machine.gapComes x.station (Machine.bytesCome x s))
      fun hl => (bytesCome x hl).trans (gapComes _ ((Keeps.bytesCome x s).loading.trans hl))
  case loadTimeout => exact loadTimesOut _ s
  case selectTimeout => exact selectTimesOut _ s
  case stationSend => exact unlessLoading fun hl => one (.send hl _)
  case stationFrameSent => exact one (.sent _)
  case receivedByte => exact receiveByte _ s
  case lineReturnedToMark => unfold Proofs.eventEffect endBreak; exact setLink _ s
  all_goals exact refl s

theorem beats_of_commitDue {s : State} {d : Nat} (h : commitDue s = some d) : s.clock.st.beats = true := by
  unfold commitDue at h
  split at h
  · assumption
  · cases h

/-- Every command but those of power. -/
theorem taken (c : Instr) (s : State) (h₁ : ∀ a b, c ≠ .powerOn a b) (h₂ : ∀ m, c ≠ .powerLost m) : Deeds s (taken c s) := by
  unfold Proofs.taken
  split
  case h_1 d hd =>
    refine (goTo d s).trans ?_
    unfold effect
    split
    case h_1 h => exact (takeRequest h _).trans (keepReply _)
    · refine eventEffect c _ (fun hc => ?_) h₁ h₂
      subst hc
      exact beats_of_commitDue hd
  · exact refl s

end Deeds

/-- A predicate that every deed keeps and that holds after reset is kept by every step. -/
theorem keep_step {P : State → Prop} (resets : ∀ q f r b, P (restarted q f r b)) (deeds : ∀ {s u}, Deed s u → P s → P u)
    {s u : State} (hs : P s) (he : step s = .next u) : P u := by
  have all (c : Instr) (s u : State) (hs : P s) (he : exec c s = .next u) : P u := by
    by_cases h₁ : ∀ a b, c ≠ .powerOn a b
    · rw [exec_eq c s h₁] at he
      cases he
      split
      · by_cases h₂ : ∀ m, c ≠ .powerLost m
        · exact (Deeds.taken c s h₁ h₂).keep deeds hs
        · push Not at h₂
          obtain ⟨m, rfl⟩ := h₂
          exact resets _ _ _ false
      · exact hs
    · push Not at h₁
      obtain ⟨a, b, rfl⟩ := h₁
      cases he
      exact resets _ _ _ true
  unfold Machine.step at he
  split at he
  · cases he; exact hs
  case h_2 c cs _ =>
    have queue : Deed s { s with pending := cs } := .aside { Aside.refl s with }
    exact all c _ u (deeds queue hs) he

end Sys2Proof.Proofs

namespace Sys2Proof.Proofs

open Sys2Proof Sys2Proof.Machine

/-! ## Cue, pointer and latch, and the copies of them -/

/-- What the Sequencer holds of cue, pointer and latch, the copies that clock and overlay are handed, and what they depend on. -/
structure Cueing where
  position : Option CueNo
  content : Option CueNo
  standby : Option CueNo
  current : Option CueNo
  pointer : Option CueNo
  latch : Option CueNo
  loading : Bool
  cues : List Cue

def cueing (s : State) : Cueing :=
  { position := s.clock.position.cue, content := s.video.content.cue, standby := s.video.content.standby
    current := s.seq.current, pointer := s.seq.pointer, latch := s.seq.latch, loading := s.loading, cues := s.store.cues }

namespace Cueing

/-- The copies agree (R90, R94, R148). -/
def Agrees (k : Cueing) : Prop := k.position = k.current ∧ k.content = k.current ∧ k.standby = k.latch

/-- The next cue (R91). -/
def next (k : Cueing) : Option CueNo :=
  match k.pointer with
  | some m => some m
  | none => afterCurrent k.cues k.current

/-- An EXPLICIT pointer names a cue, a set latch holds the next cue (R90, R94). -/
def Pointed (k : Cueing) : Prop :=
  (∀ n, k.pointer = some n → (findCue k.cues n).isSome = true) ∧ (∀ n, k.latch = some n → k.next = some n)
    ∧ (k.loading = true → k.pointer = none ∧ k.latch = none)

/-- The cue `n` becomes current, in every block. -/
def fired (n : CueNo) (k : Cueing) : Cueing :=
  { k with position := some n, content := some n, standby := none, current := some n, pointer := none, latch := none }

/-- What the promises make of a change. -/
def Goes (k l : Cueing) : Prop := (k.Agrees → l.Agrees) ∧ (k.Pointed → l.Pointed)

theorem Goes.refl (k : Cueing) : Goes k k := ⟨id, id⟩

theorem Goes.trans {k l m : Cueing} (h : Goes k l) (h' : Goes l m) : Goes k m := ⟨h'.1 ∘ h.1, h'.2 ∘ h.2⟩

theorem goes_fired (n : CueNo) (k : Cueing) : Goes k (k.fired n) :=
  ⟨fun _ => ⟨rfl, rfl, rfl⟩, fun _ => ⟨fun _ h => (nomatch h), fun _ h => (nomatch h), fun _ => ⟨rfl, rfl⟩⟩⟩

/-- The latch is cleared. -/
theorem goes_cleared (k : Cueing) : Goes k { k with standby := none, latch := none } :=
  ⟨fun ⟨hp, hc, _⟩ => ⟨hp, hc, rfl⟩, fun ⟨hp, _, hl⟩ => ⟨hp, fun _ h => (nomatch h), fun h => ⟨(hl h).1, rfl⟩⟩⟩

/-- The latch takes the next cue. -/
theorem goes_latched {k : Cueing} {n : CueNo} (hn : k.next = some n) (hl : k.loading = false) :
    Goes k { k with standby := some n, latch := some n } :=
  ⟨fun ⟨hp, hc, _⟩ => ⟨hp, hc, rfl⟩, fun ⟨hp, _, _⟩ => ⟨hp, fun m h => h ▸ hn, fun h => absurd (h : k.loading = true) (by simp [hl])⟩⟩

/-- The pointer becomes EXPLICIT, and the latch is cleared. -/
theorem goes_pointed {k : Cueing} {n : CueNo} (hn : (findCue k.cues n).isSome = true) (hl : k.loading = false) :
    Goes k { k with standby := none, pointer := some n, latch := none } :=
  ⟨fun ⟨hp, hc, _⟩ => ⟨hp, hc, rfl⟩, fun _ => ⟨fun m h => (Option.some.inj h) ▸ hn, fun _ h => (nomatch h),
    fun h => absurd (h : k.loading = true) (by simp [hl])⟩⟩

/-- Everything is empty. -/
theorem goes_empty (k : Cueing) :
    Goes k { k with position := none, content := none, standby := none, current := none, pointer := none, latch := none } :=
  ⟨fun _ => ⟨rfl, rfl, rfl⟩, fun _ => ⟨fun _ h => (nomatch h), fun _ h => (nomatch h), fun _ => ⟨rfl, rfl⟩⟩⟩

/-- The list becomes `cues`: a pointer to a cue that is gone becomes IMPLICIT, and the latch stays only where the next cue does
(R105). -/
theorem goes_changed {k l : Cueing} {cues : List Cue} (hl : k.loading = false)
    (e : l = { k with cues := cues, pointer := k.pointer.filter fun n => (findCue cues n).isSome }) :
    Goes k (if l.next = k.next then l else { l with standby := none, latch := none }) := by
  have hp : ∀ n, l.pointer = some n → (findCue l.cues n).isSome = true := fun n h => by
    rw [e] at h ⊢
    exact (Option.filter_eq_some_iff.mp h).2
  have hload : l.loading = false := by rw [e]; exact hl
  refine ⟨fun ⟨h₁, h₂, h₃⟩ => ?_, fun ⟨_, hn, _⟩ => ?_⟩
  · split
    · rw [e]; exact ⟨h₁, h₂, h₃⟩
    · rw [e]; exact ⟨h₁, h₂, rfl⟩
  · split
    case isTrue hk =>
      exact ⟨hp, fun n h => hk.trans (hn n (by rw [e] at h; exact h)), fun h => absurd h (by simp [hload])⟩
    · exact ⟨hp, fun _ h => (nomatch h), fun h => absurd (h : l.loading = true) (by simp [hload])⟩

/-- The load ends with a list. -/
theorem goes_loaded {k : Cueing} (cues : List Cue) (hl : k.loading = true) : Goes k { k with cues := cues, loading := false } :=
  ⟨id, fun ⟨_, _, h⟩ => by
    obtain ⟨hp, hq⟩ := h hl
    exact ⟨fun n e => absurd (e : k.pointer = some n) (by simp [hp]),
      fun n e => absurd (e : k.latch = some n) (by simp [hq]), fun e => (nomatch e)⟩⟩

end Cueing

/-! ### What the orders make of it -/

theorem cueing_timed {s u : State} (h : outside u = outside s) : cueing u = cueing s := by
  have r : ∀ {α : Type} (g : State → α), g (outside u).rest = g (outside s).rest := fun g => by rw [h]
  have c : ∀ {α : Type} (g : Content → α), g (outside u).handed = g (outside s).handed := fun g => by rw [h]
  simp only [cueing, Cueing.mk.injEq]
  exact ⟨congrArg Outside.cue h, c (·.cue), c (·.standby), r (·.seq.current), r (·.seq.pointer), r (·.seq.latch), r (·.loading),
    r (·.store.cues)⟩

theorem cueing_rigs {s u : State} (h : RigsKeep s u) : cueing u = cueing s := by
  have r : ∀ {α : Type} (g : State → α), _ := fun g => congrArg g h.rest
  have v : ∀ {α : Type} (g : Video → α), _ := fun g => congrArg g h.video
  simp only [cueing, Cueing.mk.injEq]
  exact ⟨r (·.clock.position.cue), v (·.content.cue), v (·.content.standby), r (·.seq.current), r (·.seq.pointer), r (·.seq.latch),
    r (·.loading), r (·.store.cues)⟩

theorem cueing_aside {s u : State} (h : Aside s u) : cueing u = cueing s := by
  have q : ∀ {α : Type} (g : Sequencer → α), _ := fun g => congrArg g h.seq
  have c : ∀ {α : Type} (g : Content → α), _ := fun g => congrArg g h.handed
  simp only [cueing, Cueing.mk.injEq]
  exact ⟨congrArg (·.position.cue) h.clock, c (·.cue), c (·.standby), q (·.current), q (·.pointer), q (·.latch), h.loading, h.cues⟩

@[simp] theorem cueing_raise (r : CondRecord) (s : State) : cueing (raise r s) = cueing s := rfl
@[simp] theorem cueing_setStop (st : StopSt) (s : State) : cueing (setStop st s) = cueing s := rfl
@[simp] theorem cueing_setStopCtl (f : StopController → StopController) (s : State) : cueing (s.setStopCtl f) = cueing s := rfl
@[simp] theorem cueing_setWords (i : Fin 6) (f : StationWords → StationWords) (s : State) : cueing (setWords i f s) = cueing s := rfl
@[simp] theorem cueing_setChannel (i : Fin 16) (f : Channel → Channel) (s : State) : cueing (s.setChannel i f) = cueing s := rfl
@[simp] theorem cueing_setStation (i : Fin 6) (f : Station → Station) (s : State) : cueing (s.setStation i f) = cueing s := rfl
@[simp] theorem cueing_clickFire (c : Cue) (s : State) : cueing (clickFire c s) = cueing s := rfl
@[simp] theorem cueing_clickTracked (n : CueNo) (s : State) : cueing (clickTracked n s) = cueing s := rfl

@[simp] theorem cueing_setAccount (i : Fin 6) (f : Account → Account) (s : State) : cueing (setAccount i f s) = cueing s :=
  cueing_rigs (RigsKeep.setAccount i f s)

@[simp] theorem cueing_evaluateReady (s : State) : cueing (evaluateReady s) = cueing s := cueing_rigs (RigsKeep.evaluateReady s)

@[simp] theorem cueing_handOver (s : State) : cueing (handOver s) = cueing s :=
  by
  unfold handOver
  extract_lets m
  have hm : cueing m = cueing s := rfl
  clear_value m
  rw [cueing_rigs (RigsKeep.eachStation (Rigs.takeAhead m.seq.ahead m.seq.latch) m), hm]

@[simp] theorem cueing_clearLatch (s : State) : cueing (clearLatch s) = { cueing s with standby := none, latch := none } := rfl

@[simp] theorem cueing_drainReport (s : State) : cueing (drainReport s) = cueing s := by
  unfold drainReport
  split
  · split <;> rfl
  · rfl

@[simp] theorem cueing_clockFire (n : CueNo) (b : Option Nat) (r : Option TempoRecord) (v : Option VampBars) (s : State) :
    cueing (clockFire n b r v s).1 = { cueing s with position := some n } := by
  unfold clockFire
  extract_lets m r n
  have hn : cueing n = cueing m := cueing_timed (by simp only [n, r, outside_clockVamp, outside_clockTempo, outside_clockBarSet])
  split
  · exact (cueing_timed (outside_commitIfDue n)).trans hn
  · exact hn

theorem cueing_fireRigs (tracked : Bool) (c : Cue) (s : State) :
    cueing (fireRigs tracked c s) = { cueing s with content := some c.number } := by
  unfold fireRigs
  extract_lets m n
  have hm : cueing m = cueing s := by unfold m; split <;> rfl
  rw [cueing_rigs (RigsKeep.eachStation (Rigs.fireTarget tracked c) n)]
  change { cueing m with content := some c.number } = _
  rw [hm]

/-- A fire makes its cue current in every block, and clears pointer and latch (R101). -/
theorem cueing_fireCue (c : Cue) (src : FireSource) (s : State) : cueing (fireCue c src s).1 = (cueing s).fired c.number := by
  unfold fireCue
  extract_lets tracked m n p q
  have hn : cueing n = { cueing m with content := some c.number } := cueing_fireRigs tracked c m
  have hp : cueing p = cueing n := cueing_handOver _
  clear_value p n
  rw [cueing_clockFire, show cueing q = cueing p from rfl, hp, hn]
  rfl

theorem cueing_takeBeat (r : BeatRec) (s : State) :
    cueing (takeBeat r s) = cueing s ∨ ∃ n, cueing (takeBeat r s) = (cueing s).fired n := by
  unfold takeBeat
  split
  · exact .inr ⟨_, cueing_fireCue _ _ s⟩
  · exact .inl rfl

theorem goes_takeBeat (r : BeatRec) (s : State) : Cueing.Goes (cueing s) (cueing (takeBeat r s)) := by
  rcases cueing_takeBeat r s with h | ⟨n, h⟩ <;> rw [h]
  · exact .refl _
  · exact Cueing.goes_fired n _

theorem goes_fire (n : CueNo) (src : FireSource) (s : State) : Cueing.Goes (cueing s) (cueing (fire n src s)) := by
  unfold fire
  split
  · exact .refl _
  · extract_lets r
    have h : Cueing.Goes (cueing s) (cueing r.1) := by rw [cueing_fireCue]; exact Cueing.goes_fired _ _
    split
    · exact h.trans (goes_takeBeat _ _)
    · exact h

theorem goes_enterRun (s : State) : Cueing.Goes (cueing s) (cueing (enterRun s)) := by
  unfold enterRun
  extract_lets m
  split
  · refine Cueing.Goes.trans ?_ (goes_fire _ _ _)
    exact .refl (cueing s)
  · exact .refl _

theorem cueing_completeHold (p : HeldPosition) (s : State) : cueing (completeHold p s) = cueing s := rfl

theorem goes_afterCommit (r : State × Committed) : Cueing.Goes (cueing r.1) (cueing (afterCommit r)) := by
  unfold afterCommit
  extract_lets m n
  have hm : cueing m = cueing r.1 := by unfold m; split <;> rfl
  have hn : Cueing.Goes (cueing r.1) (cueing n) := by
    rw [← hm]
    unfold n countInEnds
    split
    · split
      · exact goes_enterRun m
      · exact .refl _
    · exact .refl _
  split
  · exact hn.trans (goes_takeBeat _ n)
  · exact hn

theorem goes_committed {s : State} {r : State × Committed} (h : outside r.1 = outside s) :
    Cueing.Goes (cueing s) (cueing (afterCommit r)) := by
  rw [← cueing_timed h]
  exact goes_afterCommit r

theorem goes_withdrawLatch (s : State) : Cueing.Goes (cueing s) (cueing (withdrawLatch s)) := by
  unfold withdrawLatch
  split
  · rw [cueing_handOver, cueing_clearLatch]
    exact Cueing.goes_cleared _
  · exact .refl _

theorem cueing_holdByClock (s : State) : cueing (holdByClock s) = cueing s := by
  unfold holdByClock
  split
  · change cueing (armHold s) = _
    exact cueing_timed (outside_armHold s)
  · change cueing (freezeCountIn s).1 = _
    exact cueing_timed (outside_freezeCountIn s)
  · change cueing (cancelClicks s) = _
    exact cueing_timed (outside_cancelClicks s)
  · change cueing (cancelClicks s) = _
    exact cueing_timed (outside_cancelClicks s)

theorem cueing_takeHold (s : State) : cueing (takeHold s).1 = cueing s := by
  unfold takeHold
  split
  · exact cueing_holdByClock s
  · exact cueing_holdByClock s
  all_goals rfl

theorem goes_start {s m : State} {r : State × Committed} (h : outside r.1 = outside m) (hm : cueing m = cueing s) :
    Cueing.Goes (cueing s) (cueing (afterCommit (enterRun r.1, r.2))) := by
  rw [← hm, ← cueing_timed h]
  exact (goes_enterRun _).trans (goes_afterCommit (enterRun r.1, r.2))

theorem goes_holdCountIn (s : State) : Cueing.Goes (cueing s) (cueing (holdCountIn s)) := by
  unfold holdCountIn
  extract_lets bars bar r
  split
  · exact goes_start (outside_holdStart bar bars s) rfl
  · exact goes_committed (s := setStop (.countIn .hold) s) (outside_holdStart bar bars _)

theorem goes_resumeCountIn (s : State) : Cueing.Goes (cueing s) (cueing (resumeCountIn s)) := by
  unfold resumeCountIn
  extract_lets bars bar m r
  have hm : cueing m = cueing s := rfl
  split
  · exact goes_start (outside_resumeStart bar bars m) hm
  · exact goes_committed (s := setStop (.countIn .resume) m) (outside_resumeStart bar bars _)

theorem goes_takeGo (src : FireSource) (s : State) : Cueing.Goes (cueing s) (cueing (takeGo src s).1) := by
  unfold takeGo
  split
  · unfold goInRun
    split
    · exact .refl _
    · split
      · exact .refl _
      · exact goes_fire _ src s
  · split
    · have h := goes_enterRun (cancelHold s)
      rwa [cueing_timed (outside_cancelHold s)] at h
    · exact goes_holdCountIn s
  · exact goes_holdCountIn s
  · exact goes_holdCountIn s
  · split
    · exact .refl _
    · exact goes_resumeCountIn s
  all_goals exact .refl _

theorem goes_sequencerStop {s m : State} (h : cueing m = cueing s) : Cueing.Goes (cueing s) (cueing (sequencerStop m)) := by
  rw [← h]
  unfold sequencerStop
  refine Cueing.Goes.trans ?_ (goes_withdrawLatch _)
  exact .refl (cueing m)

theorem cueing_stationsStop (s : State) : cueing (eachStation stationStop s) = cueing s :=
  cueing_rigs (RigsKeep.eachStation Rigs.stationStop s)

theorem goes_stopOrders (src : Source) (s : State) : Cueing.Goes (cueing s) (cueing (stopOrders src s)) := by
  unfold stopOrders
  extract_lets m n
  have hm : cueing m = cueing s := (cueing_timed (outside_videoStop (setStop .stopped s))).trans rfl
  rw [cueing_raise]
  refine goes_sequencerStop ?_
  rw [cueing_stationsStop, cueing_timed (outside_cancelClicks _), cueing_timed (outside_clockStop m), hm]

theorem goes_takeStop (src : Source) (s : State) : Cueing.Goes (cueing s) (cueing (takeStop src s)) := by
  unfold takeStop
  split
  case h_5 => exact goes_sequencerStop (cueing_stationsStop s)
  all_goals exact goes_stopOrders src (s.setStopCtl _)

theorem cueing_sequencerRebuild (n : CueNo) (s : State) :
    cueing (sequencerRebuild n s) = { cueing s with standby := none, current := some n, pointer := none, latch := none } := by
  unfold sequencerRebuild
  rw [cueing_handOver]
  rfl

theorem cueing_freshRebuild {s : State} {r : ResumePoint} (h : s.stop.resume = some r) :
    cueing (freshRebuild s) = (cueing s).fired r.cue := by
  unfold freshRebuild
  rw [h]
  dsimp only
  rw [cueing_evaluateReady, cueing_sequencerRebuild, cueing_rigs (RigsKeep.eachStation (Rigs.stationRebuild _) _)]
  rfl

theorem goes_freshRebuild (s : State) : Cueing.Goes (cueing s) (cueing (freshRebuild s)) := by
  cases h : s.stop.resume with
  | none => unfold freshRebuild; rw [h]; exact .refl _
  | some r => rw [cueing_freshRebuild h]; exact Cueing.goes_fired _ _

theorem goes_rebuildAgain (s : State) : Cueing.Goes (cueing s) (cueing (rebuildAgain s)) := by
  unfold rebuildAgain
  split
  · exact goes_freshRebuild s
  · exact .refl _

theorem goes_listChanged {s : State} (hl : s.loading = false) (change : ListChange) (x : CueStore) :
    Cueing.Goes (cueing s) (cueing (listChanged (nextCue s) change { s with store := x })) := by
  refine Cueing.Goes.trans ?_ (goes_rebuildAgain _)
  unfold sequencerListChanged
  extract_lets m next n
  rw [cueing_handOver]
  have hn : cueing n = if (cueing m).next = (cueing s).next then cueing m else { cueing m with standby := none, latch := none } := by
    unfold n
    change cueing (if (cueing m).next = (cueing s).next then _ else _) = _
    split <;> rfl
  rw [hn]
  exact Cueing.goes_changed hl rfl

theorem goes_wordOnline (i : Fin 6) (s : State) : Cueing.Goes (cueing s) (cueing (wordOnline i s)) := by
  unfold wordOnline
  dsimp only
  split
  · exact .refl _
  · exact goes_rebuildAgain (setWords i _ s)

theorem goes_takeHello (i : Fin 6) (n : Nat) (s : State) : Cueing.Goes (cueing s) (cueing (takeHello i n s)) := by
  unfold takeHello
  split
  · exact .refl _
  · extract_lets m p
    have hm : Cueing.Goes (cueing s) (cueing m) := by
      rw [← cueing_rigs (Rigs.stationOnline i n s).keep]
      exact goes_wordOnline i _
    have hp : cueing p = cueing m := rfl
    split
    · rwa [hp]
    · rwa [cueing_rigs (Rigs.resync i p).keep, hp]

theorem cueing_changeExcluded (i : Fin 6) (e : Bool) (s : State) : cueing (changeExcluded i e s) = cueing s := by
  unfold changeExcluded wordExcluded wordIncluded
  split
  · rfl
  · split
    · rw [cueing_setAccount, cueing_setWords, cueing_rigs (Rigs.excludeStation i s).keep]
    · dsimp only
      rw [cueing_rigs (Rigs.includeStation i _).keep]
      split
      · rw [cueing_setAccount, cueing_setWords, cueing_setStation]
      · rfl

theorem goes_timerExpires (s : State) : Cueing.Goes (cueing s) (cueing (timerExpires s)) := by
  unfold timerExpires
  split
  · split
    · refine Cueing.Goes.trans ?_ (goes_fire _ _ _)
      exact .refl (cueing s)
    · split <;> exact .refl _
  · exact .refl _

theorem cueing_sequencerRestart (s : State) :
    cueing (sequencerRestart s) = { cueing s with current := none, pointer := none, latch := none } := by
  unfold sequencerRestart
  rw [cueing_handOver]
  rfl

theorem cueing_attentionRestart (s : State) : cueing (attentionRestart s) = cueing s := rfl

theorem cueing_restartShow (s : State) : cueing (restartShow s)
    = { cueing s with position := none, content := none, standby := none, current := none, pointer := none, latch := none } := by
  unfold restartShow
  extract_lets m n
  have hn : cueing n = { cueing s with position := none, content := none, standby := none } := rfl
  clear_value n
  rw [cueing_attentionRestart, cueing_sequencerRestart, cueing_rigs (RigsKeep.eachStation Rigs.stationRestart n), hn]

theorem goes_endLoad (a : FlashAnswer) {s : State} (hl : s.loading = true) : Cueing.Goes (cueing s) (cueing (endLoad a s)) := by
  obtain ⟨cues, h⟩ : ∃ cues, cueing (endLoad a s) = { cueing s with cues := cues, loading := false } := by
    unfold endLoad
    rw [if_pos hl]
    extract_lets image m w
    rw [cueing_rigs (RigsKeep.eachStation Rigs.greetPresent _), cueing_handOver]
    unfold w
    cases image
    · exact ⟨_, rfl⟩
    · exact ⟨_, rfl⟩
  rw [h]
  exact Cueing.goes_loaded cues hl

/-- Every deed keeps the copies equal, the pointer on a cue and the latch on the next cue. -/
theorem goes_deed {s u : State} (h : Deed s u) : Cueing.Goes (cueing s) (cueing u) := by
  have same {u : State} (h : cueing u = cueing s) : Cueing.Goes (cueing s) (cueing u) := h ▸ .refl _
  cases h with
  | aside h => exact same (cueing_aside h)
  | restart => rw [cueing_restartShow]; exact Cueing.goes_empty _
  | edit hl change x => exact goes_listChanged hl change x
  | mapEdit hl i p d map =>
    rw [← show cueing { s with map := map } = cueing s from rfl, ← cueing_rigs (Rigs.stationMapChanged i p d _).keep]
    exact goes_rebuildAgain _
  | setLatch hl n hn => unfold setLatch; rw [cueing_handOver]; exact Cueing.goes_latched hn hl
  | withdraw => exact goes_withdrawLatch s
  | jump hl n hn => unfold takeJump; rw [cueing_handOver]; exact Cueing.goes_pointed hn hl
  | handOver => exact same (cueing_handOver s)
  | go _ src => exact goes_takeGo src s
  | hold => exact same (cueing_takeHold s)
  | stop _ src => exact goes_takeStop src s
  | resume => exact goes_freshRebuild (s.setStopCtl _)
  | channel => exact same (by rw [cueing_drainReport, cueing_setChannel])
  | pulse => exact goes_committed (outside_takePulse s)
  | commit => exact goes_committed (outside_commitScheduled s)
  | recommit => exact goes_committed (outside_commitIfDue s)
  | timer => exact goes_timerExpires s
  | burstStart i => unfold burstStarts; exact same (by rw [cueing_drainReport, cueing_setChannel])
  | burstEnd => exact same rfl
  | rise i => exact same (by unfold presentRises; split_ifs <;> rfl)
  | fall i =>
    unfold presentFalls takeDeparture wordOffline
    refine same ?_
    split
    · rw [cueing_setAccount, cueing_setWords, cueing_rigs (Rigs.stationOffline i s).keep]
    · rfl
  | minor => exact same rfl
  | flush => exact same rfl
  | recompute _ i => exact same (cueing_rigs (Rigs.recompute _ i s).keep)
  | reset _ i => exact same (cueing_rigs (Rigs.resetStation i s).keep)
  | exclude _ i e => exact same (cueing_changeExcluded i e s)
  | hello _ i n => exact goes_takeHello i n s
  | loaded i o => exact same (cueing_rigs (Rigs.takeLoaded i o s).keep)
  | failLoad i k o => exact same (cueing_rigs (Rigs.failLoad i k o s).keep)
  | selected i k => exact same (cueing_rigs (Rigs.takeSelected i k s).keep)
  | failSelect i k => exact same (cueing_rigs (Rigs.failSelect i k s).keep)
  | send _ i => exact same (cueing_rigs (Rigs.sendNext i s).keep)
  | sent i => exact same rfl
  | load a hl => exact goes_endLoad a hl

end Sys2Proof.Proofs

namespace Sys2Proof.Proofs

open Sys2Proof Sys2Proof.Machine

/-! ## The overlay's copy of the stop state -/

/-- The overlay's stop state stays that of the Stop Controller (R148, R155). -/
def Told (s u : State) : Prop := s.video.content.stopState = s.stop.st → u.video.content.stopState = u.stop.st

namespace Told

theorem refl (s : State) : Told s s := id

theorem trans {s u v : State} (h : Told s u) (k : Told u v) : Told s v := k ∘ h

theorem ite {s a b : State} {c : Prop} [Decidable c] (ha : Told s a) (hb : Told s b) : Told s (if c then a else b) := by
  split
  · exact ha
  · exact hb

theorem same {s u : State} (hs : u.stop.st = s.stop.st) (hv : u.video.content.stopState = s.video.content.stopState) :
    Told s u := fun h => hv.trans (h.trans hs.symm)

theorem timed {s u : State} (h : outside u = outside s) : Told s u :=
  same (congrArg (·.rest.stop.st) h) (congrArg (·.handed.stopState) h)

theorem rigs {s u : State} (h : RigsKeep s u) : Told s u := h.agree

theorem aside {s u : State} (h : Aside s u) : Told s u :=
  same (by rw [h.stop]) (congrArg (·.stopState) h.handed)

theorem setStop (st : StopSt) (s : State) : Told s (setStop st s) := fun _ => rfl

theorem raise (r : CondRecord) (s : State) : Told s (raise r s) := refl s

theorem setSeq (f : Sequencer → Sequencer) (s : State) : Told s (s.setSeq f) := refl s

theorem setStopCtl (f : StopController → StopController) (s : State) (h : (f s.stop).st = s.stop.st) : Told s (s.setStopCtl f) :=
  same h rfl

theorem setWords (i : Fin 6) (f : StationWords → StationWords) (s : State) : Told s (setWords i f s) := refl s

theorem attentionRestart (s : State) : Told s (attentionRestart s) := refl s

theorem setAccount (i : Fin 6) (f : Account → Account) (s : State) : Told s (setAccount i f s) := rigs (RigsKeep.setAccount i f s)

theorem drainReport (s : State) : Told s (drainReport s) := by
  unfold Machine.drainReport
  split
  · exact ite (setStop _ s) (refl s)
  · exact refl s

theorem handOver (s : State) : Told s (handOver s) :=
  trans (setSeq (fun q => { q with ahead := lookAhead s }) s) (rigs (RigsKeep.eachStation (Rigs.takeAhead _ _) _))

theorem clearLatch (s : State) : Told s (clearLatch s) := refl s

theorem withdrawLatch (s : State) : Told s (withdrawLatch s) := by
  unfold Machine.withdrawLatch
  split
  · exact (clearLatch s).trans (handOver _)
  · exact refl s

theorem clockFire (n : CueNo) (b : Option Nat) (r : Option TempoRecord) (v : Option VampBars) (s : State) :
    Told s (clockFire n b r v s).1 := by
  unfold Machine.clockFire
  extract_lets m r n
  have hm : Told s m := refl s
  have hn : Told s n := hm.trans (timed (by simp only [n, r, outside_clockVamp, outside_clockTempo, outside_clockBarSet]))
  split
  · exact hn.trans (timed (outside_commitIfDue n))
  · exact hn

theorem fireRigs (tracked : Bool) (c : Cue) (s : State) : Told s (fireRigs tracked c s) := by
  unfold Machine.fireRigs
  extract_lets m n
  have hm : Told s m := ite (refl s) (refl s)
  have hn : Told m n := refl m
  exact (hm.trans hn).trans (rigs (RigsKeep.eachStation (Rigs.fireTarget tracked c) n))

theorem fireCue (c : Cue) (src : FireSource) (s : State) : Told s (fireCue c src s).1 := by
  unfold Machine.fireCue
  extract_lets tracked m n p q
  have hm : Told s m := refl s
  have hn : Told s n := hm.trans (fireRigs tracked c m)
  clear_value n
  have hp : Told s p := (hn.trans (setSeq _ n)).trans (handOver _)
  clear_value p
  have hq : Told p q := refl p
  exact (hp.trans hq).trans (clockFire _ _ _ _ q)

theorem takeBeat (r : BeatRec) (s : State) : Told s (takeBeat r s) := by
  unfold Machine.takeBeat
  split
  · exact fireCue _ _ s
  · exact refl s

theorem fire (n : CueNo) (src : FireSource) (s : State) : Told s (fire n src s) := by
  unfold Machine.fire
  split
  · exact refl s
  · extract_lets r
    split
    · exact (fireCue _ src s).trans (takeBeat _ _)
    · exact fireCue _ src s

theorem enterRun (s : State) : Told s (enterRun s) := by
  unfold Machine.enterRun
  extract_lets m
  have hm : Told s m := setStop _ s
  split
  · exact (hm.trans (setSeq _ m)).trans (fire _ _ _)
  · exact hm

theorem completeHold (p : HeldPosition) (s : State) : Told s (completeHold p s) := fun _ => rfl

theorem afterCommit (r : State × Committed) : Told r.1 (afterCommit r) := by
  unfold Machine.afterCommit
  extract_lets m n
  have hm : Told r.1 m := by
    unfold m
    split
    · exact completeHold _ r.1
    · exact refl r.1
  have hn : Told r.1 n := by
    refine hm.trans (ite ?_ (refl m))
    unfold Machine.countInEnds
    split
    · exact enterRun m
    · exact refl m
  split
  · exact hn.trans (takeBeat _ n)
  · exact hn

theorem committed {s : State} {r : State × Committed} (h : outside r.1 = outside s) : Told s (Machine.afterCommit r) :=
  (timed h).trans (afterCommit r)

theorem holdByClock (s : State) : Told s (holdByClock s) := by
  unfold Machine.holdByClock
  split
  · exact (timed (outside_armHold s)).trans (setStop _ _)
  · exact (timed (outside_freezeCountIn s)).trans (completeHold _ _)
  · exact fun _ => rfl
  · exact fun _ => rfl

theorem takeHold (s : State) : Told s (takeHold s).1 := by
  unfold Machine.takeHold
  split
  · exact holdByClock s
  · exact holdByClock s
  all_goals exact refl s

theorem holdCountIn (s : State) : Told s (holdCountIn s) := by
  unfold Machine.holdCountIn
  extract_lets bars bar r
  refine ite ?_ ?_
  · exact ((timed (outside_holdStart bar bars s)).trans (enterRun r.1)).trans (afterCommit (Machine.enterRun r.1, r.2))
  · exact (setStop _ s).trans (committed (outside_holdStart bar bars _))

theorem resumeCountIn (s : State) : Told s (resumeCountIn s) := by
  unfold Machine.resumeCountIn
  extract_lets bars bar m r
  have hm : Told s m := refl s
  refine hm.trans (ite ?_ ?_)
  · exact ((timed (outside_resumeStart bar bars m)).trans (enterRun r.1)).trans (afterCommit (Machine.enterRun r.1, r.2))
  · exact (setStop _ m).trans (committed (outside_resumeStart bar bars _))

theorem takeGo (src : FireSource) (s : State) : Told s (takeGo src s).1 := by
  unfold Machine.takeGo
  split
  · unfold Machine.goInRun
    split
    · exact refl s
    · split
      · exact refl s
      · exact fire _ src s
  · split
    · exact (timed (outside_cancelHold s)).trans (enterRun _)
    · exact holdCountIn s
  · exact holdCountIn s
  · exact holdCountIn s
  · split
    · exact refl s
    · exact resumeCountIn s
  all_goals exact refl s

theorem sequencerStop (s : State) : Told s (sequencerStop s) := (setSeq _ s).trans (withdrawLatch _)

theorem stationsStop (s : State) : Told s (eachStation stationStop s) := rigs (RigsKeep.eachStation Rigs.stationStop s)

theorem stopOrders (src : Source) (s : State) : Told s (stopOrders src s) := by
  unfold Machine.stopOrders
  extract_lets m n
  have hm : Told s m := (setStop _ s).trans (timed (outside_videoStop _))
  have hn : Told s n :=
    (((hm.trans (timed (outside_clockStop m))).trans (timed (outside_cancelClicks _))).trans (stationsStop _)).trans
      (sequencerStop _)
  exact hn.trans (raise _ n)

theorem takeStop (src : Source) (s : State) : Told s (takeStop src s) := by
  unfold Machine.takeStop
  split
  case h_5 => exact (stationsStop s).trans (sequencerStop _)
  all_goals exact (setStopCtl _ s rfl).trans (stopOrders src _)

theorem freshRebuild (s : State) : Told s (freshRebuild s) := by
  unfold Machine.freshRebuild
  split
  · exact refl s
  · extract_lets n m p q
    have hm : Told s m := fun _ => rfl
    have hq : Told m q := refl m
    refine ((hm.trans hq).trans (rigs (RigsKeep.eachStation (Rigs.stationRebuild n) q))).trans ?_
    refine trans ?_ (rigs (RigsKeep.evaluateReady _))
    unfold Machine.sequencerRebuild
    exact ((setSeq _ _).trans (clearLatch _)).trans (handOver _)

theorem rebuildAgain (s : State) : Told s (rebuildAgain s) := ite (freshRebuild s) (refl s)

theorem sequencerListChanged (before : Option CueNo) (change : ListChange) (s : State) :
    Told s (sequencerListChanged before change s) := by
  unfold Machine.sequencerListChanged
  extract_lets m next n
  have hm : Told s m := refl s
  have hn : Told m n := by
    unfold n
    exact ite (setSeq _ m) (trans (clearLatch m) (setSeq _ _))
  exact (hm.trans hn).trans (handOver n)

theorem wordOnline (i : Fin 6) (s : State) : Told s (wordOnline i s) := by
  unfold Machine.wordOnline
  dsimp only
  split
  · exact refl s
  · exact rebuildAgain (Machine.setWords i _ s)

theorem takeHello (i : Fin 6) (n : Nat) (s : State) : Told s (takeHello i n s) := by
  unfold Machine.takeHello
  split
  · exact refl s
  · extract_lets m p
    have hm : Told s m := (rigs (Rigs.stationOnline i n s).keep).trans (wordOnline i _)
    have hp : Told m p := refl m
    exact ite (hm.trans hp) ((hm.trans hp).trans (rigs (Rigs.resync i p).keep))

theorem changeExcluded (i : Fin 6) (e : Bool) (s : State) : Told s (changeExcluded i e s) := by
  unfold Machine.changeExcluded wordExcluded wordIncluded
  split
  · exact refl s
  · split
    · exact ((rigs (Rigs.excludeStation i s).keep).trans (setWords i _ _)).trans (setAccount i _ _)
    · refine trans ?_ (rigs (Rigs.includeStation i _).keep)
      dsimp only
      split
      · exact ((rigs (RigsKeep.setStation i _ s)).trans (setWords i _ _)).trans (setAccount i _ _)
      · exact refl s

theorem timerExpires (s : State) : Told s (timerExpires s) := by
  unfold Machine.timerExpires
  split
  · refine ite ((setSeq _ s).trans (fire _ _ _)) ?_
    split <;> exact refl s
  · exact refl s

theorem restartShow (s : State) : Told s (restartShow s) := by
  unfold Machine.restartShow
  extract_lets m n
  have hn : Told s n := fun _ => rfl
  clear_value n
  have hu := hn.trans (rigs (RigsKeep.eachStation Rigs.stationRestart n))
  exact (hu.trans ((setSeq _ _).trans (handOver _))).trans (attentionRestart _)

theorem endLoad (a : FlashAnswer) {s : State} (hl : s.loading = true) : Told s (endLoad a s) := by
  unfold Machine.endLoad
  rw [if_pos hl]
  extract_lets image m w
  have hw : Told s w := by
    unfold w
    cases image <;> exact refl s
  clear_value w
  have hx : Told w { w with loading := false } := refl w
  exact ((hw.trans hx).trans (handOver _)).trans (rigs (RigsKeep.eachStation Rigs.greetPresent _))

theorem deed {s u : State} (h : Deed s u) : Told s u := by
  cases h with
  | aside h => exact aside h
  | restart => exact restartShow s
  | edit _ change x =>
    have hx : Told s { s with store := x } := refl s
    exact (hx.trans (sequencerListChanged _ change _)).trans (rebuildAgain _)
  | mapEdit _ i p d map =>
    have hx : Told s { s with map := map } := refl s
    exact (hx.trans (rigs (Rigs.stationMapChanged i p d _).keep)).trans (rebuildAgain _)
  | setLatch _ n =>
    unfold Machine.setLatch
    exact trans (u := videoStandby (some n) (s.setSeq fun q => { q with latch := some n })) (refl s) (handOver _)
  | withdraw => exact withdrawLatch s
  | jump _ n =>
    exact trans (u := Machine.clearLatch (s.setSeq fun q => { q with pointer := some n, timer := .idle })) (refl s) (handOver _)
  | handOver => exact handOver s
  | go _ src => exact takeGo src s
  | hold => exact takeHold s
  | stop _ src => exact takeStop src s
  | resume => exact (setStopCtl _ s rfl).trans (freshRebuild _)
  | channel i x o => exact trans (u := s.setChannel i (writeChannel x o)) (refl s) (drainReport _)
  | pulse => exact committed (outside_takePulse s)
  | commit => exact committed (outside_commitScheduled s)
  | recommit => exact committed (outside_commitIfDue s)
  | timer => exact timerExpires s
  | burstStart i => exact trans (u := s.setChannel i _) (refl s) (drainReport _)
  | burstEnd => exact refl s
  | rise i => unfold presentRises; split_ifs <;> exact refl s
  | fall i =>
    unfold presentFalls takeDeparture wordOffline
    exact ite (((rigs (Rigs.stationOffline i s).keep).trans (setWords i _ _)).trans (setAccount i _ _)) (refl s)
  | minor => exact refl s
  | flush => exact refl s
  | recompute _ i => exact rigs (Rigs.recompute _ i s).keep
  | reset _ i => exact rigs (Rigs.resetStation i s).keep
  | exclude _ i e => exact changeExcluded i e s
  | hello _ i n => exact takeHello i n s
  | loaded i o => exact rigs (Rigs.takeLoaded i o s).keep
  | failLoad i k o => exact rigs (Rigs.failLoad i k o s).keep
  | selected i k => exact rigs (Rigs.takeSelected i k s).keep
  | failSelect i k => exact rigs (Rigs.failSelect i k s).keep
  | send _ i => exact rigs (Rigs.sendNext i s).keep
  | sent i => exact refl s
  | load a hl => exact endLoad a hl

end Told

/-- Settles O7: the chains of orders keep the copies, the pointer and the latch. -/
theorem stepKeepsCopiesAndPointer : Obligations.StepKeepsCopiesAndPointer := by
  refine ⟨fun s u hs he => ?_, fun s u hs he => ?_⟩
  · refine keep_step restarted_copies (fun {s u} h hs => ?_) hs he
    obtain ⟨h₁, h₂, h₃, h₄⟩ := hs
    obtain ⟨k₁, k₂, k₄⟩ := (goes_deed h).1 ⟨h₁, h₂, h₄⟩
    exact ⟨k₁, k₂, Told.deed h h₃, k₄⟩
  · exact keep_step (P := State.PointerSound) restarted_pointer (fun h => (goes_deed h).2) hs he

end Sys2Proof.Proofs

namespace Sys2Proof.Proofs

open Sys2Proof Sys2Proof.Machine

/-! ## Clock and bursts in a quiet stop state

A beat is committed only while the clock counts in or runs, so in a stop state that is neither quiet nor a drain; and in such a stop
state nothing is promised. -/

/-- The stop states in which nothing is promised of clock and bursts. -/
def Loud (s : State) : Prop := s.stop.st.quiet = false ∧ s.stop.st ≠ .holding .draining

theorem Loud.sound {s : State} (h : Loud s) : s.StopSound :=
  ⟨fun hq => absurd hq (by simp [h.1]), fun hd => absurd hd h.2⟩

theorem Loud.of_stop {s u : State} (h : Loud s) (hu : u.stop = s.stop) : Loud u := by
  unfold Loud
  rw [hu]
  exact h

theorem Loud.rebuilds {s : State} (h : Loud s) : s.stop.st.rebuilds = false := by
  obtain ⟨hq, -⟩ := h
  cases hs : s.stop.st <;> simp_all [StopSt.quiet, StopSt.rebuilds]

theorem loud_of_beats {s : State} (hs : s.StopSound) (hb : s.clock.st.beats = true) : Loud s := by
  obtain ⟨hq, hd⟩ := hs
  refine ⟨Bool.eq_false_iff.mpr fun h => ?_, fun h => ?_⟩
  · rw [(hq h).1] at hb; cases hb
  · rw [hd h] at hb; cases hb

/-- The clock's state and the stop state stay, no burst comes. -/
structure Still (s u : State) : Prop where
  clock : u.clock.st = s.clock.st
  bursts : drained s = true → drained u = true
  quiet : u.stop.st.quiet = s.stop.st.quiet
  draining : u.stop.st = .holding .draining → s.stop.st = .holding .draining

namespace Still

theorem refl (s : State) : Still s s := ⟨rfl, id, rfl, id⟩

theorem trans {s u v : State} (h : Still s u) (k : Still u v) : Still s v :=
  ⟨k.clock.trans h.clock, k.bursts ∘ h.bursts, k.quiet.trans h.quiet, h.draining ∘ k.draining⟩

theorem ite {s a b : State} {c : Prop} [Decidable c] (ha : Still s a) (hb : Still s b) : Still s (if c then a else b) := by
  split
  · exact ha
  · exact hb

theorem sound {s u : State} (h : Still s u) (hs : s.StopSound) : u.StopSound := by
  obtain ⟨hq, hd⟩ := hs
  refine ⟨fun k => ?_, fun k => h.clock.trans (hd (h.draining k))⟩
  obtain ⟨hb, hn⟩ := hq (h.quiet ▸ k)
  exact ⟨by rwa [h.clock], h.bursts hn⟩

theorem same {s u : State} (hc : u.clock.st = s.clock.st) (hb : drained s = true → drained u = true) (hst : u.stop.st = s.stop.st) :
    Still s u := ⟨hc, hb, by rw [hst], by rw [hst]; exact id⟩

theorem rigs {s u : State} (h : RigsKeep s u) : Still s u := by
  have r : ∀ {α : Type} (g : State → α), _ := fun g => congrArg g h.rest
  have hb : drained s = true → drained u = true := fun hd => by
    have e : u.channels = s.channels := r (·.channels)
    unfold drained at hd ⊢
    rwa [e]
  have hr := h.rebuilds
  cases hs : s.stop.st.rebuilds with
  | false => exact same (r (·.clock.st)) hb (by rw [(h.outside hs).1])
  | true =>
    rw [hs] at hr
    have q : ∀ st : StopSt, st.rebuilds = true → st.quiet = true ∧ st ≠ .holding .draining := fun st h => by
      cases st <;> simp_all [StopSt.rebuilds, StopSt.quiet]
    exact ⟨r (·.clock.st), hb, by rw [(q _ hr).1, (q _ hs).1], fun h => absurd h (q _ hr).2⟩

theorem aside {s u : State} (h : Aside s u) : Still s u := by
  have hc := congrArg BeatClock.st h.clock
  refine same hc (fun hd => ?_) (by rw [h.stop])
  unfold drained at hd ⊢
  have e := congrArg (List.all · List.isEmpty) h.bursts
  simp only [List.all_map, Function.comp_def] at e
  rwa [e]

theorem setSeq (f : Sequencer → Sequencer) (s : State) : Still s (s.setSeq f) := ⟨rfl, id, rfl, id⟩
theorem setVideo (f : Video → Video) (s : State) : Still s (s.setVideo f) := ⟨rfl, id, rfl, id⟩
theorem raise (r : CondRecord) (s : State) : Still s (raise r s) := ⟨rfl, id, rfl, id⟩
theorem setWords (i : Fin 6) (f : StationWords → StationWords) (s : State) : Still s (setWords i f s) := ⟨rfl, id, rfl, id⟩
theorem setStopCtl (f : StopController → StopController) (s : State) (h : (f s.stop).st = s.stop.st) : Still s (s.setStopCtl f) :=
  same rfl id h
theorem attentionRestart (s : State) : Still s (attentionRestart s) := ⟨rfl, id, rfl, id⟩
theorem setAccount (i : Fin 6) (f : Account → Account) (s : State) : Still s (setAccount i f s) := rigs (RigsKeep.setAccount i f s)

/-- A write of the channels that adds no burst. -/
theorem zipChannels (f : Fin 16 → Channel → Channel) (s : State) (h : ∀ i c, (f i c).bursts = c.bursts) :
    Still s { s with channels := List.zipWith f allChannels s.channels } := by
  refine ⟨rfl, fun hd => ?_, rfl, id⟩
  unfold drained at hd ⊢
  rw [List.all_eq_true] at hd ⊢
  intro c hc
  rw [List.mem_iff_getElem] at hc
  obtain ⟨j, hj, rfl⟩ := hc
  rw [List.getElem_zipWith, h]
  exact hd _ (List.getElem_mem _)

theorem clickFire (c : Cue) (s : State) : Still s (clickFire c s) := by
  refine zipChannels _ s fun i c => ?_
  split <;> rfl

theorem clickTracked (n : CueNo) (s : State) : Still s (clickTracked n s) := zipChannels _ s fun _ _ => rfl

theorem handOver (s : State) : Still s (handOver s) :=
  (setSeq (fun q => { q with ahead := lookAhead s }) s).trans (rigs (RigsKeep.eachStation (Rigs.takeAhead _ _) _))

theorem clearLatch (s : State) : Still s (clearLatch s) := ⟨rfl, id, rfl, id⟩

theorem withdrawLatch (s : State) : Still s (withdrawLatch s) := by
  unfold Machine.withdrawLatch
  split
  · exact (clearLatch s).trans (handOver _)
  · exact refl s

theorem fireRigs (tracked : Bool) (c : Cue) (s : State) : Still s (fireRigs tracked c s) := by
  unfold Machine.fireRigs
  extract_lets m n
  have hm : Still s m := ite (clickTracked _ s) (clickFire c s)
  have hn : Still m n := setVideo _ m
  exact (hm.trans hn).trans (rigs (RigsKeep.eachStation (Rigs.fireTarget tracked c) n))

theorem sequencerStop (s : State) : Still s (sequencerStop s) := (setSeq _ s).trans (withdrawLatch _)

theorem stationsStop (s : State) : Still s (eachStation stationStop s) := rigs (RigsKeep.eachStation Rigs.stationStop s)

theorem sequencerListChanged (before : Option CueNo) (change : ListChange) (s : State) :
    Still s (sequencerListChanged before change s) := by
  unfold Machine.sequencerListChanged
  extract_lets m next n
  have hm : Still s m := setSeq _ s
  have hn : Still m n := ite (setSeq _ m) ((clearLatch m).trans (setSeq _ _))
  exact (hm.trans hn).trans (handOver n)

theorem sequencerRebuild (n : CueNo) (s : State) : Still s (sequencerRebuild n s) := by
  unfold Machine.sequencerRebuild
  exact ((setSeq _ _).trans (clearLatch _)).trans (handOver _)

/-- A fresh rebuild begins in a quiet stop state. -/
theorem freshRebuild {s : State} (h : s.stop.st.quiet = true) : Still s (freshRebuild s) := by
  unfold Machine.freshRebuild
  split
  · exact refl s
  · extract_lets n m p q
    have hm : Still s m := ⟨rfl, id, h.symm, fun e => nomatch e⟩
    have hp : Still m p := ⟨rfl, id, rfl, id⟩
    have hq : Still p q := (clickTracked n p).trans (setVideo _ _)
    exact ((((hm.trans hp).trans hq).trans (rigs (RigsKeep.eachStation (Rigs.stationRebuild n) q))).trans
      (sequencerRebuild n _)).trans (rigs (RigsKeep.evaluateReady _))

theorem rebuildAgain (s : State) : Still s (rebuildAgain s) := by
  unfold Machine.rebuildAgain
  split
  case isTrue h => exact freshRebuild (by cases hs : s.stop.st <;> simp_all [StopSt.rebuilds, StopSt.quiet])
  · exact refl s

theorem wordOnline (i : Fin 6) (s : State) : Still s (wordOnline i s) := by
  unfold Machine.wordOnline
  exact (setWords i _ s).trans (ite (refl _) (rebuildAgain _))

theorem takeHello (i : Fin 6) (n : Nat) (s : State) : Still s (takeHello i n s) := by
  unfold Machine.takeHello
  refine ite (rigs (Rigs.protocolError i s).keep) ?_
  extract_lets m p
  have hm : Still s m := (rigs (Rigs.stationOnline i n s).keep).trans (wordOnline i _)
  have hp : Still m p := rigs (RigsKeep.setStation i _ m)
  exact ite (hm.trans hp) ((hm.trans hp).trans (rigs (Rigs.resync i p).keep))

theorem changeExcluded (i : Fin 6) (e : Bool) (s : State) : Still s (changeExcluded i e s) := by
  unfold Machine.changeExcluded wordExcluded wordIncluded
  refine ite (refl s) (ite (((rigs (Rigs.excludeStation i s).keep).trans (setWords i _ _)).trans (setAccount i _ _)) ?_)
  refine trans ?_ (rigs (Rigs.includeStation i _).keep)
  exact ((rigs (RigsKeep.setStation i _ s)).trans (setWords i _ _)).trans (ite (setAccount i _ _) (refl _))

end Still

/-! ### Fires -/

theorem fireCue_stop (c : Cue) (src : FireSource) {s : State} (h : s.stop.st.rebuilds = false) : (fireCue c src s).1.stop = s.stop := by
  obtain ⟨m, hm, -, -, -, e⟩ := fireCue_spec c src s h
  obtain ⟨-, -, -, -, -, -, hm⟩ := hm
  rw [e]
  have ho := Keeps.clockFire c.number c.barSet (tempoHanded c s) c.vamp m
  have hs : m.stop = s.stop := congrArg (·.stop) hm
  rw [← hs]
  unfold clockFire
  extract_lets p r n
  have hn : outside n = outside p := by simp only [n, r, outside_clockVamp, outside_clockTempo, outside_clockBarSet]
  have hn' : n.stop = m.stop := congrArg (·.rest.stop) hn
  split
  · exact (congrArg (·.rest.stop) (outside_commitIfDue n)).trans hn'
  · exact hn'

theorem takeBeat_stop (r : BeatRec) {s : State} (h : s.stop.st.rebuilds = false) : (takeBeat r s).stop = s.stop := by
  unfold takeBeat
  split
  · exact fireCue_stop _ _ h
  · rfl

theorem fire_stop (n : CueNo) (src : FireSource) {s : State} (h : s.stop.st.rebuilds = false) : (fire n src s).stop = s.stop := by
  unfold fire
  split
  · rfl
  case h_2 c _ =>
    extract_lets r
    have hr : r.1.stop = s.stop := fireCue_stop c src h
    split
    · exact (takeBeat_stop _ (by rw [hr]; exact h)).trans hr
    · exact hr

/-- A fire that finds the clock FROZEN leaves it so. -/
theorem fire_frozen (n : CueNo) (src : FireSource) {s : State} (hc : s.clock.st = .frozen) (h : s.stop.st.rebuilds = false) :
    (fire n src s).clock.st = .frozen := by
  unfold fire
  split
  · exact hc
  case h_2 c _ =>
    extract_lets r
    obtain ⟨hn, -, hk, -⟩ := fireCue_running c src s (by rw [hc]; decide) h
    have hr : r.1.clock.st = .frozen := by rw [hk]; exact hc
    have hb : r.2.beat = none := by rw [hn]; rfl
    rw [hb]
    exact hr

theorem enterRun_stop (s : State) : (enterRun s).stop.st = .run := by
  unfold enterRun
  extract_lets m
  split
  · rw [fire_stop _ _ rfl]
    rfl
  · rfl

theorem enterRun_frozen {s : State} (h : s.clock.st = .frozen) : (enterRun s).clock.st = .frozen := by
  unfold enterRun
  extract_lets m
  split
  · exact fire_frozen _ _ h rfl
  · exact h

theorem loud_enterRun (s : State) : Loud (enterRun s) := by
  unfold Loud
  rw [enterRun_stop]
  exact ⟨rfl, by simp⟩

/-! ### Commits -/

/-- What reaching a commit came to: where it froze the clock, nothing else. -/
def HeldFrozen (r : State × Committed) : Prop :=
  ∀ p, r.2.held = some p → r.1.clock.st = .frozen ∧ r.2.countInEnd = false ∧ r.2.beat = none

theorem heldFrozen_none {r : State × Committed} (h : r.2.held = none) : HeldFrozen r := fun p hp => by rw [h] at hp; cases hp

@[simp] theorem clockFreezes_st (s : State) : (clockFreezes s).clock.st = .frozen := rfl

theorem heldFrozen_commitAs (t bar beat : Nat) (phase : Phase) (s : State) : HeldFrozen (commitAs t bar beat phase s) := by
  unfold commitAs
  split <;> exact heldFrozen_none rfl

theorem heldFrozen_reachBeat (t : Nat) (s : State) : HeldFrozen (reachBeat t s) := by
  unfold reachBeat
  split
  · exact heldFrozen_none rfl
  · split
    · unfold reachDown
      split
      · exact fun _ _ => ⟨rfl, rfl, rfl⟩
      · split
        · exact heldFrozen_none rfl
        · exact heldFrozen_commitAs _ _ _ _ _
    · exact heldFrozen_commitAs _ _ _ _ _
    · exact heldFrozen_commitAs _ _ _ _ _

theorem heldFrozen_commitScheduled (s : State) : HeldFrozen (commitScheduled s) := by
  unfold commitScheduled
  split
  · exact heldFrozen_reachBeat _ s
  · exact heldFrozen_none rfl

theorem heldFrozen_commitIfDue (s : State) : HeldFrozen (commitIfDue s) := by
  unfold commitIfDue
  split
  · split
    · exact heldFrozen_commitScheduled s
    · exact heldFrozen_none rfl
  · exact heldFrozen_none rfl

theorem heldFrozen_takePulse (s : State) : HeldFrozen (takePulse s) := by
  unfold takePulse
  split
  · split
    · exact heldFrozen_none rfl
    · split
      · exact heldFrozen_commitIfDue _
      · exact heldFrozen_none rfl
      · split
        · exact heldFrozen_none rfl
        · exact heldFrozen_reachBeat _ _
      · exact heldFrozen_none rfl
  · exact heldFrozen_none rfl

theorem heldFrozen_holdStart (bar bars : Nat) (s : State) : HeldFrozen (holdStart bar bars s) := by
  unfold holdStart
  split
  · dsimp only
    split
    · exact heldFrozen_none rfl
    · exact heldFrozen_commitIfDue _
  · exact heldFrozen_commitIfDue _
  · exact heldFrozen_none rfl

theorem heldFrozen_resumeStart (bar bars : Nat) (s : State) : HeldFrozen (resumeStart bar bars s) := by
  unfold resumeStart
  dsimp only
  split
  · split
    · exact heldFrozen_none rfl
    · exact heldFrozen_commitIfDue _
  · exact heldFrozen_none rfl

theorem completeHold_sound (p : HeldPosition) {s : State} (h : s.clock.st = .frozen) : (completeHold p s).StopSound := by
  unfold completeHold
  extract_lets m
  have hm : m.clock.st = .frozen := h
  split
  case isTrue hd => exact ⟨fun _ => ⟨by rw [setStop, hm]; rfl, hd⟩, fun e => nomatch e⟩
  · exact ⟨fun e => (nomatch e), fun _ => hm⟩

/-- The reports of a commit end in a sound stop state. -/
theorem afterCommit_sound {r : State × Committed} (hl : Loud r.1) (hr : HeldFrozen r) : (afterCommit r).StopSound := by
  unfold afterCommit
  extract_lets m n
  cases hh : r.2.held with
  | some p =>
    obtain ⟨hf, he, hb⟩ := hr p hh
    have hm : m = completeHold p r.1 := by simp only [m, hh]
    have hn : n = m := by simp [n, he]
    rw [hb, hn, hm]
    exact completeHold_sound p hf
  | none =>
    have hm : m = r.1 := by simp only [m, hh]
    have hn : Loud n := by
      unfold n
      rw [hm]
      split
      · unfold countInEnds
        split
        · exact loud_enterRun _
        · exact hl
      · exact hl
    split
    · exact (hn.of_stop (takeBeat_stop _ hn.rebuilds)).sound
    · exact hn.sound

theorem afterCommit_nothing (s : State) : afterCommit (s, .nothing) = s := rfl

/-- A commit that the clock's beats bring about. -/
theorem afterCommit_beats {s : State} {r : State × Committed} (hs : s.StopSound) (hb : s.clock.st.beats = true)
    (ho : outside r.1 = outside s) (hr : HeldFrozen r) : (afterCommit r).StopSound :=
  afterCommit_sound ((loud_of_beats hs hb).of_stop (congrArg (·.rest.stop) ho)) hr

theorem commitIfDue_sound {s : State} (hs : s.StopSound) : (afterCommit (commitIfDue s)).StopSound := by
  by_cases hb : s.clock.st.beats = true
  · exact afterCommit_beats hs hb (outside_commitIfDue s) (heldFrozen_commitIfDue s)
  · rw [show commitIfDue s = (s, .nothing) by simp [commitIfDue, commitDue, hb]]
    exact hs

theorem takePulse_sound {s : State} (hs : s.StopSound) : (afterCommit (takePulse s)).StopSound := by
  by_cases hb : s.clock.st.beats = true
  · exact afterCommit_beats hs hb (outside_takePulse s) (heldFrozen_takePulse s)
  · rw [show takePulse s = (s, .nothing) by simp [takePulse, hb]]
    exact hs

/-! ### Orders -/

/-- A start without a count-in enters RUN after the clock has started. -/
theorem start_sound {r : State × Committed} (hr : HeldFrozen r) : (afterCommit (enterRun r.1, r.2)).StopSound :=
  afterCommit_sound (loud_enterRun r.1) fun p hp => by
    obtain ⟨hf, h⟩ := hr p hp
    exact ⟨enterRun_frozen hf, h⟩

theorem countIn_sound {k : CountInKind} {s : State} {r : State × Committed} (ho : outside r.1 = outside (setStop (.countIn k) s))
    (hr : HeldFrozen r) : (afterCommit r).StopSound :=
  afterCommit_sound (Loud.of_stop (s := setStop (.countIn k) s) ⟨rfl, by simp [setStop]⟩ (congrArg (·.rest.stop) ho)) hr

theorem holdCountIn_sound (s : State) : (holdCountIn s).StopSound := by
  unfold holdCountIn
  extract_lets bars bar r
  split
  · exact start_sound (heldFrozen_holdStart bar bars s)
  · exact countIn_sound (outside_holdStart bar bars _) (heldFrozen_holdStart bar bars _)

theorem resumeCountIn_sound (s : State) : (resumeCountIn s).StopSound := by
  unfold resumeCountIn
  extract_lets bars bar m r
  split
  · exact start_sound (heldFrozen_resumeStart bar bars m)
  · exact countIn_sound (outside_resumeStart bar bars _) (heldFrozen_resumeStart bar bars _)

theorem drained_cancelClicks (s : State) : drained (cancelClicks s) = true := by
  simp [drained, cancelClicks]

theorem takeHold_sound {s : State} (hs : s.StopSound) : (takeHold s).1.StopSound := by
  have order : (holdByClock s).StopSound := by
    unfold holdByClock
    split
    · exact Loud.sound ⟨rfl, by simp [setStop]⟩
    · exact completeHold_sound _ rfl
    · rename_i h; exact ⟨fun _ => ⟨by change s.clock.st.beats = false; rw [h]; rfl, drained_cancelClicks s⟩, fun e => nomatch e⟩
    · rename_i h; exact ⟨fun _ => ⟨by change s.clock.st.beats = false; rw [h]; rfl, drained_cancelClicks s⟩, fun e => nomatch e⟩
  unfold takeHold
  split
  · exact order
  · exact order
  all_goals exact hs

theorem takeGo_sound (src : FireSource) {s : State} (hs : s.StopSound) : (takeGo src s).1.StopSound := by
  unfold takeGo
  split
  case h_1 h =>
    have hl : Loud s := ⟨by rw [h]; rfl, by rw [h]; simp⟩
    unfold goInRun
    split
    · exact hs
    · split
      · exact hs
      · exact (hl.of_stop (fire_stop _ src hl.rebuilds)).sound
  · split
    · exact (loud_enterRun _).sound
    · exact holdCountIn_sound s
  · exact holdCountIn_sound s
  · exact holdCountIn_sound s
  · split
    · exact hs
    · exact resumeCountIn_sound s
  all_goals exact hs

theorem stopOrders_sound (src : Source) (s : State) : (stopOrders src s).StopSound := by
  unfold stopOrders
  extract_lets m n
  obtain ⟨k, f, e, -, -, hk, -⟩ := clockStop_spec m
  have base : (cancelClicks (clockStop m)).StopSound := by
    refine ⟨fun _ => ⟨?_, drained_cancelClicks _⟩, fun h => ?_⟩
    · change (clockStop m).clock.st.beats = false
      rw [e, hk]
      split <;> rfl
    · have : (clockStop m).stop.st = .stopped := by rw [e]; rfl
      rw [show (cancelClicks (clockStop m)).stop.st = (clockStop m).stop.st from rfl, this] at h
      cases h
  exact (((Still.stationsStop _).trans (Still.sequencerStop _)).trans (Still.raise _ _)).sound base

theorem takeStop_sound (src : Source) {s : State} (hs : s.StopSound) : (takeStop src s).StopSound := by
  unfold takeStop
  split
  case h_5 => exact ((Still.stationsStop s).trans (Still.sequencerStop _)).sound hs
  all_goals exact stopOrders_sound src _

theorem drainReport_sound {s : State} (hs : s.StopSound) : (drainReport s).StopSound := by
  unfold drainReport
  split
  case h_1 h =>
    split
    case isTrue hd => exact ⟨fun _ => ⟨by rw [setStop, hs.2 h]; rfl, hd⟩, fun e => nomatch e⟩
    · exact hs
  · exact hs

/-- A write of one channel that adds no burst. -/
theorem Still.setChannel (i : Fin 16) (f : Channel → Channel) (s : State) (h : ∀ c, c.bursts = [] → (f c).bursts = []) :
    Still s (s.setChannel i f) := by
  refine ⟨rfl, fun hd => ?_, rfl, id⟩
  simp only [drained, List.all_eq_true, List.isEmpty_iff] at hd ⊢
  intro c hc
  rcases mem_modify hc with ⟨y, hy, rfl⟩ | hc
  · exact h y (hd y (List.mem_of_getElem? hy))
  · exact hd c hc

theorem timerExpires_sound {s : State} (hs : s.StopSound) : (timerExpires s).StopSound := by
  unfold timerExpires
  split
  · split
    case isTrue hf =>
      have hr : s.stop.st.rebuilds = false := by cases h : s.stop.st <;> simp_all [StopSt.fires, StopSt.rebuilds]
      refine ⟨fun hq => ?_, fun hd => ?_⟩
      · rw [fire_stop _ _ (by exact hr)] at hq
        cases h : s.stop.st <;> simp_all [StopSt.fires, StopSt.quiet]
      · rw [fire_stop _ _ (by exact hr)] at hd
        exact fire_frozen _ _ (hs.2 hd) hr
    · split <;> exact hs
  · exact hs

theorem restartShow_sound (s : State) : (restartShow s).StopSound := by
  refine Loud.sound ?_
  unfold restartShow
  extract_lets m n
  have hn : n.stop.st = .run := rfl
  clear_value n
  have h : Still n (attentionRestart (sequencerRestart (eachStation stationRestart n))) :=
    ((Still.rigs (RigsKeep.eachStation Rigs.stationRestart n)).trans
      ((Still.setSeq _ _).trans (Still.handOver _))).trans (Still.attentionRestart _)
  refine ⟨?_, fun hd => ?_⟩
  · have := h.quiet; rw [hn] at this; exact this
  · have := h.draining hd; rw [hn] at this; cases this

theorem endLoad_sound (a : FlashAnswer) {s : State} (hl : s.loading = true) (hs : s.StopSound) : (endLoad a s).StopSound := by
  unfold endLoad
  rw [if_pos hl]
  extract_lets image m w
  have hw : Still s w := by
    have aside : Still s m := ⟨rfl, id, rfl, id⟩
    refine aside.trans ?_
    unfold w
    cases image with
    | none =>
      refine ⟨rfl, fun hd => ?_, rfl, id⟩
      simpa [drained, installNothing, raise, Function.comp_def] using hd
    | some i =>
      refine ⟨rfl, fun hd => ?_, rfl, id⟩
      simp only [drained, installImage, List.all_eq_true] at hd ⊢
      intro c hc
      obtain ⟨j, hj, rfl⟩ := List.mem_iff_getElem.mp hc
      rw [List.getElem_zipWith]
      have hj' : j < m.channels.length := lt_of_lt_of_le hj (by simp)
      exact hd m.channels[j] (List.getElem_mem hj')
  clear_value w
  have hx : Still w { w with loading := false } := ⟨rfl, id, rfl, id⟩
  exact (((hw.trans hx).trans (Still.handOver _)).trans (Still.rigs (RigsKeep.eachStation Rigs.greetPresent _))).sound hs

theorem deed_stopSound {s u : State} (h : Deed s u) (hs : s.StopSound) : u.StopSound := by
  have still {u : State} (h : Still s u) : u.StopSound := h.sound hs
  cases h with
  | aside h => exact still (.aside h)
  | restart => exact restartShow_sound s
  | edit _ change x =>
    have hx : Still s { s with store := x } := ⟨rfl, id, rfl, id⟩
    exact still ((hx.trans (.sequencerListChanged _ change _)).trans (.rebuildAgain _))
  | mapEdit _ i p d map =>
    have hx : Still s { s with map := map } := ⟨rfl, id, rfl, id⟩
    exact still ((hx.trans (.rigs (Rigs.stationMapChanged i p d _).keep)).trans (.rebuildAgain _))
  | setLatch _ n => unfold setLatch; exact still (((Still.setSeq _ s).trans (.setVideo _ _)).trans (.handOver _))
  | withdraw => exact still (.withdrawLatch s)
  | jump _ n => exact still (((Still.setSeq _ s).trans (.clearLatch _)).trans (.handOver _))
  | handOver => exact still (.handOver s)
  | go _ src => exact takeGo_sound src hs
  | hold => exact takeHold_sound hs
  | stop _ src => exact takeStop_sound src hs
  | resume _ bar c hst =>
    refine still ((Still.setStopCtl _ s rfl).trans (.freshRebuild ?_))
    rcases hst with h | h
    · change s.stop.st.quiet = true; rw [h]; rfl
    · change s.stop.st.quiet = true; cases hs : s.stop.st <;> simp_all [StopSt.rebuilds, StopSt.quiet]
  | channel i x o =>
    refine drainReport_sound (still (.setChannel i _ s fun c hc => ?_))
    simp [writeChannel, hc]
  | pulse => exact takePulse_sound hs
  | commit hb => exact afterCommit_beats hs hb (outside_commitScheduled s) (heldFrozen_commitScheduled s)
  | recommit => exact commitIfDue_sound hs
  | timer => exact timerExpires_sound hs
  | burstStart i => exact drainReport_sound (still (.setChannel i _ s fun c hc => by simp [hc]))
  | burstEnd i => exact still (.setChannel i _ s fun _ hc => hc)
  | rise i => unfold presentRises; split_ifs <;> exact still ⟨rfl, id, rfl, id⟩
  | fall i =>
    unfold presentFalls takeDeparture wordOffline
    exact still (.ite (((Still.rigs (Rigs.stationOffline i s).keep).trans (.setWords i _ _)).trans (.setAccount i _ _)) (.refl s))
  | minor => exact still ⟨rfl, id, rfl, id⟩
  | flush => exact still ⟨rfl, id, rfl, id⟩
  | recompute _ i => exact still (.rigs (Rigs.recompute _ i s).keep)
  | reset _ i => exact still (.rigs (Rigs.resetStation i s).keep)
  | exclude _ i e => exact still (.changeExcluded i e s)
  | hello _ i n => exact still (.takeHello i n s)
  | loaded i o => exact still (.rigs (Rigs.takeLoaded i o s).keep)
  | failLoad i k o => exact still (.rigs (Rigs.failLoad i k o s).keep)
  | selected i k => exact still (.rigs (Rigs.takeSelected i k s).keep)
  | failSelect i k => exact still (.rigs (Rigs.failSelect i k s).keep)
  | send _ i => exact still (.rigs (Rigs.sendNext i s).keep)
  | sent i => exact still ⟨rfl, id, rfl, id⟩
  | load a hl => exact endLoad_sound a hl hs

/-- Settles O8: the chains of orders keep clock and bursts quiet. -/
theorem stepKeepsStopSound : Obligations.StepKeepsStopSound := fun _ _ hs he => keep_step restarted_stop deed_stopSound hs he

end Sys2Proof.Proofs

namespace Sys2Proof.Proofs

open Sys2Proof Sys2Proof.Machine

/-! ## What a served request answers -/

/-- A request's own function, applied at its show time, gives the state and the reply. -/
theorem exec_answered {c : Instr} {b : Bool} {f : State → State × Answer} {s u : State} {t : Nat} {a : Answer}
    (hs : s.Serving) (hc : exec c s = request t b f s) (hf : f (s.goTo t) = (u, a)) :
    exec c s = .next (u.replied a.status a.body) := by
  rw [hc, request_serving t b hs, hf]

/-- A refusal leaves the state as it was but for the time and the reply. -/
theorem exec_refused {c : Instr} {b : Bool} {f : State → State × Answer} {s : State} {t : Nat} {why : Status}
    (hs : s.Serving) (hc : exec c s = request t b f s) (hf : f (s.goTo t) = (s.goTo t, refuse why)) :
    exec c s = .next ((s.goTo t).replied why []) :=
  exec_answered hs hc hf

/-- An answer with a body and no effect. -/
theorem exec_told {c : Instr} {b : Bool} {f : State → State × Answer} {s : State} {t : Nat} {body : List Item}
    (hs : s.Serving) (hc : exec c s = request t b f s) (hf : f (s.goTo t) = (s.goTo t, okWith body)) :
    exec c s = .next ((s.goTo t).replied .ok body) :=
  exec_answered hs hc hf

theorem readChannel_of {n : Nat} (h : 1 ≤ n ∧ n ≤ 16) : readChannel n = some ⟨n - 1, by omega⟩ := dif_pos h

theorem readChannel_none {n : Nat} (h : ¬(1 ≤ n ∧ n ≤ 16)) : readChannel n = none := dif_neg h

theorem readStation_of {n : Nat} (h : 1 ≤ n ∧ n ≤ 6) : readStation n = some ⟨n - 1, by omega⟩ := dif_pos h

theorem readStation_none {n : Nat} (h : ¬(1 ≤ n ∧ n ≤ 6)) : readStation n = none := dif_neg h

theorem stationRequest_of {n : Nat} (h : 1 ≤ n ∧ n ≤ 6) (f : Fin 6 → State → State × Answer) (s : State) :
    stationRequest n f s = f ⟨n - 1, by omega⟩ s := by
  simp only [stationRequest, readStation_of h]

theorem stationRequest_none {n : Nat} (h : ¬(1 ≤ n ∧ n ≤ 6)) (f : Fin 6 → State → State × Answer) (s : State) :
    stationRequest n f s = (s, refuse .range) := by
  simp only [stationRequest, readStation_none h]

/-! ## The sixteen channels, each by its number -/

theorem allChannels_getElem? : ∀ i : Fin 16, allChannels[i.val]? = some i := by decide

theorem channel_zipChannels (f : Fin 16 → Channel → Channel) {s : State} (hl : s.channels.length = 16) (i : Fin 16) :
    State.channel { s with channels := List.zipWith f allChannels s.channels } i = f i (s.channel i) := by
  have hi : i.val < s.channels.length := by rw [hl]; exact i.isLt
  simp only [State.channel, List.getD_eq_getElem?_getD, List.getElem?_zipWith, allChannels_getElem?,
    List.getElem?_eq_getElem hi, Option.getD_some]

theorem channel_clickTracked (n : CueNo) {s : State} (hl : s.channels.length = 16) (i : Fin 16) :
    (clickTracked n s).channel i = { s.channel i with
      trackedOn := ((trackedOn s.store.cues n i).map (·.1)).getD false
      trackedSub := ((trackedSub s.store.cues n i).map (·.1)).getD 1 } :=
  channel_zipChannels _ hl i

/-! ## The reads -/

theorem reqCueGet_own {s : State} {n : CueNo} (hn : cueNoOk n = true) {c : Cue} (hc : findCue s.store.cues n = some c) :
    reqCueGet 0 n s = (s, okWith (ownItems s.store.cues c)) := by
  simp [reqCueGet, hn, hc]

theorem reqCueGet_missing {s : State} {n : CueNo} (hn : cueNoOk n = true) (hc : findCue s.store.cues n = none) :
    reqCueGet 0 n s = (s, refuse .notFound) := by
  simp [reqCueGet, hn, hc]

theorem reqCueGet_tracked {s : State} {n : CueNo} (hn : cueNoOk n = true) :
    reqCueGet 1 n s = (s, okWith (trackedItems s.store.cues n)) := by
  simp [reqCueGet, hn]

theorem reqCueGet_range {s : State} {n : CueNo} {view : Nat} (h : cueNoOk n = false ∨ 1 < view) :
    reqCueGet view n s = (s, refuse .range) := by
  simp only [reqCueGet, if_pos h.symm]

theorem reqCueList_range {s : State} {n : CueNo} {start count : Nat}
    (h : ¬(cueNoOk n = true ∧ start ≤ 1 ∧ 1 ≤ count ∧ count ≤ 8)) : reqCueList n start count s = (s, refuse .range) := by
  have : cueNoOk n = false ∨ 1 < start ∨ count < 1 ∨ 8 < count := by
    cases hn : cueNoOk n with
    | false => exact .inl rfl
    | true => right; simp only [hn, true_and] at h; omega
  simp only [reqCueList, if_pos this]

theorem reqCueList_of {s : State} {n : CueNo} {start count : Nat}
    (h : cueNoOk n = true ∧ start ≤ 1 ∧ 1 ≤ count ∧ count ≤ 8) :
    reqCueList n start count s
      = (s, okWith (listItems summaryItems ((listFrom s.store.cues n start).take count)
          ++ [.flag (decide (count < (listFrom s.store.cues n start).length))] ++ countItems s)) := by
  obtain ⟨hn, hr⟩ := h
  have : ¬(cueNoOk n = false ∨ 1 < start ∨ count < 1 ∨ 8 < count) := by
    simp only [hn, Bool.true_eq_false, false_or]; omega
  simp only [reqCueList, if_neg this]

theorem reqMapGet_range {s : State} {station patch : Nat} (h : (stationOk station && patchOk patch) = false) :
    reqMapGet station patch s = (s, refuse .range) := by
  simp [reqMapGet, h]

theorem reqMapGet_missing {s : State} {station patch : Nat} (hs : stationOk station = true) (hp : patchOk patch = true)
    (hm : findMap s.map station patch = none) : reqMapGet station patch s = (s, refuse .notFound) := by
  simp [reqMapGet, hs, hp, hm]

theorem reqMapGet_of {s : State} {station patch : Nat} (hs : stationOk station = true) (hp : patchOk patch = true)
    {e : MapEntry} (hm : findMap s.map station patch = some e) :
    reqMapGet station patch s = (s, okWith [.num 2 e.bank, .num 1 e.program, .num 2 e.load]) := by
  simp [reqMapGet, hs, hp, hm]

/-- Settles O12: each read answers from the state it leaves alone, and the tracked state is the fold of `trackedPart_is`. -/
theorem readsChangeOnlyTheReply : Obligations.ReadsChangeOnlyTheReply := by
  refine ⟨fun s t => ⟨fun hp => ⟨?_, ?_⟩, fun hs => ⟨?_, ?_, ?_, ?_, ?_⟩⟩, fun s t n hs => ⟨fun h => ?_, fun h => ?_,
    fun h => ?_, fun h => ?_, fun h => ?_⟩, fun s t n hs => ⟨⟨fun hn c hc => ?_, fun hn hc => ?_, fun hn => ?_,
    fun view h => ?_⟩, fun start count => ⟨fun h => ?_, fun h => ?_⟩, fun station patch => ⟨fun h₁ h₂ e he => ?_,
    fun h₁ h₂ he => ?_, fun h => ?_⟩⟩, fun cues n h => ⟨fun i => trackedPart_is _ n h, trackedPart_is _ n h,
    trackedPart_is _ n h, rfl, fun i => ⟨trackedPart_is _ n h, trackedPart_is _ n h, ?_⟩⟩⟩
  · exact request_always t hp
  · exact request_always t hp
  · exact exec_told hs rfl rfl
  · exact exec_told hs rfl rfl
  · exact exec_told hs rfl rfl
  · exact exec_told hs rfl rfl
  · exact exec_told hs rfl rfl
  · exact exec_told hs rfl (by simp only [reqChannelGet, readChannel_of h]; rfl)
  · exact exec_refused hs rfl (by simp only [reqChannelGet, readChannel_none h])
  · exact exec_told hs rfl (stationRequest_of h _ _)
  · exact exec_refused hs rfl (stationRequest_none h _ _)
  · exact exec_refused hs rfl (stationRequest_none h _ _)
  · exact exec_told hs rfl (reqCueGet_own hn hc)
  · exact exec_refused hs rfl (reqCueGet_missing hn hc)
  · exact exec_told hs rfl (reqCueGet_tracked hn)
  · exact exec_refused hs rfl (reqCueGet_range h)
  · exact exec_told hs rfl (reqCueList_of h)
  · exact exec_refused hs rfl (reqCueList_range h)
  · exact exec_told hs rfl (reqMapGet_of h₁ h₂ he)
  · exact exec_refused hs rfl (reqMapGet_missing h₁ h₂ he)
  · exact exec_refused hs rfl (reqMapGet_range h)
  · rintro s rfl hl k rfl
    exact channel_clickTracked n hl i

/-! ## The refusals of the edits -/

theorem reqCuePut_busy (r : RawCue) {s : State} (h : s.storing = true) : reqCuePut r s = (s, refuse .busy) := by
  simp [reqCuePut, h]

theorem reqCuePut_range {r : RawCue} {s : State} (h : s.storing = false) (hr : readCue r = none) :
    reqCuePut r s = (s, refuse .range) := by
  simp [reqCuePut, h, hr]

theorem reqCuePut_poolFull {r : RawCue} {c : Cue} {s : State} (h : s.storing = false) (hr : readCue r = some c)
    (hw : putRefusal c s = some .poolFull) :
    reqCuePut r s = (s, { status := .poolFull, body := [.num 2 s.store.poolUsed, .num 1 (cueEntries c)] }) := by
  simp [reqCuePut, h, hr, hw]

theorem reqCuePut_refused {r : RawCue} {c : Cue} {s : State} {why : Status} (h : s.storing = false)
    (hr : readCue r = some c) (hw : putRefusal c s = some why) (hn : why ≠ .poolFull) :
    reqCuePut r s = (s, refuse why) := by
  cases why <;> simp [reqCuePut, h, hr, hw] at hn ⊢

theorem reqCueDelete_busy (n : CueNo) {s : State} (h : s.storing = true) : reqCueDelete n s = (s, refuse .busy) := by
  simp [reqCueDelete, h]

theorem reqCueDelete_range {n : CueNo} {s : State} (h : s.storing = false) (hn : cueNoOk n = false) :
    reqCueDelete n s = (s, refuse .range) := by
  simp [reqCueDelete, h, hn]

theorem reqCueDelete_protected {n : CueNo} {s : State} (h : s.storing = false) (hn : cueNoOk n = true)
    (hp : protectsCue s.store.protect n = true) : reqCueDelete n s = (s, refuse .isProtected) := by
  simp [reqCueDelete, h, hn, hp]

theorem reqCueDelete_missing {n : CueNo} {s : State} (h : s.storing = false) (hn : cueNoOk n = true)
    (hp : protectsCue s.store.protect n = false) (hc : findCue s.store.cues n = none) :
    reqCueDelete n s = (s, refuse .notFound) := by
  simp [reqCueDelete, h, hn, hp, hc]

theorem reqMapPut_refused {station patch : Nat} (bank program load : Nat) {s : State} {why : Status}
    (h : mapEditRefusal station patch s = some why) : reqMapPut station patch bank program load s = (s, refuse why) := by
  simp [reqMapPut, h]

theorem reqMapDelete_refused {station patch : Nat} {s : State} {why : Status}
    (h : mapEditRefusal station patch s = some why) : reqMapDelete station patch s = (s, refuse why) := by
  simp [reqMapDelete, h]

theorem mapEditRefusal_busy (station patch : Nat) {s : State} (h : s.storing = true) :
    mapEditRefusal station patch s = some .busy := by
  simp [mapEditRefusal, h]

theorem mapEditRefusal_range {station patch : Nat} {s : State} (h : s.storing = false)
    (hk : stationOk station = false ∨ patchOk patch = false) : mapEditRefusal station patch s = some .range := by
  rcases hk with hk | hk <;> simp [mapEditRefusal, h, hk]

theorem mapEditRefusal_protected {station patch : Nat} {s : State} (h : s.storing = false)
    (hs : stationOk station = true) (hp : patchOk patch = true) (hm : s.store.protect.mode = .all) :
    mapEditRefusal station patch s = some .isProtected := by
  simp [mapEditRefusal, h, hs, hp, protectsMap, hm]

theorem mapEditRefusal_accepts {station patch : Nat} {s : State} (h : s.storing = false) (hs : stationOk station = true)
    (hp : patchOk patch = true) (hm : s.store.protect.mode ≠ .all) : mapEditRefusal station patch s = none := by
  simp [mapEditRefusal, h, hs, hp, protectsMap, hm]

theorem stationOk_iff (n : Nat) : stationOk n = true ↔ 1 ≤ n ∧ n ≤ 6 := by simp [stationOk]

theorem mapEntryOk_iff (e : MapEntry) : mapEntryOk e = true ↔ stationOk e.station = true ∧ patchOk e.patch = true
    ∧ e.bank ≤ 16383 ∧ e.program ≤ 127 ∧ e.load ≤ 30000 := by
  simp [mapEntryOk, and_assoc]

theorem reqMapPut_of {station patch : Nat} (bank program load : Nat) {s : State}
    (h : mapEditRefusal station patch s = none) (hs : stationOk station = true) :
    reqMapPut station patch bank program load s
      = (let e : MapEntry := { station := station, patch := patch, bank := bank, program := program, load := load }
        if !mapEntryOk e then (s, refuse .range)
        else if (findMap s.map station patch).isNone ∧ Config.maxMap ≤ s.map.length then (s, refuse .tableFull)
        else
          (mapChanged ⟨station - 1, by have := (stationOk_iff _).mp hs; omega⟩ patch false
            { s with map := placeMap e s.map }, okWith [.num 2 (placeMap e s.map).length])) := by
  simp only [reqMapPut, h, readStation_of ((stationOk_iff _).mp hs)]

theorem reqMapDelete_of {station patch : Nat} {s : State} (h : mapEditRefusal station patch s = none)
    (hs : stationOk station = true) :
    reqMapDelete station patch s
      = (if (findMap s.map station patch).isNone then (s, refuse .notFound)
        else
          (mapChanged ⟨station - 1, by have := (stationOk_iff _).mp hs; omega⟩ patch true
            { s with map := removeMap station patch s.map }, okWith [.num 2 (removeMap station patch s.map).length])) := by
  simp only [reqMapDelete, h, readStation_of ((stationOk_iff _).mp hs)]

/-- Settles O14: each refusal is the first test of its request that holds, and answers the state itself. -/
theorem editsRefused : Obligations.EditsRefused := by
  intro s t hs
  refine ⟨fun h => ⟨fun r => ?_, fun n => ?_, fun a b c d e => ?_, fun a b => ?_⟩,
    fun h => ⟨fun r hr => ?_, fun n hn => ?_, fun r c hr => ⟨fun hp => ?_, fun hp => ⟨fun hf hc => ?_, fun hf hc => ?_⟩⟩,
      fun n hn hp => ?_, fun n hn hp hf => ?_, fun a b c d e ha hb hm => ?_, fun a b c d e hk => ?_,
      fun a b c d e ha hb hm => ⟨fun hr => ?_, fun hc hd he hf hl => ?_, fun hf => ?_⟩⟩⟩
  · exact exec_refused hs rfl (reqCuePut_busy r h)
  · exact exec_refused hs rfl (reqCueDelete_busy n h)
  · exact exec_refused hs rfl (reqMapPut_refused c d e (mapEditRefusal_busy a b h))
  · exact exec_refused hs rfl (reqMapDelete_refused (mapEditRefusal_busy a b h))
  · exact exec_refused hs rfl (reqCuePut_range h hr)
  · exact exec_refused hs rfl (reqCueDelete_range h hn)
  · exact exec_refused hs rfl (reqCuePut_refused h hr (if_pos hp) (by decide))
  · have hw : putRefusal c (s.goTo t) = some .tableFull := by
      simp [putRefusal, hp, hf, Config.maxCues, hc]
    exact exec_refused hs rfl (reqCuePut_refused h hr hw (by decide))
  · have hw : putRefusal c (s.goTo t) = some .poolFull := by
      have hn : ¬((findCue s.store.cues c.number).isNone = true ∧ Config.maxCues ≤ s.store.cueCount) := by
        rintro ⟨h₁, h₂⟩
        rcases hf with hf | hf
        · simp [Option.isNone_iff_eq_none.mp h₁] at hf
        · exact absurd h₂ (Nat.not_le.mpr hf)
      have hc : Config.maxPool < poolAfterPut c (s.goTo t) := hc
      simp only [putRefusal, State.goTo_store, hp, if_neg hn, if_pos hc, Bool.false_eq_true, if_false]
    exact exec_answered hs rfl (reqCuePut_poolFull h hr hw)
  · exact exec_refused hs rfl (reqCueDelete_protected h hn hp)
  · exact exec_refused hs rfl (reqCueDelete_missing h hn hp hf)
  · have hw := mapEditRefusal_protected (s := s.goTo t) h ha hb hm
    exact ⟨exec_refused hs rfl (reqMapPut_refused c d e hw), exec_refused hs rfl (reqMapDelete_refused hw)⟩
  · have hw := mapEditRefusal_range (s := s.goTo t) h hk
    exact ⟨exec_refused hs rfl (reqMapPut_refused c d e hw), exec_refused hs rfl (reqMapDelete_refused hw)⟩
  · have hw := mapEditRefusal_accepts (s := s.goTo t) h ha hb hm
    refine exec_refused hs rfl ((reqMapPut_of c d e hw ha).trans ?_)
    have : ¬mapEntryOk { station := a, patch := b, bank := c, program := d, load := e } = true := by
      rw [mapEntryOk_iff]
      dsimp only
      omega
    simp only [Bool.not_eq_true] at this
    simp only [this, Bool.not_false, if_true]
  · have hw := mapEditRefusal_accepts (s := s.goTo t) h ha hb hm
    refine exec_refused hs rfl ((reqMapPut_of c d e hw ha).trans ?_)
    have : mapEntryOk { station := a, patch := b, bank := c, program := d, load := e } = true :=
      (mapEntryOk_iff _).mpr ⟨ha, hb, hc, hd, he⟩
    simp [this, hf, Config.maxMap, hl]
  · have hw := mapEditRefusal_accepts (s := s.goTo t) h ha hb hm
    exact exec_refused hs rfl ((reqMapDelete_of hw ha).trans (if_pos (by simp [hf])))

/-! ## The protection and the KEY line -/

theorem readProtect_none (lo hi : CueNo) (lock : Bool) :
    readProtect 0 lo hi lock.toNat = some { mode := .none, range := none, keyLock := lock } := by
  cases lock <;> rfl

theorem readProtect_all (lo hi : CueNo) (lock : Bool) :
    readProtect 2 lo hi lock.toNat = some { mode := .all, range := none, keyLock := lock } := by
  cases lock <;> rfl

theorem readProtect_range {lo hi : CueNo} (lock : Bool)
    (h : cueNoOk lo = true ∧ cueNoOk hi = true ∧ cueLe lo hi = true) :
    readProtect 1 lo hi lock.toNat = some { mode := .range, range := some (lo, hi), keyLock := lock } := by
  cases lock <;> simp [readProtect, readFlag, h]

theorem readProtect_out {mode : Nat} {lo hi : CueNo} (lock : Bool) (h₀ : mode ≠ 0)
    (h₁ : ¬(mode = 1 ∧ cueNoOk lo = true ∧ cueNoOk hi = true ∧ cueLe lo hi = true)) (h₂ : mode ≠ 2) :
    readProtect mode lo hi lock.toNat = none := by
  match mode with
  | 0 => exact absurd rfl h₀
  | 1 =>
    simp only [true_and, ← Bool.and_eq_true, ← Bool.and_assoc, Bool.not_eq_true] at h₁
    cases lock <;> simp [readProtect, readFlag, h₁]
  | 2 => exact absurd rfl h₂
  | _ + 3 => cases lock <;> rfl

theorem reqProtectSet_of {mode : Nat} {lo hi : CueNo} {lock : Nat} {s : State} {p : Protect}
    (h : s.storing = false) (hk : s.desk.key = false ∨ s.store.protect.keyLock = false)
    (hp : readProtect mode lo hi lock = some p) :
    reqProtectSet mode lo hi lock s = ({ s with store := { s.store with protect := p } }, okWith []) := by
  have hk : (s.desk.key && s.store.protect.keyLock) = false := Bool.and_eq_false_iff.mpr hk
  simp [reqProtectSet, h, hk, hp, State.setStore]

theorem reqProtectSet_range {mode : Nat} {lo hi : CueNo} {lock : Nat} {s : State}
    (h : s.storing = false) (hk : s.desk.key = false ∨ s.store.protect.keyLock = false)
    (hp : readProtect mode lo hi lock = none) :
    reqProtectSet mode lo hi lock s = (s, refuse .range) := by
  have hk : (s.desk.key && s.store.protect.keyLock) = false := Bool.and_eq_false_iff.mpr hk
  simp [reqProtectSet, h, hk, hp]

/-- Settles O16: the tests of PROTECT SET in their order, then one write by the mode; the KEY line is one write behind its
debounce. -/
theorem protectionAndKey : Obligations.ProtectionAndKey := by
  intro s t mode lo hi lock
  refine ⟨fun hs => ⟨fun h => ?_, fun h hk hl => ?_, fun h hk => ?_⟩, fun hp level held => ?_⟩
  · exact exec_refused hs rfl (if_pos h)
  · exact exec_refused hs rfl ((if_neg (by simp [State.storing] at h ⊢; exact h)).trans (if_pos (by simp [hk, hl])))
  · split
    next hm => subst hm; exact exec_answered hs rfl (reqProtectSet_of h hk (readProtect_none lo hi lock))
    next h₀ =>
      split
      next hm =>
        obtain ⟨rfl, hr⟩ := hm
        exact exec_answered hs rfl (reqProtectSet_of h hk (readProtect_range lock hr))
      next h₁ =>
        split
        next hm => subst hm; exact exec_answered hs rfl (reqProtectSet_of h hk (readProtect_all lo hi lock))
        next h₂ => exact exec_refused hs rfl (reqProtectSet_range h hk (readProtect_out lock h₀ h₁ h₂))
  · refine (event_on t hp).trans ?_
    simp only [hasHeld_iff, State.goTo_now, Config.deskDebounce]
    rfl

/-! ## The stages of a store -/

theorem reqStore_none {s : State} (h : s.store.job = none) :
    reqStore s = ({ s with
      flash := FlashArea.blank
      store := { s.store with job := some { image := imageOf s, taken := s.now, stage := .erase } } }, okWith []) := by
  simp [reqStore, State.storing, h]

theorem jobAt_of {stage : StoreStage} {s : State} {j : StoreJob} (h : s.store.job = some j) (hs : j.stage = stage) :
    jobAt stage s = some j := by
  subst hs
  cases hj : j.stage <;> simp [jobAt, h, hj, Option.filter_some]

/-- Settles O17: each event of the flash acts where the job stands at its stage, and there it is one write, with STORE_DONE
where the store ends. -/
theorem storeStages : Obligations.StoreStages := by
  intro s t
  refine ⟨fun hs h => exec_answered hs rfl (reqStore_none (s := s.goTo t) h), fun hs h => exec_refused hs rfl (if_pos h),
    fun hp j hj => ⟨fun hst => ?_, fun hst => ?_, fun hst => ⟨?_, ?_⟩, fun hst => ⟨?_, ?_⟩, ?_, ?_⟩⟩
  · refine (event_on t hp).trans ?_
    simp [eraseDone, jobAt_of (s := s.goTo t) hj hst, goStage, State.setStore, hj]
  · refine (event_on t hp).trans ?_
    simp [programDone, jobAt_of (s := s.goTo t) hj hst, goStage, State.setStore, hj]
  · refine (event_on t hp).trans ?_
    simp [verifyDone, jobAt_of (s := s.goTo t) hj hst, goStage, State.setStore, hj]
  · refine (event_on t hp).trans ?_
    simp [verifyDone, jobAt_of (s := s.goTo t) hj hst, endStore, State.setStore]
  · refine (event_on t hp).trans ?_
    simp [markDone, jobAt_of (s := s.goTo t) hj hst, endStore, State.setStore]
  · refine (event_on t hp).trans ?_
    simp [markDone, jobAt_of (s := s.goTo t) hj hst, endStore, State.setStore]
  · refine (event_on t hp).trans ?_
    simp [flashFails, State.storing, hj, endStore, State.setStore]
  · have hd : storeDue s = some (j.taken + 6000000) := by simp [storeDue, hj, Config.storeLimit]
    refine (selfTimed_due hp hd).trans ?_
    simp [endStore, State.setStore]

end Sys2Proof.Proofs

namespace Sys2Proof.Proofs

open Sys2Proof Sys2Proof.Machine

/-! ## The end of the power-on load, written out

No station is ONLINE during the load, so the hand-over at its end changes only what the stations hold. -/

theorem station_setStation_keeps {β : Type} {g : Station → β} {f : Station → Station} (h : ∀ st, g (f st) = g st)
    (s : State) (i j : Fin 6) : g ((s.setStation i f).station j) = g (s.station j) := by
  simp only [State.station, State.setStation, List.getD_eq_getElem?_getD, List.getElem?_modify]
  split
  · cases s.stations[j.val]? <;> simp [h]
  · simp

theorem eachStation_induct {P : State → Prop} {f : Fin 6 → State → State} (h : ∀ i s, P s → P (f i s)) {s : State}
    (hs : P s) : P (eachStation f s) := by
  have : ∀ (l : List (Fin 6)) (s : State), P s → P (l.foldl (fun s i => f i s) s) := by
    intro l
    induction l with
    | nil => exact fun _ h => h
    | cons i l ih => exact fun s hs => ih _ (h i s hs)
  exact this _ s hs

/-- No station serves. -/
def NoneServes (s : State) : Prop := ∀ i, (s.station i).serves = false

theorem recompute_unserved (keep : Bool) {i : Fin 6} {s : State} (h : (s.station i).serves = false) :
    recompute keep i s = s := by
  simp [recompute, h]

/-- A state that differs from `m` in the stations alone, of which none serves. -/
def Unserved (m s : State) : Prop := (∃ st, s = { m with stations := st }) ∧ NoneServes s

theorem takeAhead_unserved (set : List CueNo) (latch : Option CueNo) (i : Fin 6) {m s : State} (h : Unserved m s) :
    Unserved m (takeAhead set latch i s) := by
  obtain ⟨⟨st, rfl⟩, hn⟩ := h
  unfold takeAhead
  extract_lets target
  have hs : NoneServes (State.setStation { m with stations := st } i fun st =>
      { st with ahead := set.map target, standbyTarget := latch.map target }) :=
    fun j => (station_setStation_keeps (g := Station.serves) (f := fun st =>
      { st with ahead := set.map target, standbyTarget := latch.map target }) (fun _ => rfl) _ i j).trans (hn j)
  rw [recompute_unserved false (hs i)]
  exact ⟨⟨_, rfl⟩, hs⟩

theorem handOver_unserved {s : State} (h : NoneServes s) :
    ∃ st, handOver s = { s with seq := { s.seq with ahead := lookAhead s }, stations := st } :=
  (eachStation_induct (P := Unserved { s with seq := { s.seq with ahead := lookAhead s } })
    (fun i _ hu => takeAhead_unserved (lookAhead s) s.seq.latch i hu) ⟨⟨_, rfl⟩, h⟩).1

theorem eachStation_greetPresent (s : State) : ∃ st, eachStation greetPresent s = { s with stations := st } :=
  eachStation_induct (P := fun u => ∃ st, u = { s with stations := st }) (f := greetPresent)
    (fun i u ⟨st, hu⟩ => ⟨(greetPresent i u).stations, by subst hu; rfl⟩) ⟨_, rfl⟩

/-- The state in which a load has installed its image, or an empty show, before the blocks are handed the loaded show. -/
def installed (a : FlashAnswer) (s : State) : State :=
  match imageRead s.flash a with
  | some i => installImage i { s with flash := areaRead s.flash a }
  | none => installNothing { s with flash := areaRead s.flash a }

theorem installed_some {a : FlashAnswer} {s : State} {i : ShowImage} (h : imageRead s.flash a = some i) :
    installed a s = installImage i { s with flash := areaRead s.flash a } := by
  simp only [installed, h]

theorem installed_none {a : FlashAnswer} {s : State} (h : imageRead s.flash a = none) :
    installed a s = installNothing { s with flash := areaRead s.flash a } := by
  simp only [installed, h]

theorem installed_stations (a : FlashAnswer) (s : State) : (installed a s).stations = s.stations := by
  cases h : imageRead s.flash a with
  | none => rw [installed_none h]; rfl
  | some i => rw [installed_some h]; rfl

theorem endLoad_eq (a : FlashAnswer) {s : State} (hl : s.loading = true) (hn : NoneServes s) :
    ∃ ahead st, endLoad a s = { installed a s with
      loading := false, seq := { (installed a s).seq with ahead := ahead }, stations := st } := by
  have hm : NoneServes { installed a s with loading := false } := fun i => by
    have e : State.station { installed a s with loading := false } i = s.station i :=
      station_congr (installed_stations a s) i
    rw [e]; exact hn i
  obtain ⟨st, h₁⟩ := handOver_unserved hm
  obtain ⟨st', h₂⟩ := eachStation_greetPresent (handOver { installed a s with loading := false })
  refine ⟨_, st', Eq.trans ?_ (h₂.trans (by rw [h₁]))⟩
  unfold endLoad
  rw [if_pos hl]
  rfl

theorem noneServes_of_loading {s : State} (hl : s.loading = true) (h : s.StationsSound) : NoneServes s := by
  intro i
  have offline : (s.station i).link = .offline := by
    simp only [State.station, List.getD_eq_getElem?_getD]
    cases hi : s.stations[i.val]? with
    | none => rfl
    | some st =>
      obtain ⟨hoff, -⟩ := h st (List.mem_of_getElem? hi)
      exact hoff (.inr hl)
  simp [Station.serves, offline]

/-- The settings of the image stand in the channels. -/
theorem zipWith_settings : ∀ {cs : List Channel} {xs : List ChannelSettings}, cs.length = xs.length →
    (List.zipWith (fun c x => ({ c with settings := x } : Channel)) cs xs).map (·.settings) = xs
  | [], [], _ => rfl
  | _ :: _, _ :: _, h => by
    rw [List.zipWith_cons_cons, List.map_cons, zipWith_settings (Nat.succ.inj h)]

theorem imageOf_installImage (i : ShowImage) {s : State} (h : s.channels.length = i.channels.length) :
    imageOf (installImage i s) = { i with cues := i.cues.map orderedCue } := by
  simp only [imageOf, installImage, zipWith_settings h]

theorem imageOf_installNothing {s : State} (h : s.channels.length = 16) :
    imageOf (installNothing s) =
      { cues := [], map := [], protect := Protect.initial, lead := 40000, follow := FollowSettings.initial,
        channels := List.replicate 16 ChannelSettings.initial, video := VideoSettings.initial,
        settings := ShowSettings.initial } := by
  have : (s.channels.map fun c => ({ c with settings := ChannelSettings.initial } : Channel)).map (·.settings)
      = List.replicate 16 ChannelSettings.initial := by
    rw [List.map_map, ← h]
    exact List.map_const'
  simp only [imageOf, installNothing, Machine.raise, this]
  rfl

/-- Settles O18: the hand-over at the end of a load changes the look-ahead set and the stations alone, so the rest stands as
the image, or the empty show, was installed. -/
theorem loadInstallsTheImage : Obligations.LoadInstallsTheImage := by
  intro s t a hp hl hz hs
  obtain ⟨hst, hch, -⟩ := hz
  obtain ⟨ahead, st, he⟩ := endLoad_eq a (s := s.goTo t) hl (noneServes_of_loading (s := s.goTo t) hl hs)
  refine ⟨endLoad a (s.goTo t), event_on t hp, ?_⟩
  rw [he]
  cases hi : imageRead s.flash a with
  | some i =>
    rw [installed_some (s := s.goTo t) hi]
    refine ⟨rfl, hp, ?_, fun j hj hlen => ?_, fun h => absurd h (by simp), rfl, rfl, rfl, rfl, rfl, rfl⟩
    · cases a <;> rfl
    · cases hj
      exact ⟨imageOf_installImage i (s := s) (hch.trans hlen.symm), rfl, rfl, rfl, rfl⟩
  | none =>
    rw [installed_none (s := s.goTo t) hi]
    refine ⟨rfl, hp, ?_, fun j hj => absurd hj (by simp), fun _ => ?_, rfl, rfl, rfl, rfl, rfl, rfl⟩
    · cases a <;> rfl
    · exact ⟨imageOf_installNothing (s := s) hch, rfl, rfl, rfl, rfl⟩

/-! ## A stored show comes back -/

theorem sortBy_of_sorted {α : Type} (key : α → Int) : ∀ {l : List α}, l.Pairwise (fun a b => key a < key b) →
    sortBy key l = l
  | [], _ => rfl
  | x :: l, h => by
    obtain ⟨hx, hl⟩ := List.pairwise_cons.mp h
    rw [sortBy, sortBy_of_sorted key hl]
    cases l with
    | nil => rfl
    | cons y l => exact if_pos (hx y (by simp))

theorem orderedCue_of_inOrder {c : Cue} (h : cueInOrder c = true) : orderedCue c = c := by
  simp only [cueInOrder, Bool.and_eq_true, decide_eq_true_eq] at h
  obtain ⟨hp, hk⟩ := h
  simp only [orderedCue, sortBy_of_sorted _ (hp.imp fun h => Int.ofNat_lt.mpr h),
    sortBy_of_sorted _ (hk.imp fun h => Int.ofNat_lt.mpr h)]

/-- The image of a show that keeps its promises passes the checks of a load. -/
theorem imageOk_imageOf {s : State} (hc : s.StoreSound) (hm : s.MapSound) (hs : s.SettingsSound) :
    imageOk (imageOf s) = true := by
  obtain ⟨hinc, hok, -, hcount, hle, hpool, hpoolLe⟩ := hc
  obtain ⟨hmap, hmapOk, hnodup⟩ := hm
  obtain ⟨hprot, hset⟩ := hs
  simp only [imageOk, Bool.and_eq_true, decide_eq_true_eq]
  exact ⟨⟨⟨⟨⟨⟨⟨⟨hcount ▸ hle, hinc⟩, hok⟩, hpool ▸ hpoolLe⟩, hmap⟩, hnodup⟩, hmapOk⟩, hprot⟩, hset⟩

theorem run_succ (M : Host.Core) (n : Nat) {s u : M.State} (h : M.step s = .next u) : M.run (n + 1) s = M.run n u := by
  simp only [Host.Core.run, h]

theorem run_cons {n : Nat} {s : State} {c : Instr} {rest : List Instr} {P : State → Prop} (hq : s.pending = c :: rest)
    (h : ∃ u, exec c { s with pending := rest } = .next u ∧ u.pending = rest ∧ P u) :
    ∃ u, Host.Core.run Sys2Proof.core (n + 1) s = Host.Core.run Sys2Proof.core n u ∧ u.pending = rest ∧ P u := by
  obtain ⟨u, hu, h⟩ := h
  have hstep : Sys2Proof.core.step s = .next u := by
    change step s = _
    simp only [step, hq]
    exact hu
  exact ⟨u, run_succ Sys2Proof.core n hstep, h⟩

/-- A store of the image `i` stands at a stage: the job holds the image, and the flash what the stages before have written. -/
def StoresAt (stage : StoreStage) (i : ShowImage) (flash : FlashArea) (s : State) : Prop :=
  s.powered = true ∧ s.flash = flash ∧ ∃ t, s.store.job = some { image := i, taken := t, stage := stage }

/-- The flash with the image and its CRC, behind the marker or not yet. -/
def imageArea (marker : Bool) (i : ShowImage) : FlashArea := { marker := marker, body := some i, crcMatches := true }

/-- The flash holds the image `i` behind its marker, and no store is in progress. -/
def Stored (i : ShowImage) (s : State) : Prop := s.powered = true ∧ s.flash = imageArea true i ∧ s.store.job = none

theorem exec_store {s : State} (t : Nat) (hs : s.Serving) (h : s.store.job = none) :
    ∃ u, exec (.store t) s = .next u ∧ u.pending = s.pending ∧ StoresAt .erase (imageOf s) FlashArea.blank u :=
  ⟨_, (storeStages s t).1 hs h, rfl, hs.1, rfl, _, rfl⟩

theorem exec_flashEraseDone {s : State} {i : ShowImage} {a : FlashArea} (t : Nat) (h : StoresAt .erase i a s) :
    ∃ u, exec (.flashEraseDone t) s = .next u ∧ u.pending = s.pending ∧ StoresAt .program i a u := by
  obtain ⟨hp, hf, t', hj⟩ := h
  obtain ⟨herase, -⟩ := (storeStages s t).2.2 hp _ hj
  exact ⟨_, herase rfl, rfl, hp, hf, _, rfl⟩

theorem exec_flashProgramDone {s : State} {i : ShowImage} {a : FlashArea} (t : Nat) (h : StoresAt .program i a s) :
    ∃ u, exec (.flashProgramDone t) s = .next u ∧ u.pending = s.pending ∧ StoresAt .verify i (imageArea false i) u := by
  obtain ⟨hp, -, t', hj⟩ := h
  obtain ⟨-, hprogram, -⟩ := (storeStages s t).2.2 hp _ hj
  exact ⟨_, hprogram rfl, rfl, hp, rfl, _, rfl⟩

theorem exec_flashVerifyDone {s : State} {i : ShowImage} {a : FlashArea} (t : Nat) (h : StoresAt .verify i a s) :
    ∃ u, exec (.flashVerifyDone t true) s = .next u ∧ u.pending = s.pending ∧ StoresAt .mark i a u := by
  obtain ⟨hp, hf, t', hj⟩ := h
  obtain ⟨-, -, hverify, -⟩ := (storeStages s t).2.2 hp _ hj
  exact ⟨_, (hverify rfl).1, rfl, hp, hf, _, rfl⟩

theorem exec_flashMarkDone {s : State} {i : ShowImage} (t : Nat) (h : StoresAt .mark i (imageArea false i) s) :
    ∃ u, exec (.flashMarkDone t true) s = .next u ∧ u.pending = s.pending ∧ Stored i u := by
  obtain ⟨hp, hf, t', hj⟩ := h
  obtain ⟨-, -, -, hmark, -⟩ := (storeStages s t).2.2 hp _ hj
  refine ⟨_, (hmark rfl).1, rfl, hp, ?_, rfl⟩
  rw [raise_flash, hf]
  rfl

/-- The loss of power with no store in progress keeps the flash. -/
theorem exec_powerLost_stored {s : State} {i : ShowImage} (written : Bool) (h : Stored i s) :
    ∃ u, exec (.powerLost written) s = .next u ∧ u.pending = s.pending ∧ u.flash = imageArea true i := by
  obtain ⟨hp, hf, hj⟩ := h
  refine ⟨_, powerOnResetAndLoss.1.2 s written hp, rfl, ?_⟩
  simp only [hj, hf]

theorem exec_powerOn_stored {s : State} {i : ShowImage} (a b : Bool) (h : s.flash = imageArea true i) :
    ∃ u, exec (.powerOn a b) s = .next u ∧ u.pending = s.pending
      ∧ ∃ q r, u = restarted q (imageArea true i) r true := by
  refine ⟨_, rfl, rfl, s.pending, lineRate a b, ?_⟩
  rw [← h]
  rfl

theorem acceptedImage_imageArea {i : ShowImage} (h : imageOk i = true) : acceptedImage (imageArea true i) = some i := by
  simp [acceptedImage, imageArea, h]

theorem restarted_sized (q : List Instr) (f : FlashArea) (r : LineRate) (b : Bool) : (restarted q f r b).Sized :=
  ⟨rfl, rfl, rfl, rfl, rfl⟩

/-- What comes back over a load. -/
def ComesBack (s u : State) : Prop :=
  u.Serving ∧ imageOf u = imageOf s ∧ u.store.cueCount = s.store.cueCount ∧ u.store.poolUsed = s.store.poolUsed
    ∧ u.store.lastImage = .none ∧ attnLine u = false

theorem exec_imageLoadEnd_stored {s : State} (q : List Instr) (r : LineRate) (t : Nat) (hc : s.StoreSound)
    (hm : s.MapSound) (hset : s.SettingsSound) :
    ∃ u, exec (.imageLoadEnd t .asLeft) (restarted q (imageArea true (imageOf s)) r true) = .next u ∧ u.pending = q
      ∧ ComesBack s u := by
  have ok := imageOk_imageOf hc hm hset
  obtain ⟨u, eu, hl, hp, -, hread, -, -, -, -, -, hq, -⟩ := loadInstallsTheImage
    (restarted q (imageArea true (imageOf s)) r true) t .asLeft rfl rfl (restarted_sized _ _ _ _)
    (restarted_stations _ _ _ _)
  obtain ⟨-, hrange⟩ := hset
  have hlen : (imageOf s).channels.length = 16 := by
    simp only [settingsOk, Bool.and_eq_true, beq_iff_eq] at hrange
    tauto
  obtain ⟨himage, hcount, hpool, hlast, hatt⟩ := hread (imageOf s) (acceptedImage_imageArea ok) hlen
  obtain ⟨-, -, hinOrder, hcount', -, hpool', -⟩ := hc
  have same : s.store.cues.map orderedCue = s.store.cues :=
    (List.map_congr_left fun c hc => orderedCue_of_inOrder (List.all_eq_true.mp hinOrder c hc)).trans (List.map_id _)
  refine ⟨u, eu, hq, ⟨hp, hl⟩, himage.trans ?_, hcount.trans hcount'.symm, hpool.trans hpool'.symm, hlast, ?_⟩
  · change { imageOf s with cues := s.store.cues.map orderedCue } = imageOf s
    rw [same]
    rfl
  · rw [attnLine, hatt]
    rfl

/-- Settles O19: the four stages leave the image behind its marker, the loss and return of power keep the flash alone, and the
load accepts what the flash holds. -/
theorem storedShowComesBack : Obligations.StoredShowComesBack := by
  intro s t₀ t₁ t₂ t₃ t₄ t₅ written a b hs hj hc hm hset
  obtain ⟨u₁, e₁, q₁, h₁⟩ := run_cons (n := 7) (s := { s with pending := [.store t₀, .flashEraseDone t₁,
    .flashProgramDone t₂, .flashVerifyDone t₃ true, .flashMarkDone t₄ true, .powerLost written, .powerOn a b,
    .imageLoadEnd t₅ .asLeft] }) rfl (exec_store t₀ hs hj)
  obtain ⟨u₂, e₂, q₂, h₂⟩ := run_cons (n := 6) q₁ (exec_flashEraseDone t₁ h₁)
  obtain ⟨u₃, e₃, q₃, h₃⟩ := run_cons (n := 5) q₂ (exec_flashProgramDone t₂ h₂)
  obtain ⟨u₄, e₄, q₄, h₄⟩ := run_cons (n := 4) q₃ (exec_flashVerifyDone t₃ h₃)
  obtain ⟨u₅, e₅, q₅, h₅⟩ := run_cons (n := 3) q₄ (exec_flashMarkDone t₄ h₄)
  obtain ⟨u₆, e₆, q₆, h₆⟩ := run_cons (n := 2) q₅ (exec_powerLost_stored written h₅)
  obtain ⟨u₇, e₇, q₇, q, r, rfl⟩ := run_cons (n := 1) q₆ (exec_powerOn_stored a b h₆)
  obtain ⟨u₈, e₈, -, h₈⟩ := run_cons (n := 0) q₇ (exec_imageLoadEnd_stored [] r t₅ hc hm hset)
  refine ⟨u₈, ?_, h₈⟩
  rw [e₁, e₂, e₃, e₄, e₅, e₆, e₇, e₈]
  rfl

end Sys2Proof.Proofs

namespace Sys2Proof.Proofs

open Sys2Proof Sys2Proof.Machine

/-! ## Desk edges -/

theorem exec_deskEdge {c : Instr} {line : DeskLine} {f : State → State} {s : State} {t held : Nat} (hs : s.Serving)
    (h : DeskEdge line t held s) (hc : exec c s = event t (deskEdge line held f) s) :
    exec c s = .next (f ((s.goTo t).setDesk (Desk.take true line))) := by
  rw [hc, event_on t hs.1, deskEdge_taken h hs.2]

/-! ## The standby latch -/

/-- Latch and overlay take a standby cue, or lose it. -/
def latched (latch : Option CueNo) (s : State) : State :=
  { s with
    seq := { s.seq with latch := latch }
    video := { s.video with content := { s.video.content with standby := latch } } }

theorem setLatch_eq (n : CueNo) (s : State) : setLatch n s = handOver (latched (some n) s) := rfl

theorem clearLatch_eq (s : State) : clearLatch s = latched none s := rfl

/-- A hand-over behind a write of Sequencer and overlay: each station is handed its targets, and STATION_FAULT may be raised. -/
theorem handedOver_handOver {s m : State} (hm : ∃ q v, m = { s with seq := q, video := v }) :
    HandedOver (fun u => { u with seq := s.seq, video := s.video }) s (handOver m) := by
  obtain ⟨q, v, rfl⟩ := hm
  obtain ⟨st, att, he, -, hatt⟩ := handOver_eq { s with seq := q, video := v }
  refine ⟨fun i => (targetsHanded_handOver i _).from (fun h => h) (fun _ => rfl) rfl rfl, ?_, ?_⟩
  · rw [he]
  · rw [he]; exact hatt

theorem handOver_video (s : State) : (handOver s).video = s.video := by
  obtain ⟨st, att, he, -⟩ := handOver_eq s
  rw [he]

/-- A write of the latch, handed over. -/
theorem latchTakes_handOver (latch : Option CueNo) (s : State) : LatchTakes latch s (handOver (latched latch s)) :=
  ⟨(handOver_seq _).trans (by rw [lookAhead_congr (s := s) rfl rfl rfl rfl]; rfl), handOver_video _,
    handedOver_handOver ⟨_, _, rfl⟩⟩

theorem standbyTest_wrongState {s : State} (h : s.stop.st = .stopped ∨ s.stop.st.rebuilds = true) :
    standbyTest s = .error .wrongState := by
  rw [standbyTest, if_pos h]

theorem standbyTest_endOfList {s : State} (h₁ : s.stop.st ≠ .stopped) (h₂ : s.stop.st.rebuilds = false)
    (hn : nextCue s = none) : standbyTest s = .error .endOfList := by
  simp [standbyTest, h₁, h₂, hn]

theorem standbyTest_ok {s : State} {n : CueNo} (h₁ : s.stop.st ≠ .stopped) (h₂ : s.stop.st.rebuilds = false)
    (hn : nextCue s = some n) : standbyTest s = .ok n := by
  simp [standbyTest, h₁, h₂, hn]

theorem reqStandby_error {s : State} {why : GoReason} (h : standbyTest s = .error why) :
    reqStandby s = (s, refuse why.status) := by
  simp [reqStandby, h]

theorem reqStandby_ok {s : State} {n : CueNo} {c : Cue} (h : standbyTest s = .ok n)
    (hc : findCue s.store.cues n = some c) :
    reqStandby s = (setLatch n s, okWith (.cue (some n) :: triggerItems c.trigger)) := by
  simp [reqStandby, h, hc]

theorem deskStandby_error {s : State} {why : GoReason} (h : standbyTest s = .error why) :
    deskStandby s = raise (.goRefused why .stby) s := by
  simp [deskStandby, h, goRefused]

theorem deskStandby_ok {s : State} {n : CueNo} (h : standbyTest s = .ok n) : deskStandby s = setLatch n s := by
  simp [deskStandby, h]

theorem withdrawLatch_none {s : State} (h : s.seq.latch = none) : withdrawLatch s = s := by
  simp [withdrawLatch, h]

theorem withdrawLatch_some {s : State} {n : CueNo} (h : s.seq.latch = some n) :
    withdrawLatch s = handOver (latched none s) := by
  simp only [withdrawLatch, h, clearLatch_eq]

/-- Settles O20: the standby test has one outcome, which the host's answer and the desk's condition both report; a latch that
is taken or cleared is one write, handed over. -/
theorem standbyAndItsCancel : Obligations.StandbyAndItsCancel := by
  intro s t held hs
  have desk : ∀ h : DeskEdge .stby t held s, exec (.deskStbyEdge t held) s
      = .next (deskStandby { s.goTo t with desk := { s.desk with stby := true } }) := fun h => exec_deskEdge hs h rfl
  have refused : ∀ why : GoReason, standbyTest (s.goTo t) = .error why →
      standbyTest { s.goTo t with desk := { s.desk with stby := true } } = .error why →
      exec (.standby t) s = .next ((s.goTo t).replied why.status [])
      ∧ (DeskEdge .stby t held s → exec (.deskStbyEdge t held) s
        = .next (raise (.goRefused why .stby) { s.goTo t with desk := { s.desk with stby := true } })) :=
    fun why h₁ h₂ => ⟨exec_refused hs rfl (reqStandby_error h₁), fun h => by rw [desk h, deskStandby_error h₂]⟩
  refine ⟨fun h => refused _ (standbyTest_wrongState h) (standbyTest_wrongState h),
    fun h₁ h₂ hn => refused _ (standbyTest_endOfList h₁ h₂ hn) (standbyTest_endOfList h₁ h₂ hn),
    fun h₁ h₂ n c hn hc => ⟨⟨setLatch n (s.goTo t), ?_, latchTakes_handOver _ _⟩, fun h => ⟨setLatch n _,
      (desk h).trans (congrArg _ (deskStandby_ok (standbyTest_ok h₁ h₂ hn))), latchTakes_handOver _ _⟩⟩,
    fun h => ?_, fun n h => ⟨handOver (latched none (s.goTo t)), ?_, latchTakes_handOver _ _⟩⟩
  · exact exec_answered hs rfl (reqStandby_ok (s := s.goTo t) (standbyTest_ok h₁ h₂ hn) hc)
  · refine exec_told hs rfl ?_
    simp [reqCancelStandby, withdrawLatch_none (s := s.goTo t) h, h]
  · refine exec_answered hs rfl ?_ (a := okWith [.flag true, .cue (some n)])
    simp [reqCancelStandby, withdrawLatch_some (s := s.goTo t) h, h]

/-! ## A GO that is not taken -/

/-- The reasons against a GO, each with the state it holds in (R96, R97). -/
def GoStopped (s : State) (why : GoReason) : Prop :=
  (why = .endOfList ∧ s.stop.st = .run ∧ nextCue s = none)
    ∨ (why = .noStandby ∧ s.stop.st = .run ∧ (nextCue s).isSome = true ∧ s.seq.settings.standbyRequired = true
        ∧ s.seq.latch = none)
    ∨ (why = .stopAsserted ∧ s.stop.st = .ready ∧ s.desk.stop = true)
    ∨ (why = .wrongState ∧ (s.stop.st = .stopped ∨ s.stop.st = .rebuilding ∨ ∃ k, s.stop.st = .countIn k))

theorem takeGo_stopped {s : State} {why : GoReason} (source : FireSource) (h : GoStopped s why) :
    takeGo source s = (s, .error why) := by
  rcases h with ⟨rfl, hst, hn⟩ | ⟨rfl, hst, hn, hreq, hl⟩ | ⟨rfl, hst, hd⟩ | ⟨rfl, hst | hst | ⟨k, hst⟩⟩
  · simp only [takeGo, hst, goInRun, hn]
  · obtain ⟨n, hn⟩ := Option.isSome_iff_exists.mp hn
    simp only [takeGo, hst, goInRun, hn, hreq, hl, Option.isNone_none, Bool.and_self, if_true]
  · simp only [takeGo, hst, hd, if_true]
  · simp only [takeGo, hst]
  · simp only [takeGo, hst]
  · simp only [takeGo, hst]

/-- Settles O22: a GO against which there is a reason answers it and leaves the state; the timer that expires in HELD or
COUNT_IN is one write. -/
theorem goRefused : Obligations.GoRefused := by
  intro s t held hs
  refine ⟨fun why h => ⟨?_, fun he => ?_⟩, fun n expiry hst ht => ?_⟩
  · refine exec_refused hs rfl ?_
    simp only [reqGo, takeGo_stopped (s := s.goTo t) .hostGo h, goAnswer]
  · rw [exec_deskEdge (f := deskGo) hs he rfl]
    simp only [deskGo, takeGo_stopped (s := (s.goTo t).setDesk (Desk.take true .go)) .deskGo h, Machine.goRefused]
    rfl
  · have hd : timerDue s = some expiry := by simp only [timerDue, ht]
    refine (selfTimed_due hs.1 hd).trans ?_
    congr 1
    rcases hst with hst | ⟨k, hst⟩ <;>
      simp only [timerExpires, State.goTo_seq, State.goTo_stop, ht, hst, StopSt.fires, Bool.false_eq_true, if_false] <;> rfl

/-! ## JUMP -/

theorem reqJump_range {n : CueNo} {s : State} (h : cueNoOk n = false) : reqJump n s = (s, refuse .range) := by
  simp [reqJump, h]

theorem reqJump_wrongState {n : CueNo} {s : State} (h : cueNoOk n = true) (hf : s.stop.st.fires = false)
    (hh : s.stop.st ≠ .held) : reqJump n s = (s, refuse .wrongState) := by
  simp [reqJump, h, jumpAllowed, hf, hh]

theorem jumpAllowed_of {s : State} (h : s.stop.st.fires = true ∨ s.stop.st = .held) : jumpAllowed s = true := by
  rcases h with h | h <;> simp [jumpAllowed, h]

theorem reqJump_missing {n : CueNo} {s : State} (h : cueNoOk n = true)
    (hf : s.stop.st.fires = true ∨ s.stop.st = .held) (hc : findCue s.store.cues n = none) :
    reqJump n s = (s, refuse .notFound) := by
  simp [reqJump, h, jumpAllowed_of hf, hc]

theorem reqJump_taken {n : CueNo} {s : State} (h : cueNoOk n = true)
    (hf : s.stop.st.fires = true ∨ s.stop.st = .held) (hc : (findCue s.store.cues n).isSome = true) :
    reqJump n s = (takeJump n s, okWith [.cue (nextCue (takeJump n s)), .cue (takeJump n s).seq.current]) := by
  obtain ⟨c, hc⟩ := Option.isSome_iff_exists.mp hc
  simp [reqJump, h, jumpAllowed_of hf, hc]

theorem takeJump_seq (n : CueNo) (s : State) : (takeJump n s).seq =
    { s.seq with pointer := some n, latch := none, timer := .idle, ahead := lookAhead (takeJump n s) } := by
  have e : lookAhead (takeJump n s)
      = lookAhead (clearLatch (s.setSeq fun q => { q with pointer := some n, timer := .idle })) := by
    unfold takeJump
    refine lookAhead_congr (handOver_store _) ?_ ?_ ?_ <;> rw [handOver_seq]
  rw [e]
  exact handOver_seq _

/-- Settles O23: the next cue and the look-ahead set are those of the list in order; a JUMP is taken behind its three tests, and
is one write of the Sequencer, handed over. -/
theorem jumpSetsThePointer : Obligations.JumpSetsThePointer := by
  refine ⟨fun s h => ⟨fun m hm => by simp [nextCue, hm], fun hp => ?_, fun hn => by simp [lookAhead, hn],
    fun n hn => lookAhead_of_next h hn⟩, fun s t n hs => ⟨fun h => exec_refused hs rfl (reqJump_range h),
    fun h hf hh => exec_refused hs rfl (reqJump_wrongState h hf hh),
    fun h hf hc => exec_refused hs rfl (reqJump_missing h hf hc),
    fun h hf hc => ⟨takeJump n (s.goTo t), ?_, takeJump_seq n _, handOver_video _, handedOver_handOver ⟨_, _, rfl⟩⟩⟩⟩
  · have e : nextCue s = afterCurrent s.store.cues s.seq.current := by simp [nextCue, hp]
    rw [e]
    exact nextIs_afterCurrent h _
  · have hseq := takeJump_seq n (s.goTo t)
    refine exec_answered hs rfl ((reqJump_taken (s := s.goTo t) h hf hc).trans ?_)
      (a := okWith [.cue (some n), .cue s.seq.current])
    have hn : nextCue (takeJump n (s.goTo t)) = some n := by simp only [nextCue, hseq]
    rw [hn, hseq]
    rfl

/-! ## HOLD -/

theorem setStop_eq (st : StopSt) (s : State) : setStop st s = withStop st s := rfl

theorem takeHold_byClock {s : State} (h : s.stop.st = .run ∨ ∃ k, s.stop.st = .countIn k) :
    takeHold s = (holdByClock s, true) := by
  rcases h with h | ⟨k, h⟩ <;> simp only [takeHold, h]

theorem takeHold_running {s : State} (h : s.stop.st = .run ∨ ∃ k, s.stop.st = .countIn k) (hc : s.clock.st = .running) :
    takeHold s = (withStop (.holding .armed) { s with clock := { s.clock with holdArmed := true } }, true) := by
  have e : holdByClock s = setStop (.holding .armed) (armHold s) := by simp only [holdByClock, hc]
  rw [takeHold_byClock h, e]
  rfl

theorem takeHold_idle {s : State} (h : s.stop.st = .run ∨ ∃ k, s.stop.st = .countIn k) (hc : s.clock.st = .idle) :
    takeHold s = (withStop .held { s with
      channels := s.channels.map fun c => { c with bursts := [] }, stop := { s.stop with held := none } }, true) := by
  have e : holdByClock s = setStop .held ((cancelClicks s).setStopCtl fun c => { c with held := none }) := by
    simp only [holdByClock, hc]
  rw [takeHold_byClock h, e]
  rfl

theorem takeHold_holding {s : State} (h : s.stop.st = .held ∨ ∃ g, s.stop.st = .holding g) : takeHold s = (s, true) := by
  rcases h with h | ⟨g, h⟩ <;> simp only [takeHold, h]

theorem takeHold_refused {s : State} (h : s.stop.st = .stopped ∨ s.stop.st.rebuilds = true) :
    takeHold s = (s, false) := by
  rcases h with h | h
  · simp only [takeHold, h]
  · cases hst : s.stop.st <;> simp [hst, StopSt.rebuilds] at h <;> simp only [takeHold, hst]

theorem reqHold_of {s u : State} {b : Bool} (h : takeHold s = (u, b)) :
    reqHold s = (u, { status := if b then .ok else .wrongState, body := stopItems u }) := by
  simp only [reqHold, h]

/-- A hold in a count-in without a ramp freezes the clock where it stands (R23). -/
theorem clockFreezes_unramped {s : State} (h : s.clock.ramp = none) :
    clockFreezes s = followerFreeze { s with
      clock := { s.clock with st := .frozen, next := none, holdArmed := false, start := none } } := by
  have e : endRamp s = s := by simp only [endRamp, h]
  rw [clockFreezes, e]
  rfl

theorem takeHold_countingIn {s : State} {bar beats : Nat} {ramp : Bool}
    (h : s.stop.st = .run ∨ ∃ k, s.stop.st = .countIn k) (hc : s.clock.st = .countingIn)
    (hb : s.clock.start = some { bar := bar, beats := beats, ramp := ramp }) (hr : s.clock.ramp = none) :
    takeHold s = (completeHold { bar := bar, pass := passOf s.clock.vamp } (followerFreeze { s with
      clock := { s.clock with st := .frozen, next := none, holdArmed := false, start := none } }), true) := by
  have e : holdByClock s = completeHold (freezeCountIn s).2 (freezeCountIn s).1 := by simp only [holdByClock, hc]
  rw [takeHold_byClock h, e, freezeCountIn, clockFreezes_unramped hr, hb]
  rfl

/-- Settles O24: the table of R158 by the stop state, and in RUN and COUNT_IN by the clock's state. -/
theorem holdByState : Obligations.HoldByState := by
  refine ⟨fun s t held hs => ?_, fun s t bar beats ramp hs hst hc hb hr => ?_⟩
  · have desk : ∀ {u : State} {b : Bool}, takeHold ((s.goTo t).setDesk (Desk.take true .hold)) = (u, b) →
        DeskEdge .hold t held s → exec (.deskHoldEdge t held) s = .next u := fun {u b} hu h => by
      rw [exec_deskEdge (f := fun s => (takeHold s).1) hs h rfl, hu]
    refine ⟨fun hst hc => ⟨?_, ?_⟩, fun hst hc => ⟨_, rfl, ?_, ?_⟩, fun hst => ⟨?_, ?_⟩, fun hst => ⟨?_, ?_⟩⟩
    · exact exec_answered hs rfl (reqHold_of (takeHold_running (s := s.goTo t) hst hc))
    · exact desk (takeHold_running hst hc)
    · exact exec_answered hs rfl (reqHold_of (takeHold_idle (s := s.goTo t) hst hc))
    · exact desk (takeHold_idle hst hc)
    · exact exec_answered hs rfl (reqHold_of (takeHold_holding (s := s.goTo t) hst))
    · exact desk (takeHold_holding hst)
    · exact exec_answered hs rfl (reqHold_of (takeHold_refused (s := s.goTo t) hst))
    · exact desk (takeHold_refused hst)
  · refine ⟨_, exec_answered hs rfl (reqHold_of (takeHold_countingIn (s := s.goTo t) hst hc hb hr)),
      rfl, ?_, rfl, rfl, rfl⟩
    simp only [completeHold, setStop_stop]
    rfl

end Sys2Proof.Proofs

namespace Sys2Proof.Proofs

open Sys2Proof Sys2Proof.Machine

/-! ## ATTENTION QUERY -/

theorem reqAttentionQuery_by {k : Nat} (h : 1 ≤ k ∧ k ≤ 9) (s : State) :
    reqAttentionQuery (some k) s = (clearCondition k s, okWith (queryItems k s)) := if_pos h

theorem queryItems_of {k : Nat} {c : Condition} {s : State} (h : s.attention[k - 1]? = some c) :
    queryItems k s = [.num 1 k, .flag c.isPending, .num 1 c.count] ++ keptRecord c.record := by
  simp only [queryItems, State.condition, List.getD_eq_getElem?_getD, h, Option.getD_some]

theorem reqAttentionQuery_first {k : Nat} {s : State} (hk : attentionSummary s = k + 1) :
    reqAttentionQuery none s = queryCondition (k + 1) s := by
  simp only [reqAttentionQuery, hk]

theorem reqAttentionQuery_nothing {s : State} (h : attentionSummary s = 0) :
    reqAttentionQuery none s = (s, okWith [.num 1 0, .flag false, .num 1 0, .opt 5 none]) := by
  simp only [reqAttentionQuery, h]
  rfl

/-- The enabled pending condition of the lowest number, by the search of the table. -/
theorem attentionSummary_of_first {k : Nat} {c : Condition} {s : State} (hk : s.attention[k]? = some c)
    (hc : assertsAttn c = true) (before : ∀ j d, j < k → s.attention[j]? = some d → assertsAttn d = false) :
    attentionSummary s = k + 1 := by
  obtain ⟨hlt, rfl⟩ := List.getElem?_eq_some_iff.mp hk
  rw [attentionSummary_eq_succ_iff, List.findIdx?_eq_some_iff_getElem]
  refine ⟨hlt, hc, fun j hj => ?_⟩
  rw [before j _ hj (List.getElem?_eq_getElem _)]
  decide

theorem attentionSummary_of_none {s : State} (h : ∀ c ∈ s.attention, assertsAttn c = false) : attentionSummary s = 0 := by
  by_contra hn
  rw [← ne_eq, attentionSummary_ne_zero_iff, attnLine_eq_any] at hn
  obtain ⟨c, hc, ha⟩ := List.any_eq_true.mp hn
  rw [h c hc] at ha
  cases ha

/-- Settles O53: a query by number reads the condition and clears it; an empty one is the query by the number of the
summary. -/
theorem attentionQueryClears : Obligations.AttentionQueryClears := by
  intro s t hp hlen
  have by_ : ∀ n, exec (.attentionQuery t n) s = .next ((reqAttentionQuery n (s.goTo t)).1.replied
      (reqAttentionQuery n (s.goTo t)).2.status (reqAttentionQuery n (s.goTo t)).2.body) := fun n => request_always t hp
  refine ⟨fun k c h₁ h₂ hc => ⟨clearCondition k (s.goTo t), ?_, ?_, fun j hj => ?_, rfl, fun hpend hen before => ?_⟩,
    fun h => ?_, fun k hk => ?_⟩
  · rw [by_, reqAttentionQuery_by ⟨h₁, h₂⟩, queryItems_of (s := s.goTo t) hc]
    rfl
  · simp [clearCondition, hc, Condition.cleared]
  · simp [clearCondition, List.getElem?_modify, Ne.symm hj]
  · have hs : attentionSummary (s.goTo t) = (k - 1) + 1 :=
      attentionSummary_of_first (s := s.goTo t) hc ((assertsAttn_iff c).mpr ⟨hpend, hen⟩) before
    have e : reqAttentionQuery none (s.goTo t) = reqAttentionQuery (some k) (s.goTo t) := by
      rw [reqAttentionQuery_first hs, Nat.sub_add_cancel h₁, reqAttentionQuery_by ⟨h₁, h₂⟩]
      rfl
    rw [by_, by_, e]
  · rw [by_, reqAttentionQuery_nothing (attentionSummary_of_none (s := s.goTo t) h)]
    rfl
  · have e : reqAttentionQuery (some k) (s.goTo t) = (s.goTo t, refuse .range) := if_neg hk
    rw [by_, e]
    rfl

/-! ## Requests taken from the queue -/

/-- What a payload reader reads has a property. -/
def Gives {α : Type} (P : α → Prop) (r : Reader α) : Prop := ∀ bs a rest, r bs = some (a, rest) → P a

theorem Gives.pure {α : Type} {P : α → Prop} {a : α} (h : P a) : Gives P (Pure.pure a : Reader α) := by
  intro bs b rest hb
  cases hb
  exact h

theorem Gives.bind {α β : Type} {P : β → Prop} {r : Reader α} {k : α → Reader β} (h : ∀ a, Gives P (k a)) :
    Gives P (r >>= k) := by
  intro bs b rest hb
  obtain ⟨⟨a, bs'⟩, -, hk⟩ := Option.bind_eq_some_iff.mp hb
  exact h a bs' b rest hk

/-- A command is a request of its block at show time `t`. -/
def AsksAt (t : Nat) (c : Instr) : Prop := ∃ r, requestOf c = some r ∧ ∀ s, exec c s = request t r.1 r.2 s

/-- Every layout of R183 spells a request at the show time it is read at. -/
theorem kindReader_asks {t k : Nat} {r : Reader Instr} (h : kindReader t k = some r) : Gives (AsksAt t) r := by
  unfold kindReader at h
  split at h <;> cases h
  all_goals repeat' refine Gives.bind fun _ => ?_
  all_goals exact Gives.pure ⟨_, rfl, fun _ => rfl⟩

theorem readRequest_asks {t : Nat} {f : Frame} {c : Instr} (h : readRequest t f = .ok c) : AsksAt t c := by
  unfold readRequest at h
  split at h
  · cases h
  next r hr =>
    split at h
    next i hi => cases h; exact kindReader_asks hr _ _ _ hi
    · cases h

theorem takeOldest_waits {s : State} (h : s.link.waiting.isSome = true ∨ s.link.queue = []) : takeOldest s = s := by
  unfold takeOldest
  split
  next hw hq =>
    rcases h with h | h
    · rw [hw] at h; cases h
    · rw [hq] at h; cases h
  · rfl

theorem takeOldest_takes {s : State} {f : Frame} {fs : List Frame} (hw : s.link.waiting = none)
    (hq : s.link.queue = f :: fs) : takeOldest s = takeFrame f (s.setLink fun l => { l with queue := fs }) := by
  simp only [takeOldest, hw, hq]

theorem answerFrame_error {f : Frame} {s : State} {why : Status} (h : readRequest s.now f = .error why) :
    answerFrame f s = (s, refuse why) := by
  simp only [answerFrame, h]

theorem answerFrame_ok {f : Frame} {s : State} {c : Instr} {r : Bool × (State → State × Answer)}
    (h : readRequest s.now f = .ok c) (hr : requestOf c = some r) : answerFrame f s = takeRequest r.1 r.2 s := by
  simp only [answerFrame, h, hr]

theorem exec_requestTaken {s : State} {t : Nat} {f : Frame} {fs : List Frame} (hp : s.powered = true)
    (hw : s.link.waiting = none) (hq : s.link.queue = f :: fs) :
    exec (.requestTaken t) s = .next (takeFrame f { s.goTo t with link := { s.link with queue := fs } }) :=
  (event_on t hp).trans (congrArg _ (takeOldest_takes (s := s.goTo t) hw hq))

/-- Settles O59: the oldest frame is read, and its reply is the one that the same request, given directly, forms last. -/
theorem requestsAndReplies : Obligations.RequestsAndReplies := by
  refine ⟨fun s t hp => ⟨fun h => ?_, fun f fs hw hq => ⟨fun why hy => ?_, fun c hc hr => ?_⟩⟩, fun s bytes began hp hs => ?_⟩
  · exact (event_on t hp).trans (congrArg _ (takeOldest_waits (s := s.goTo t) h))
  · rw [exec_requestTaken hp hw hq, takeFrame,
      answerFrame_error (s := { s.goTo t with link := { s.link with queue := fs } }) hy]
    rfl
  · obtain ⟨r, hr, he⟩ := readRequest_asks hc
    have hnow : State.goTo (max s.now t) { s with now := max s.now t, link := { s.link with queue := fs } }
        = { s.goTo t with link := { s.link with queue := fs } } := goTo_of_le (le_refl (max s.now t))
    rw [exec_requestTaken hp hw hq, takeFrame,
      answerFrame_ok (s := { s.goTo t with link := { s.link with queue := fs } }) hc hr]
    refine ⟨_, _, ?_, rfl, rfl⟩
    have hp' : State.powered { s with now := max s.now t, link := { s.link with queue := fs } } = true := hp
    refine (he _).trans ((event_on _ hp').trans ?_)
    rw [hnow]
  · have hd : replyDue s = some (began + bitTimes (10 * bytes.length) s.link.rate.baud) := by
      simp only [replyDue, hs, Option.map_some]
    exact ⟨_, selfTimed_due hp hd, rfl, rfl, rfl⟩

end Sys2Proof.Proofs

namespace Sys2Proof.Proofs

open Sys2Proof Sys2Proof.Machine

/-! ## The conditions, as RESTART SHOW will find them -/

theorem map_modify_of {α β : Type} {g : α → β} {f : α → α} (h : ∀ a, g (f a) = g a) (k : Nat) (l : List α) :
    (l.modify k f).map g = l.map g := by
  apply List.ext_getElem?
  intro j
  simp only [List.getElem?_map, List.getElem?_modify]
  split
  · cases l[j]? <;> simp [h]
  · simp

theorem restarted_raise (r : CondRecord) (s : State) :
    (raise r s).attention.map Condition.restarted = s.attention.map Condition.restarted :=
  map_modify_of (f := Condition.raised r s.now) (fun _ => rfl) _ _

theorem restarted_evaluateReady (s : State) :
    (evaluateReady s).attention.map Condition.restarted = s.attention.map Condition.restarted := by
  unfold evaluateReady
  extract_lets blocked
  split
  · split
    · rfl
    · exact restarted_raise _ _
  · split <;> rfl
  · rfl

theorem restarted_setAccount (i : Fin 6) (f : Account → Account) (s : State) :
    (setAccount i f s).attention.map Condition.restarted = s.attention.map Condition.restarted := by
  unfold setAccount
  split
  · exact restarted_evaluateReady _
  · rfl

/-- What an operation on a station raises, RESTART SHOW clears. -/
theorem Rigs.restarted {i : Fin 6} {s u : State} (h : Rigs i s u) :
    u.attention.map Condition.restarted = s.attention.map Condition.restarted := by
  induction h with
  | refl => rfl
  | tail _ step ih =>
    cases step with
    | station f => exact ih
    | fault kind => exact (restarted_raise _ _).trans ih
    | account f => exact (restarted_setAccount i f _).trans ih

theorem restarted_eachStation {f : Fin 6 → State → State} (h : ∀ i s, Rigs i s (f i s)) (s : State) :
    (eachStation f s).attention.map Condition.restarted = s.attention.map Condition.restarted :=
  eachStation_induct (P := fun u => u.attention.map Condition.restarted = s.attention.map Condition.restarted)
    (fun i u hu => (h i u).restarted.trans hu) rfl

theorem restarted_handOver (s : State) :
    (handOver s).attention.map Condition.restarted = s.attention.map Condition.restarted :=
  restarted_eachStation (fun i u => Rigs.takeAhead _ _ i u) _

/-! ## An order that is one write of each station -/

/-- Each station is written once. -/
theorem station_eachStation_write (g : Fin 6 → Station → Station) (i : Fin 6) {s : State} (h : s.stations.length = 6) :
    (eachStation (fun i s => s.setStation i (g i)) s).station i = g i (s.station i) := by
  have e := sameFor_eachStation (f := fun i s => s.setStation i (g i)) i (fun _ _ h => h.write rfl)
    (fun j _ hj h => sameFor_setStation_other hj (g j) h) h
  exact e.station.trans (station_setStation_same i _ h)

theorem eachStation_write (g : Fin 6 → Station → Station) (s : State) :
    ∃ st, eachStation (fun i s => s.setStation i (g i)) s = { s with stations := st }
      ∧ st.length = s.stations.length :=
  eachStation_induct (P := fun u => ∃ st, u = { s with stations := st } ∧ st.length = s.stations.length)
    (fun i u ⟨st, hu, hl⟩ => ⟨st.modify i (g i), by subst hu; rfl, (List.length_modify _ _ _).trans hl⟩) ⟨_, rfl, rfl⟩

/-- The station after RESTART SHOW (R130). -/
def restartedStation (st : Station) : Station :=
  { st with
    silence := st.silence || st.serves, selectPlace := none, loadPlace := none, failed := [], switch := none
    lastSwitch := match st.switch with
      | some w => some { cue := w.cue, patch := some w.patch, kind := w.kind, outcome := .dropped, lateness := none }
      | none => st.lastSwitch }

theorem stationRestart_eq (i : Fin 6) (s : State) : stationRestart i s = s.setStation i restartedStation := by
  rw [stationRestart, endSwitch_dropped, setStation_setStation]
  rfl

/-! ## RESTART SHOW -/

/-- What a hand-over leaves of a station's record (R104, R120). -/
theorem station_handOver (i : Fin 6) {s : State} (h : s.stations.length = 6) :
    { (handOver s).station i with
      failed := (s.station i).failed, ahead := (s.station i).ahead
      standbyTarget := (s.station i).standbyTarget }.settled = (s.station i).settled := by
  obtain ⟨-, e⟩ := targetsHanded_handOver i s h
  generalize (handOver s).station i = x at e ⊢
  have r := (recompute_spec false i (s := s.setStation i fun st => { st with
    ahead := x.ahead, standbyTarget := x.standbyTarget }) (by simp [h])).station
  rw [← e, station_setStation_same i _ h] at r
  exact congrArg (fun st : Station => { st with
    ahead := (s.station i).ahead, standbyTarget := (s.station i).standbyTarget }) r

/-- Clock, follower, channels, overlay and stop state as RESTART SHOW leaves them, the stations and the Sequencer not yet
restarted. -/
def blocksRestarted (s : State) : State :=
  videoRestart { clockRestart (stopRestart s) with channels := s.channels.map restartChannel }

/-- The state in which all but the hand-over of RESTART SHOW and the conditions stand. -/
def showRestarted (s : State) : State :=
  State.setSeq (fun q => { Sequencer.initial with settings := q.settings })
    (eachStation (fun i s => s.setStation i restartedStation) (blocksRestarted s))

theorem restartShow_eq (s : State) : restartShow s = attentionRestart (handOver (showRestarted s)) := by
  have e : stationRestart = fun i s => s.setStation i restartedStation :=
    funext fun i => funext fun s => stationRestart_eq i s
  rw [restartShow, e]
  rfl

theorem showRestarted_parts (s : State) : ∃ st, showRestarted s = { blocksRestarted s with
    seq := { Sequencer.initial with settings := s.seq.settings }, stations := st } ∧ st.length = s.stations.length := by
  obtain ⟨st, e, hst⟩ := eachStation_write (fun _ => restartedStation) (blocksRestarted s)
  refine ⟨st, ?_, hst⟩
  rw [showRestarted, e]
  rfl

theorem station_showRestarted (i : Fin 6) {s : State} (h : s.stations.length = 6) :
    (showRestarted s).station i = restartedStation (s.station i) :=
  station_eachStation_write (fun _ => restartedStation) i (s := blocksRestarted s) h

/-- RESTART SHOW, all blocks together. -/
theorem restartShow_parts (s : State) : ∃ ahead st, restartShow s = { blocksRestarted s with
    seq := { Sequencer.initial with settings := s.seq.settings, ahead := ahead }
    stations := st, attention := s.attention.map Condition.restarted } := by
  obtain ⟨st, e, -⟩ := showRestarted_parts s
  obtain ⟨st', att, he, -⟩ := handOver_eq (showRestarted s)
  have quiet := restarted_handOver (showRestarted s)
  have hatt : att.map Condition.restarted = s.attention.map Condition.restarted := by
    rw [he, e] at quiet
    exact quiet
  refine ⟨lookAhead (showRestarted s), st', ?_⟩
  rw [restartShow_eq, he, attentionRestart]
  dsimp only
  rw [hatt, e]

theorem restartShow_ahead (s : State) : (restartShow s).seq.ahead = lookAhead (restartShow s) := by
  rw [restartShow_eq]
  have hstore := handOver_store (showRestarted s)
  have hseq := handOver_seq (showRestarted s)
  generalize handOver (showRestarted s) = u at hstore hseq ⊢
  generalize showRestarted s = m at hstore hseq
  have e : lookAhead (attentionRestart u) = lookAhead m := by
    refine lookAhead_congr hstore ?_ ?_ ?_ <;> simp only [attentionRestart, hseq]
  rw [e, attentionRestart, hseq]

theorem restartShow_targets (i : Fin 6) {s : State} (h : s.stations.length = 6) : TargetsHeld i (restartShow s) := by
  obtain ⟨st, e, hst⟩ := showRestarted_parts s
  have held := (targetsHanded_handOver i (showRestarted s) (by rw [e]; exact hst.trans h)).1
  rw [restartShow_eq]
  generalize handOver (showRestarted s) = u at held ⊢
  exact held

theorem restartShow_station (i : Fin 6) {s : State} (h : s.stations.length = 6) :
    { (restartShow s).station i with
      failed := [], ahead := (s.station i).ahead
      standbyTarget := (s.station i).standbyTarget }.settled = (restartedStation (s.station i)).settled := by
  obtain ⟨st, e, hst⟩ := showRestarted_parts s
  have k := station_handOver i (s := showRestarted s) (by rw [e]; exact hst.trans h)
  rw [station_showRestarted i h] at k
  rw [restartShow_eq]
  generalize handOver (showRestarted s) = u at k ⊢
  exact k

/-- Settles O60: the blocks, the stations and the conditions are each one write; the hand-over between gives the stations
their targets, and what it raises is cleared behind it. -/
theorem restartShowClearsTheShow : Obligations.RestartShowClearsTheShow := by
  intro s t hs hl
  have stations := fun i => restartShow_station i (s := s.goTo t) hl
  have held := fun i => restartShow_targets i (s := s.goTo t) hl
  have ahead := restartShow_ahead (s.goTo t)
  obtain ⟨set, st, e⟩ := restartShow_parts (s.goTo t)
  refine ⟨restartShow (s.goTo t), exec_answered (a := okWith []) hs rfl rfl, ?_⟩
  rw [e] at stations held ahead ⊢
  refine ⟨rfl, rfl, rfl, ⟨rfl, rfl, rfl, rfl, rfl, rfl, ahead⟩, held, rfl, ⟨rfl, rfl, rfl, rfl, rfl, rfl, rfl, rfl⟩,
    fun k c hk => ?_, fun i => ?_, rfl⟩
  · simp only [State.goTo_attention, List.getElem?_map, hk]
    rfl
  · have p : ∀ {α : Type} (f : Station → α), _ := fun f => congrArg f (stations i)
    exact ⟨p (·.slots), p (·.selected), p (·.outLoad), p (·.outSelect), p (·.hostPins), p (·.switch), p (·.selectPlace),
      p (·.loadPlace), p (·.silence)⟩

end Sys2Proof.Proofs

namespace Sys2Proof.Proofs

open Sys2Proof Sys2Proof.Machine

/-! ## Windows that close -/

theorem missBeat_coasts {s : State} (h : coastsNow s.follower = true) : missBeat s
    = { s with follower := missedFollower s.follower, attention := missedAttention s.follower s.now s.attention } := by
  have hc := h
  simp only [coastsNow, Bool.and_eq_true, beq_iff_eq, decide_eq_true_eq] at hc
  obtain ⟨hst, hm⟩ := hc
  simp [missBeat, State.setFollower, hst, hm, enterCoasting, followerGoes, Machine.raise, missedFollower, missedAttention,
    h, satInc, Config.maxCount16, CondRecord.place]

theorem missBeat_stays {s : State} (h : coastsNow s.follower = false) : missBeat s
    = { s with follower := missedFollower s.follower, attention := missedAttention s.follower s.now s.attention } := by
  have hc := h
  simp only [coastsNow, Bool.and_eq_false_iff, beq_eq_false_iff_ne, decide_eq_false_iff_not] at hc
  cases hst : s.follower.st <;>
    simp_all [missBeat, State.setFollower, missedFollower, missedAttention, satInc, Config.maxCount16]

/-- A missed beat is one write of the follower, and of BEAT_LOCK where it leads to COASTING (R44, R48). -/
theorem missBeat_eq (s : State) : missBeat s
    = { s with follower := missedFollower s.follower, attention := missedAttention s.follower s.now s.attention } := by
  cases h : coastsNow s.follower with
  | true => exact missBeat_coasts h
  | false => exact missBeat_stays h

theorem closeWindow_open {s : State} {l : LastBeat} (hl : s.follower.last = some l) (ho : l.isOpen = true) :
    closeWindow s = { s with
      follower := windowClosed l s.follower, attention := closedAttention l s.follower s.now s.attention } := by
  cases hm : l.matched with
  | true => simp [closeWindow, hl, ho, hm, State.setFollower, windowClosed, closedAttention]
  | false => simp [closeWindow, hl, ho, hm, missBeat_eq, State.setFollower, windowClosed, closedAttention, missedFollower,
      missedAttention, coastsNow]

theorem windowWidth_eq {s : State} (h : s.follower.st ≠ .free) :
    windowWidth s = halfWidth s.follower (s.clock.period.getD 0) := by
  unfold windowWidth halfWidth State.periodNow
  cases hst : s.follower.st <;> simp [hst] at h ⊢
  cases s.follower.settings.window <;> simp

theorem windowCloseDue_open {s : State} {l : LastBeat} (h : s.follower.st ≠ .free) (hl : s.follower.last = some l)
    (ho : l.isOpen = true) :
    windowCloseDue s = some (l.time + halfWidth s.follower (s.clock.period.getD 0) + 1) := by
  simp [windowCloseDue, hl, ho, keepsWindows, h, windowWidth_eq h]

/-- Settles O37: the window closes at its end, and what that writes is the follower and BEAT_LOCK. -/
theorem windowCloses : Obligations.WindowCloses := by
  refine fun s hp => ⟨fun h => selfTimed_not_due ?_, fun l h hl ho => ⟨_, selfTimed_due hp (windowCloseDue_open h hl ho), ?_⟩⟩
  · unfold windowCloseDue
    cases s.follower.last <;> simp [keepsWindows, h]
  · rw [closeWindow_open (s := s.goTo _) hl ho]
    exact ⟨rfl, rfl, rfl, rfl⟩

/-! ## Pulses that commit nothing -/

/-- A pulse behind its debounce (R27). -/
theorem exec_beatPulse {s : State} {t quiet : Nat} (hp : s.powered = true) (h₁ : 2000 ≤ quiet) (h₂ : 2000 ≤ max s.now t) :
    exec (.beatPulse t quiet) s = .next (afterCommit (takePulse (s.goTo t))) := by
  refine (event_on t hp).trans (congrArg _ (if_pos ?_))
  exact (hasHeld_iff _ _ _).mpr ⟨h₁, h₂⟩

theorem exec_beatPulse_bounces {s : State} {t quiet : Nat} (hp : s.powered = true)
    (h : quiet < 2000 ∨ max s.now t < 2000) : exec (.beatPulse t quiet) s = .next (s.goTo t) := by
  refine (event_on t hp).trans (congrArg _ (if_neg ?_))
  rw [hasHeld_iff, State.goTo_now, Config.beatDebounce]
  omega

theorem takePulse_quiet {s : State} (h : s.clock.st = .idle ∨ s.clock.st = .frozen) :
    takePulse s = (s, Committed.nothing) := by
  rcases h with h | h <;> simp [takePulse, h, ClockSt.beats]

theorem takePulse_fixed {s : State} {g : Governing} (hb : s.clock.st.beats = true) (hg : s.clock.gov = some g)
    (hm : g.record.mode = .fixed) : takePulse s = (measurePulse s.now s, Committed.nothing) := by
  simp [takePulse, hb, hg, hm]

theorem takePulse_conducted {s : State} {g : Governing} (hb : s.clock.st.beats = true) (hg : s.clock.gov = some g)
    (hm : g.record.mode = .conducted) : takePulse s
      = if tooClose s.now s then (rejectClose s, Committed.nothing) else reachBeat s.now (acceptConducted s) := by
  simp [takePulse, hb, hg, hm]

theorem measurePulse_none {s : State} (t : Nat) (h : s.clock.spacing = none) : measurePulse t s = s := by
  simp [measurePulse, h]

theorem measurePulse_some {s : State} (t : Nat) {c : Nat} (h : s.clock.spacing = some c) : measurePulse t s
    = { s with follower := { s.follower with lastError := (t : Int) - (c : Int) } } := by
  simp [measurePulse, h, State.setFollower]

theorem tooClose_some {s : State} {t c : Nat} (h : s.clock.spacing = some c) (hc : t < c + 100000) :
    tooClose t s = true := by
  simp only [tooClose, h]
  exact decide_eq_true hc

/-- Settles O34: the debounce, then the clock's state, then the mode of the governing record. -/
theorem pulsesThatDoNotCommit : Obligations.PulsesThatDoNotCommit := by
  refine fun s t quiet hp => ⟨exec_beatPulse_bounces hp, fun h => ?_, fun g h₁ h₂ hb hg hm => ⟨fun hs => ?_, fun c hs => ?_⟩,
    fun g c h₁ h₂ hb hg hm hs hc => ?_⟩
  · by_cases hd : quiet < 2000 ∨ max s.now t < 2000
    · exact exec_beatPulse_bounces hp hd
    · rw [exec_beatPulse hp (by omega) (by omega), takePulse_quiet (s := s.goTo t) h, afterCommit_nothing]
  · rw [exec_beatPulse hp h₁ h₂, takePulse_fixed (s := s.goTo t) hb hg hm, measurePulse_none (s := s.goTo t) _ hs,
      afterCommit_nothing]
  · rw [exec_beatPulse hp h₁ h₂, takePulse_fixed (s := s.goTo t) hb hg hm, measurePulse_some (s := s.goTo t) _ hs,
      afterCommit_nothing]
    rfl
  · have close : tooClose (s.goTo t).now (s.goTo t) = true :=
      tooClose_some (s := s.goTo t) hs hc
    rw [exec_beatPulse hp h₁ h₂, takePulse_conducted (s := s.goTo t) hb hg hm, if_pos close, afterCommit_nothing]
    rfl

/-! ## The flash field -/

/-- Of the multiples of `F` from the first at or after `x` on, the one that a rounded division gives is the nearest to `y`, the
lower of two as near. -/
def NearestMultiple (F x aim T : Nat) (k : Nat) : Prop :=
  1 ≤ k ∧ x ≤ k * F ∧ ∀ j, 1 ≤ j → x ≤ j * F → distance (T + k * F) aim ≤ distance (T + j * F) aim
    ∧ (distance (T + k * F) aim = distance (T + j * F) aim → k ≤ j)

theorem nearestMultiple {F : Nat} (hF : 0 < F) (x aim T : Nat) : NearestMultiple F x aim T
    (max (max 1 (ceilDiv x F)) ((2 * (aim - T) + F - 1) / (2 * F))) := by
  have step : ∀ {a b : Nat}, a < b → a * F + F ≤ b * F := fun {a b} h => by
    rw [← Nat.succ_mul]; exact Nat.mul_le_mul_right F h
  have ceil : ∀ j, x ≤ j * F ↔ ceilDiv x F ≤ j := fun j => by
    have := Nat.div_lt_iff_lt_mul hF (x := x + F - 1) (y := j + 1)
    rw [Nat.succ_mul] at this
    rw [ceilDiv]
    omega
  generalize hb : (2 * (aim - T) + F - 1) / (2 * F) = b
  have below : 2 * (b * F) < 2 * (aim - T) + F := by
    have := (Nat.le_div_iff_mul_le (by omega)).mp hb.ge
    rw [show b * (2 * F) = 2 * (b * F) by ring] at this
    omega
  have above : 2 * (aim - T) ≤ 2 * (b * F) + F := by
    have := (Nat.div_lt_iff_lt_mul (by omega)).mp (Nat.lt_succ_of_le hb.le)
    rw [show (b + 1) * (2 * F) = 2 * (b * F) + 2 * F by ring] at this
    omega
  generalize hk : max (max 1 (ceilDiv x F)) b = k
  refine ⟨by omega, (ceil k).mpr (by omega), fun j hj hx => ?_⟩
  have hceil := (ceil j).mp hx
  have hbk : b * F ≤ k * F := Nat.mul_le_mul_right F (by omega)
  unfold distance
  rcases Nat.lt_or_ge j k with h | h
  · have hkb : k = b := by omega
    subst hkb
    have := step h
    omega
  · rcases Nat.eq_or_lt_of_le h with rfl | h
    · omega
    · have := step h
      omega

/-- Settles O43: the predicted starts are an arithmetic progression, of which the nearest to the aim is found by one rounded
division, and the first at or after the commit by another. -/
theorem flashFieldIsTheNearest : Obligations.FlashFieldIsTheNearest := by
  intro v now aim m hm hnow
  obtain ⟨h₁, h₂, h₃⟩ := nearestMultiple (F := v.outRate.nominal) (by cases v.outRate <;> decide)
    (now - fieldTime v) aim (fieldTime v)
  generalize hk : max (max 1 (ceilDiv (now - fieldTime v) v.outRate.nominal))
    ((2 * (aim - fieldTime v) + v.outRate.nominal - 1) / (2 * v.outRate.nominal)) = k at h₁ h₂ h₃
  have near : nearestField v (firstCandidate v now) aim = v.fieldNo + k := by
    rw [← hk, nearestField, firstCandidate, Nat.add_max_add_left]
  obtain ⟨j, rfl⟩ := Nat.exists_eq_add_of_le hm.le
  have predicted : ∀ i, predictedStart v (v.fieldNo + i) = fieldTime v + i * v.outRate.nominal := fun i => by
    rw [predictedStart, Nat.add_sub_cancel_left]
  have first : firstCandidate v now ≤ v.fieldNo + k := by
    rw [← hk, firstCandidate]
    exact Nat.add_le_add_left (le_max_left _ _) _
  rw [predicted] at hnow
  obtain ⟨h₄, h₅⟩ := h₃ j (by omega) (by omega)
  rw [near, predicted, predicted]
  exact ⟨by omega, first, by omega, h₄, fun h => Nat.add_le_add_left (h₅ h) _⟩

end Sys2Proof.Proofs

namespace Sys2Proof.Proofs

open Sys2Proof Sys2Proof.Machine

/-! ## The window account of a commit -/

/-- The follower once its open window, if there is one, has closed. -/
def lastClosed (f : Follower) : Follower :=
  match f.last with
  | some l => if l.isOpen then windowClosed l f else f
  | none => f

/-- The conditions once that window has closed at show time `now`. -/
def lastClosedAttention (f : Follower) (now : Nat) (a : List Condition) : List Condition :=
  match f.last with
  | some l => if l.isOpen then closedAttention l f now a else a
  | none => a

theorem closeWindow_eq (s : State) : closeWindow s = { s with
    follower := lastClosed s.follower, attention := lastClosedAttention s.follower s.now s.attention } := by
  cases hl : s.follower.last with
  | none => simp [closeWindow, lastClosed, lastClosedAttention, hl]
  | some l =>
    cases ho : l.isOpen with
    | false => simp [closeWindow, lastClosed, lastClosedAttention, hl, ho]
    | true => rw [closeWindow_open hl ho]; simp [lastClosed, lastClosedAttention, hl, ho]

theorem lastClosed_nextMatched (f : Follower) : (lastClosed f).nextMatched = f.nextMatched := by
  unfold lastClosed
  split
  · split
    · unfold windowClosed
      split <;> rfl
    · rfl
  · rfl

/-- The follower as it takes a beat at `t`: outside FREE the window of the last beat closes and that of this one opens. -/
def windowsTaken (t : Nat) (f : Follower) : Follower :=
  if f.st = .free then f
  else { lastClosed f with last := some { time := t, isOpen := true, matched := f.nextMatched }, nextMatched := false }

def windowsTakenAttention (f : Follower) (now : Nat) (a : List Condition) : List Condition :=
  if f.st = .free then a else lastClosedAttention f now a

theorem windowAccount_eq (t : Nat) (s : State) : windowAccount t s = { s with
    follower := windowsTaken t s.follower, attention := windowsTakenAttention s.follower s.now s.attention } := by
  by_cases h : s.follower.st = .free
  · rw [windowAccount_free t h]
    simp [windowsTaken, windowsTakenAttention, h]
  · have hk : keepsWindows s = true := by simp [keepsWindows, h]
    rw [windowAccount, if_pos hk, closeWindow_eq]
    simp [State.setFollower, windowsTaken, windowsTakenAttention, h, lastClosed_nextMatched]

theorem windowsTaken_free {f : Follower} (t : Nat) (h : f.st = .free) : windowsTaken t f = f := if_pos h

theorem windowsTakenAttention_free {f : Follower} (now : Nat) (a : List Condition) (h : f.st = .free) :
    windowsTakenAttention f now a = a := if_pos h

theorem lastClosed_of_closed {f : Follower} (h : ∀ l, f.last = some l → l.isOpen = false) : lastClosed f = f := by
  unfold lastClosed
  split
  next l hl => simp [h l hl]
  · rfl

theorem lastClosedAttention_of_closed {f : Follower} (now : Nat) (a : List Condition)
    (h : ∀ l, f.last = some l → l.isOpen = false) : lastClosedAttention f now a = a := by
  unfold lastClosedAttention
  split
  next l hl => simp [h l hl]
  · rfl

/-! ## Commits, written out -/

/-- The overlay with the flash of a beat pending. -/
def flashed (commit lead t : Nat) (conducted : Bool) (content : BeatContent) (v : Video) : Video :=
  { v with waiting := some {
      field := nearestField v (firstCandidate v commit) (t - min v.settings.delay lead)
      aim := t - min v.settings.delay lead, time := t, content := content, conducted := conducted
      before := refTime v.fieldStart, earlier := v.earlierStart, displays := true } }

/-- A beat's content of the overlay. -/
def beatContent (c : BeatClock) (bar beat : Nat) (phase : Phase) (p : Option Nat) : BeatContent :=
  { bar := bar, beat := beat, pass := (c.vamp.map (·.loops)).getD 0, phase := phase, tempo := displayedTempo p }

/-- The state behind a beat committed under FIXED or FOLLOW: `k` is the clock with the beat, `r` its record. -/
def beatCommitted (k : BeatClock) (r : BeatRec) (s : State) : State :=
  { s with
    clock := k
    follower := windowsTaken r.time s.follower
    attention := windowsTakenAttention s.follower s.now s.attention
    channels := s.channels.map (scheduleChannel r s.clock.lead)
    video := flashed s.now s.clock.lead r.time false (beatContent s.clock r.bar r.beat r.phase s.clock.period) s.video }

theorem commitAs_beats {g : Governing} {s : State} (t bar beat : Nat) (phase : Phase) (hg : s.clock.gov = some g)
    (hm : g.record.mode ≠ .conducted) :
    commitAs t bar beat phase s = (beatCommitted (writeBeat g { showBeat g s.clock s.now t bar beat with phase := phase } s).clock
        { showBeat g s.clock s.now t bar beat with phase := phase } s,
      { beat := some { showBeat g s.clock s.now t bar beat with phase := phase }, held := none
        countInEnd := s.clock.st == .countingIn && phase == .inShow }) := by
  have hb : beatRecord g s.clock s.now t bar beat phase = { showBeat g s.clock s.now t bar beat with phase := phase } := by
    unfold beatRecord periodField showBeat
    cases hmode : g.record.mode <;> simp [hmode] at hm ⊢ <;> rfl
  generalize hr : ({ showBeat g s.clock s.now t bar beat with phase := phase } : BeatRec) = r at hb
  have hrm : r.mode ≠ .conducted := by rw [← hr]; exact hm
  have hct : (r.mode == TempoMode.conducted) = false := by simpa using hrm
  unfold commitAs
  simp only [hg, hb]
  rw [windowAccount_eq, clickCommit_other _ hrm]
  simp only [videoCommit, State.setVideo, hct, beatCommitted]
  rw [← hr]
  rfl

theorem nextTime_beats {g : Governing} (hm : g.record.mode ≠ .conducted) (p t : Nat) :
    nextTime g (some p) t = some (t + p) := by
  unfold nextTime
  cases hmode : g.record.mode <;> simp [hmode] at hm ⊢

/-- A SHOW beat is committed under FIXED or FOLLOW (R4, R5). -/
theorem commitAs_show {g : Governing} {s : State} {p : Nat} (t bar beat : Nat) (hg : s.clock.gov = some g)
    (hm : g.record.mode ≠ .conducted) (hp : s.clock.period = some p) :
    commitAs t bar beat .inShow s
      = (beatCommitted (showWritten s.clock s.follower t bar beat (some p) (showNext (some (t + p)) g.record.meter bar beat))
          (showBeat g s.clock s.now t bar beat) s,
        { beat := some (showBeat g s.clock s.now t bar beat), held := none, countInEnd := s.clock.st == .countingIn }) := by
  have hr : ({ showBeat g s.clock s.now t bar beat with phase := .inShow } : BeatRec) = showBeat g s.clock s.now t bar beat :=
    rfl
  have hk : (writeBeat g (showBeat g s.clock s.now t bar beat) s).clock
      = showWritten s.clock s.follower t bar beat (some p) (showNext (some (t + p)) g.record.meter bar beat) := by
    simp [writeBeat, State.setClock, showWritten, beatWritten, showBeat, showNext, nextKind, nextTime_beats hm, hp]
  rw [commitAs_beats t bar beat .inShow hg hm, hr, hk]
  simp

/-- A count-in beat is committed under FIXED or FOLLOW (R18). -/
theorem commitAs_countIn {g : Governing} {s : State} {p : Nat} (t bar beat n : Nat) (hg : s.clock.gov = some g)
    (hm : g.record.mode ≠ .conducted) (hp : s.clock.period = some p) :
    commitAs t bar beat (.countIn n) s
      = (beatCommitted (beatWritten s.clock s.follower t bar beat (.countIn n) (some p) {
            time := some (t + p), kind := if n < (s.clock.start.map (·.beats)).getD 0 then .countIn (n + 1) else .down })
          { showBeat g s.clock s.now t bar beat with phase := .countIn n } s,
        { beat := some { showBeat g s.clock s.now t bar beat with phase := .countIn n }, held := none
          countInEnd := false }) := by
  have hk : (writeBeat g { showBeat g s.clock s.now t bar beat with phase := .countIn n } s).clock
      = beatWritten s.clock s.follower t bar beat (.countIn n) (some p) {
            time := some (t + p), kind := if n < (s.clock.start.map (·.beats)).getD 0 then .countIn (n + 1) else .down } := by
    simp [writeBeat, State.setClock, beatWritten, showBeat, nextKind, nextTime_beats hm, hp]
  rw [commitAs_beats t bar beat (.countIn n) hg hm, hk]
  simp

/-- The period field of a beat that a pulse commits (R13). -/
def pulsePeriod (c : BeatClock) (t : Nat) : Option Nat := c.spacing.map fun p => min 2000000 (t - p)

/-- A SHOW beat is committed under CONDUCTED, the follower being FREE (R13, R60). -/
theorem commitAs_conducted {g : Governing} {s : State} (t bar beat : Nat) (hg : s.clock.gov = some g)
    (hm : g.record.mode = .conducted) (hf : s.follower.st = .free) :
    commitAs t bar beat .inShow s
      = ({ s with
          clock := showWritten s.clock s.follower t bar beat (pulsePeriod s.clock t)
            (showNext none g.record.meter bar beat)
          video := flashed s.now s.clock.lead t true (beatContent s.clock bar beat .inShow (pulsePeriod s.clock t)) s.video },
        { beat := some { showBeat g s.clock s.now t bar beat with period := pulsePeriod s.clock t }, held := none
          countInEnd := s.clock.st == .countingIn }) := by
  have hb : beatRecord g s.clock s.now t bar beat .inShow
      = { showBeat g s.clock s.now t bar beat with period := pulsePeriod s.clock t } := by
    simp only [beatRecord, periodField, hm, pulsePeriod]
    rw [showBeat, hm]
    rfl
  have hnext : nextTime g s.clock.period t = none := by simp only [nextTime, hm]
  have hk : (writeBeat g { showBeat g s.clock s.now t bar beat with period := pulsePeriod s.clock t } s).clock
      = showWritten s.clock s.follower t bar beat (pulsePeriod s.clock t) (showNext none g.record.meter bar beat) := by
    simp [writeBeat, State.setClock, showWritten, beatWritten, showBeat, showNext, nextKind, hnext]
    rfl
  generalize hr : ({ showBeat g s.clock s.now t bar beat with period := pulsePeriod s.clock t } : BeatRec) = r at hb hk ⊢
  have hrm : r.mode = .conducted := by rw [← hr]; exact hm
  have hct : (r.mode == TempoMode.conducted) = true := by simpa using hrm
  have hwf : windowAccount t (writeBeat g r s) = writeBeat g r s := windowAccount_free _ hf
  unfold commitAs
  simp only [hg, hb]
  rw [hwf, clickCommit_conducted _ hrm]
  simp only [videoCommit, State.setVideo, hct, hk]
  rw [← hr]
  simp only [beq_self_eq_true, Bool.and_true]
  rw [← hk, ← hr]
  rfl

/-! ## Reaching a commit -/

/-- A beat comes due. -/
theorem exec_beatCommit {s : State} {t : Nat} {kind : BeatKind} (hp : s.powered = true) (hb : s.clock.st.beats = true)
    (hn : s.clock.next = some { time := some t, kind := kind }) :
    exec .beatCommit s = .next (afterCommit (reachBeat t (s.goTo (t - s.clock.lead)))) := by
  have hd : commitDue s = some (t - s.clock.lead) := by simp [commitDue, hb, hn]
  refine (selfTimed_due (f := fun s => afterCommit (commitScheduled s)) hp hd).trans ?_
  have : commitScheduled (s.goTo (t - s.clock.lead)) = reachBeat t (s.goTo (t - s.clock.lead)) := by
    simp [commitScheduled, hn]
  rw [this]

theorem rampStep_none {s : State} (b : Bool) (h : s.clock.ramp = none) : rampStep b s = s := by
  simp only [rampStep, h]

theorem reachBeat_beat {s : State} {t bar beat : Nat} {time : Option Nat}
    (hn : s.clock.next = some { time := time, kind := .beat bar beat }) :
    reachBeat t s = commitAs t bar beat .inShow (rampStep false s) := by
  simp only [reachBeat, hn]

theorem reachBeat_countIn {s : State} {t k : Nat} {time : Option Nat} {g : Governing} {st : StartRun}
    (hn : s.clock.next = some { time := time, kind := .countIn k }) (hg : s.clock.gov = some g)
    (hs : s.clock.start = some st) :
    reachBeat t s = commitAs t st.bar ((k - 1) % g.record.meter + 1) (.countIn k) s := by
  simp only [reachBeat, hn, hg, hs]
  rfl

theorem reachBeat_down {s : State} {t : Nat} {time : Option Nat}
    (hn : s.clock.next = some { time := time, kind := .down }) : reachBeat t s = reachDown t s := by
  simp only [reachBeat, hn]

theorem reachDown_commits {s : State} (t : Nat) (ha : s.clock.holdArmed = false)
    (hr : ∀ r, s.clock.pendingRec = some r → r.mode ≠ .tacet) : reachDown t s = commitDown t s := by
  have : (s.clock.pendingRec.map (·.mode)) ≠ some .tacet := by
    cases h : s.clock.pendingRec with
    | none => simp
    | some r => simpa using hr r h
  rw [reachDown, if_neg (by simp [ha]), if_neg this]

theorem reachDown_tacet {s : State} {r : TempoRecord} (t : Nat) (ha : s.clock.holdArmed = false)
    (hr : s.clock.pendingRec = some r) (hm : r.mode = .tacet) : reachDown t s = tacetStop s := by
  rw [reachDown, if_neg (by simp [ha]), if_pos (by simp [hr, hm])]

theorem reachDown_armed {s : State} (t : Nat) (ha : s.clock.holdArmed = true) : reachDown t s = freezeAtDownbeat s := by
  rw [reachDown, if_pos ha]

/-- A downbeat with no record pending and no ramp (R6, R21). -/
theorem commitDown_unramped {s : State} {g : Governing} (t : Nat) (hg : s.clock.gov = some g)
    (hp : s.clock.pendingRec = none) (hr : s.clock.ramp = none) (hs : ∀ st, s.clock.start = some st → st.ramp = false) :
    commitDown t s = commitAs t (decideBar s.clock).1 1 .inShow
      { s with clock := { s.clock with barSet := none, vamp := (decideBar s.clock).2 } } := by
  have hramp : ((s.clock.start.map (·.ramp)).getD false) = false := by
    cases h : s.clock.start with
    | none => rfl
    | some st => exact hs st h
  have hd : commitDown t s = commitAs t (decideBar s.clock).1 1 .inShow
      (rampStep false (s.setClock fun c => { c with barSet := none, vamp := (decideBar s.clock).2 })) := by
    simp only [commitDown, hp, hg, hramp, Bool.false_eq_true, if_false]
    rfl
  rw [hd, rampStep_none _ (by exact hr)]
  rfl

/-! ## Behind a commit: the end of a count-in, and the AT_BAR test -/

/-- What an AT_BAR test comes to on a clock that is not IDLE: nothing, or a fire. -/
theorem takeBeat_cases (r : BeatRec) {s : State} (hc : s.clock.st ≠ .idle) :
    takeBeat r s = s ∨ ∃ c, Fires c .atBar s (takeBeat r s) := by
  unfold takeBeat
  cases h : atBarCue r s with
  | none => exact .inl rfl
  | some c =>
    have hf : s.stop.st.fires = true := by
      unfold atBarCue at h
      split at h
      next hb => exact hb.2
      · cases h
    have hr : s.stop.st.rebuilds = false := by
      cases hst : s.stop.st <;> simp [hst, StopSt.fires] at hf <;> rfl
    exact .inr ⟨c, (fireCue_running c .atBar s hc hr).2⟩

/-- The clock as a fire finds it and leaves it running: only the cue, the bar set, the pending record and the vamp move. -/
def BeatKept (k l : BeatClock) : Prop :=
  { l with position := { l.position with cue := k.position.cue }, barSet := k.barSet, pendingRec := k.pendingRec
           vamp := k.vamp } = k

theorem fires_beatKept {c : Cue} {src : FireSource} {s u : State} (h : Fires c src s u) : BeatKept s.clock u.clock := by
  rw [h.2.1]
  rfl

/-- A beat that has been tested for AT_BAR stands as it was committed. -/
theorem takeBeat_kept (r : BeatRec) {s : State} (hc : s.clock.st ≠ .idle) :
    BeatKept s.clock (takeBeat r s).clock ∧ (takeBeat r s).follower = s.follower := by
  rcases takeBeat_cases r hc with h | ⟨c, h⟩
  · rw [h]; exact ⟨rfl, rfl⟩
  · exact ⟨fires_beatKept h, h.2.2.1⟩

theorem takeBeat_fires {r : BeatRec} {s : State} {n : CueNo} {c : Cue} (hp : r.phase = .inShow)
    (hf : s.stop.st.fires = true) (hn : nextCue s = some n) (hc : findCue s.store.cues n = some c)
    (ht : c.trigger = .atBar r.bar r.beat) : takeBeat r s = (fireCue c .atBar s).1 := by
  have e : atBarCue r s = some c := by simp [atBarCue, hp, hf, hn, hc, ht]
  simp only [takeBeat, e]

theorem takeBeat_waits {r : BeatRec} {s : State} (h : s.stop.st.fires = false) : takeBeat r s = s := by
  simp [takeBeat, atBarCue, h]

theorem takeBeat_countIn {r : BeatRec} {s : State} (h : r.phase ≠ .inShow) : takeBeat r s = s := by
  simp [takeBeat, atBarCue, h]

theorem takeBeat_noAtBar {r : BeatRec} {s : State} (h : NoAtBar r.bar r.beat s) : takeBeat r s = s :=
  takeBeat_none fun n c hn hc => h n hn c hc

theorem afterCommit_beat (u : State) (r : BeatRec) :
    afterCommit (u, { beat := some r, held := none, countInEnd := false }) = takeBeat r u := rfl

theorem afterCommit_ends (u : State) (r : BeatRec) :
    afterCommit (u, { beat := some r, held := none, countInEnd := true }) = takeBeat r (countInEnds u) := rfl

theorem countInEnds_run {s : State} (h : s.stop.st = .run) : countInEnds s = s := by
  simp only [countInEnds, h]

theorem countInEnds_countIn {s : State} {k : CountInKind} (h : s.stop.st = .countIn k) : countInEnds s = enterRun s := by
  simp only [countInEnds, h]

theorem enterRun_undeferred {s : State} (h : ∀ n, s.seq.timer ≠ .deferred n) : enterRun s = withStop .run s :=
  (enterRun_spec s).1 h

end Sys2Proof.Proofs

namespace Sys2Proof.Proofs

open Sys2Proof Sys2Proof.Machine

/-- A SHOW beat that is no downbeat is committed at its time, and tested for AT_BAR (R4, R5, R98). -/
theorem exec_beatCommit_show {s : State} {g : Governing} {t bar beat p : Nat} (hp : s.powered = true)
    (hst : s.clock.st = .running) (hg : s.clock.gov = some g) (hm : g.record.mode ≠ .conducted)
    (hr : s.clock.ramp = none) (hper : s.clock.period = some p)
    (hn : s.clock.next = some { time := some t, kind := .beat bar beat }) :
    exec .beatCommit s = .next (takeBeat (showBeat g s.clock (max s.now (t - s.clock.lead)) t bar beat)
      (beatCommitted (showWritten s.clock s.follower t bar beat (some p) (showNext (some (t + p)) g.record.meter bar beat))
        (showBeat g s.clock (max s.now (t - s.clock.lead)) t bar beat) (s.goTo (t - s.clock.lead)))) := by
  have hc : (s.clock.st == ClockSt.countingIn) = false := by rw [hst]; rfl
  have q : reachBeat t (s.goTo (t - s.clock.lead))
      = (beatCommitted (showWritten s.clock s.follower t bar beat (some p) (showNext (some (t + p)) g.record.meter bar beat))
          (showBeat g s.clock (max s.now (t - s.clock.lead)) t bar beat) (s.goTo (t - s.clock.lead)),
        { beat := some (showBeat g s.clock (max s.now (t - s.clock.lead)) t bar beat), held := none, countInEnd := false }) := by
    rw [reachBeat_beat (s := s.goTo (t - s.clock.lead)) hn, rampStep_none (s := s.goTo (t - s.clock.lead)) false hr,
      commitAs_show (s := s.goTo (t - s.clock.lead)) t bar beat hg hm hper, ← hc]
    rfl
  rw [exec_beatCommit hp (by rw [hst]; rfl) hn, q, afterCommit_beat]

theorem beatCommitted_free {k : BeatClock} {r : BeatRec} {s : State} (h : s.follower.st = .free) :
    beatCommitted k r s = { s with
      clock := k
      channels := s.channels.map (scheduleChannel r s.clock.lead)
      video := flashed s.now s.clock.lead r.time false (beatContent s.clock r.bar r.beat r.phase s.clock.period) s.video } := by
  rw [beatCommitted, windowsTaken_free _ h, windowsTakenAttention_free _ _ h]

/-- The follower of a committed beat, by its state and its last window (R34, R44). -/
theorem windowsTaken_follower {f : Follower} (t now : Nat) (a : List Condition) :
    (f.st = .free → windowsTaken t f = f ∧ windowsTakenAttention f now a = a)
      ∧ (f.st ≠ .free →
        ((∀ l, f.last = some l → l.isOpen = false) →
          windowsTaken t f = { f with
              last := some { time := t, isOpen := true, matched := f.nextMatched }, nextMatched := false }
            ∧ windowsTakenAttention f now a = a)
        ∧ ∀ l, f.last = some l → l.isOpen = true →
          windowsTaken t f = { windowClosed l f with
              last := some { time := t, isOpen := true, matched := f.nextMatched }, nextMatched := false }
            ∧ windowsTakenAttention f now a = closedAttention l f now a) := by
  refine ⟨fun h => ⟨windowsTaken_free t h, windowsTakenAttention_free now a h⟩, fun h => ⟨fun hc => ?_, fun l hl ho => ?_⟩⟩
  · rw [windowsTaken, windowsTakenAttention, if_neg h, if_neg h, lastClosed_of_closed hc, lastClosedAttention_of_closed now a hc]
    exact ⟨rfl, rfl⟩
  · rw [windowsTaken, windowsTakenAttention, if_neg h, if_neg h]
    simp [lastClosed, lastClosedAttention, hl, ho]

/-- The end of a count-in that no deferred timer awaits, in RUN or COUNT_IN (R169, R170). -/
theorem countInEnds_undeferred {s : State} (h : s.stop.st = .run ∨ ∃ c, s.stop.st = .countIn c)
    (ht : ∀ n, s.seq.timer ≠ .deferred n) : countInEnds s = { s with
      stop := { s.stop with st := .run }
      video := { s.video with content := { s.video.content with
        stopState := if s.stop.st = .run then s.video.content.stopState else .run } } } := by
  rcases h with h | ⟨c, h⟩
  · have e : { s.stop with st := .run } = s.stop := by rw [← h]
    rw [countInEnds_run h, e, if_pos h]
  · rw [countInEnds_countIn h, enterRun_undeferred ht, if_neg (by simp [h])]
    rfl

/-- The bar of a start with nothing pending: its own, and no vamp. -/
theorem decideBar_start {c : BeatClock} {st : StartRun} (hb : c.barSet = none) (hv : c.vamp = none)
    (hs : c.start = some st) : decideBar c = (st.bar, none) := by
  simp [decideBar, hb, hs, hv, dropAbove]

theorem exec_beatCommit_down {s : State} {t : Nat} (hp : s.powered = true) (hb : s.clock.st.beats = true)
    (hn : s.clock.next = some { time := some t, kind := .down }) :
    exec .beatCommit s = .next (afterCommit (reachDown t (s.goTo (t - s.clock.lead)))) := by
  rw [exec_beatCommit hp hb hn, reachBeat_down (s := s.goTo (t - s.clock.lead)) hn]

/-- A SHOW downbeat without a pending record, a ramp or an armed hold, under FIXED or FOLLOW. -/
theorem reachDown_unramped {s : State} {g : Governing} {t p : Nat} (hg : s.clock.gov = some g)
    (hm : g.record.mode ≠ .conducted) (hper : s.clock.period = some p) (hpn : s.clock.pendingRec = none)
    (ha : s.clock.holdArmed = false) (hr : s.clock.ramp = none) (hs : ∀ st, s.clock.start = some st → st.ramp = false) :
    reachDown t s
      = (beatCommitted
          (showWritten { s.clock with barSet := none, vamp := (decideBar s.clock).2 } s.follower t (decideBar s.clock).1 1
            (some p) (showNext (some (t + p)) g.record.meter (decideBar s.clock).1 1))
          (showBeat g { s.clock with vamp := (decideBar s.clock).2 } s.now t (decideBar s.clock).1 1)
          { s with clock := { s.clock with barSet := none, vamp := (decideBar s.clock).2 } },
        { beat := some (showBeat g { s.clock with vamp := (decideBar s.clock).2 } s.now t (decideBar s.clock).1 1)
          held := none, countInEnd := s.clock.st == .countingIn }) := by
  rw [reachDown_commits t ha (by simp [hpn]), commitDown_unramped t hg hpn hr hs]
  exact commitAs_show (s := { s with clock := { s.clock with barSet := none, vamp := (decideBar s.clock).2 } }) t _ 1 hg hm hper

/-- The first SHOW downbeat of a count-in with nothing pending at it (R18, R19). -/
theorem reachDown_starts {s : State} {g : Governing} {t p : Nat} {st : StartRun} (hst : s.clock.st = .countingIn)
    (hg : s.clock.gov = some g) (hm : g.record.mode ≠ .conducted) (hper : s.clock.period = some p)
    (hs : s.clock.start = some st) (hramp : st.ramp = false) (hr : s.clock.ramp = none) (ha : s.clock.holdArmed = false)
    (hpn : s.clock.pendingRec = none) (hb : s.clock.barSet = none) (hv : s.clock.vamp = none) :
    reachDown t s
      = (beatCommitted (showWritten s.clock s.follower t st.bar 1 (some p) (showNext (some (t + p)) g.record.meter st.bar 1))
          (showBeat g s.clock s.now t st.bar 1) s,
        { beat := some (showBeat g s.clock s.now t st.bar 1), held := none, countInEnd := true }) := by
  have hc : (s.clock.st == ClockSt.countingIn) = true := by rw [hst]; rfl
  have hd : ∀ x, s.clock.start = some x → x.ramp = false := fun x hx => by
    rw [← hramp]; exact congrArg StartRun.ramp (Option.some.inj (hx.symm.trans hs))
  have hk : { s.clock with barSet := none, vamp := none } = s.clock := by rw [← hb, ← hv]
  have hkv : { s.clock with vamp := none } = s.clock := by rw [← hv]
  rw [reachDown_unramped hg hm hper hpn ha hr hd, decideBar_start hb hv hs, hk, hkv, hc]

/-- The clock without a governing record (R12, R19). -/
def clockIdled (c : BeatClock) : BeatClock :=
  { c with st := .idle, gov := none, ramp := none, next := none, period := none, start := none }

/-- Going IDLE changes the clock, the follower and its condition. -/
theorem clockIdle_eq (s : State) : ∃ f a, FollowerFreed s { s with follower := f, attention := a }
    ∧ clockIdle s = { s with clock := clockIdled s.clock, follower := f, attention := a } := by
  obtain ⟨hc, hf, -, hk⟩ := clockIdle_spec s
  generalize clockIdle s = m at *
  have e : m = { s with clock := m.clock, follower := m.follower, attention := m.attention } :=
    congrArg (fun u : State => { u with clock := m.clock, follower := m.follower, attention := m.attention }) hk
  refine ⟨m.follower, m.attention, hf, e.trans ?_⟩
  rw [hc]
  rfl

/-- A TACET record at a downbeat leaves the clock IDLE, and ends a count-in. -/
theorem afterCommit_tacetStop {s : State} (hst : s.clock.st = .countingIn) : ∃ f a,
    afterCommit (tacetStop s) = countInEnds { s with
      clock := { clockIdled s.clock with pendingRec := none }, follower := f, attention := a } := by
  have hc : (s.clock.st == ClockSt.countingIn) = true := by rw [hst]; rfl
  obtain ⟨f, a, -, e⟩ := clockIdle_eq (s.setClock fun c => { c with pendingRec := none })
  refine ⟨f, a, ?_⟩
  simp only [tacetStop, hc, afterCommit, e]
  rfl

/-- Settles O29: the commit of a beat, of a count-in beat and of the first SHOW downbeat, each written out. -/
theorem beatCommits : Obligations.BeatCommits := by
  refine ⟨fun s g t bar beat p hp hst hg hr hper hn hat hm => ?_, fun s g t p k st hp hst hg hm hper hs hn hf => ?_,
    fun s g t p st hp hst hg hm hper hs hr ha hf hstop htimer hn => ⟨fun hpn hb hv hramp hat => ?_, fun r hpr hmr => ?_⟩⟩
  · have hm' : g.record.mode ≠ .conducted := by rcases hm with h | h <;> rw [h.1] <;> decide
    have h := exec_beatCommit_show hp hst hg hm' hr hper hn
    rw [takeBeat_noAtBar (by exact hat)] at h
    obtain ⟨w₁, w₂⟩ := windowsTaken_follower (f := s.follower) t (max s.now (t - s.clock.lead)) s.attention
    refine ⟨_, h, rfl, rfl, rfl, ?_, rfl, w₁, w₂⟩
    rw [← hper]
    rfl
  · have hb : s.clock.st.beats = true := by rw [hst]; rfl
    have hm' : g.record.mode ≠ .conducted := by rw [hm]; decide
    have h := exec_beatCommit hp hb hn
    rw [reachBeat_countIn (s := s.goTo (t - s.clock.lead)) hn hg hs,
      commitAs_countIn (s := s.goTo (t - s.clock.lead)) t _ _ k hg hm' hper, afterCommit_beat,
      takeBeat_countIn (by intro h; cases h), beatCommitted_free (s := s.goTo (t - s.clock.lead)) hf] at h
    refine ⟨_, h, rfl, ?_, rfl, ?_, rfl⟩
    · simp only [State.goTo_clock, hs]; rfl
    · rw [← hper]; rfl
  · have hb' : s.clock.st.beats = true := by rw [hst]; rfl
    have hm' : g.record.mode ≠ .conducted := by rw [hm]; decide
    have h := exec_beatCommit_down hp hb' hn
    rw [reachDown_starts (s := s.goTo (t - s.clock.lead)) hst hg hm' hper hs hramp hr ha hpn hb hv,
      beatCommitted_free (s := s.goTo (t - s.clock.lead)) hf, afterCommit_ends,
      countInEnds_undeferred (by exact hstop) (by exact htimer), takeBeat_noAtBar (by exact hat)] at h
    refine ⟨_, h, rfl, rfl, rfl, ⟨_, ?_, rfl⟩, rfl, rfl⟩
    rw [FlashPending, ← hper]
    simp only [flashed, beatContent, showBeat, State.goTo_clock, hv]
    rfl
  · have hb' : s.clock.st.beats = true := by rw [hst]; rfl
    have h := exec_beatCommit_down hp hb' hn
    obtain ⟨f, a, e⟩ := afterCommit_tacetStop (s := s.goTo (t - s.clock.lead)) hst
    rw [reachDown_tacet (s := s.goTo (t - s.clock.lead)) t ha hpr hmr, e,
      countInEnds_undeferred (by exact hstop) (by exact htimer)] at h
    exact ⟨_, h, rfl, rfl, rfl, rfl, rfl, rfl, rfl, rfl, rfl⟩

/-! ## The bar of a downbeat -/

/-- What stays of a beat that has been committed, whether an AT_BAR cue fires at it or not. -/
theorem beatKept_parts {k l : BeatClock} (h : BeatKept k l) : l.st = k.st ∧ l.spacing = k.spacing
    ∧ l.position.bar = k.position.bar ∧ l.position.beat = k.position.beat ∧ l.position.pass = k.position.pass
    ∧ l.position.time = k.position.time ∧ l.position.phase = k.position.phase ∧ l.lastShowBar = k.lastShowBar
    ∧ l.next = k.next ∧ l.gov = k.gov ∧ l.period = k.period ∧ l.ramp = k.ramp := by
  have p : ∀ {α : Type} (f : BeatClock → α), _ := fun f => congrArg f h
  exact ⟨p (·.st), p (·.spacing), p (·.position.bar), p (·.position.beat), p (·.position.pass), p (·.position.time),
    p (·.position.phase), p (·.lastShowBar), p (·.next), p (·.gov), p (·.period), p (·.ramp)⟩

theorem committed_kept {x : Host.Outcome State Fault Refusal} {r r' : BeatRec} {k : BeatClock} {s : State}
    (h : x = .next (takeBeat r' (beatCommitted k r s))) (hk : k.st ≠ .idle) :
    ∃ u, x = .next u ∧ BeatKept k u.clock ∧ u.follower = windowsTaken r.time s.follower :=
  have kept := takeBeat_kept r' (s := beatCommitted k r s) hk
  ⟨_, h, kept.1, kept.2⟩

theorem decideBar_barSet {c : BeatClock} {b : Nat} (h : c.barSet = some b) : (decideBar c).1 = b := by
  simp [decideBar, h]

theorem decideBar_counts {c : BeatClock} {last : Nat} (hb : c.barSet = none) (hs : c.start = none) (hv : c.vamp = none)
    (hl : c.lastShowBar = some last) : decideBar c = (min 9999 (last + 1), none) := by
  simp [decideBar, hb, hs, hv, hl, nextBar, Config.maxBar]

/-- An armed vamp at the downbeat behind its last bar: one more pass, or its release (R21). -/
theorem decideBar_vampEnds {c : BeatClock} {v : Vamp} (hb : c.barSet = none) (hs : c.start = none) (hv : c.vamp = some v)
    (hl : c.lastShowBar = some v.last) : decideBar c
      = if v.release then (min 9999 (v.last + 1), none) else (v.first, some { v with loops := min 255 (v.loops + 1) }) := by
  simp [decideBar, hb, hs, hv, hl, nextBar, Config.maxBar, satInc, Config.maxCount8]

/-- An armed vamp at a downbeat below its last bar. -/
theorem decideBar_vampGoes {c : BeatClock} {v : Vamp} {last : Nat} (hb : c.barSet = none) (hs : c.start = none)
    (hv : c.vamp = some v) (hl : c.lastShowBar = some last) (h : last < v.last) :
    decideBar c = (min 9999 (last + 1), some v) := by
  have hne : ¬ last = v.last := by omega
  have hle : min 9999 (last + 1) ≤ v.last := by omega
  simp only [decideBar, hb, hs, hv, hl, Option.getD_some, Option.some.injEq, if_neg hne, nextBar, Config.maxBar, dropAbove,
    Option.filter, hle, decide_true, if_true]

/-- Settles O31: the downbeat is committed at the bar that is decided, and an AT_BAR fire behind it moves none of this. -/
theorem downbeatTakesItsBar : Obligations.DownbeatTakesItsBar := by
  intro s g t last p hp hst hg hm hr hper hpn ha hs hl hn hf
  have h := exec_beatCommit_down hp (by rw [hst]; rfl) hn
  have hc : (s.clock.st == ClockSt.countingIn) = false := by rw [hst]; rfl
  rw [reachDown_unramped (s := s.goTo (t - s.clock.lead)) (t := t) hg (by rw [hm]; decide) hper hpn ha hr (by simp [hs])] at h
  simp only [State.goTo_clock, hc] at h
  rw [afterCommit_beat] at h
  obtain ⟨u, h, hk, -⟩ := committed_kept h (fun h => nomatch h)
  obtain ⟨kst, ksp, kbar, kbeat, kpass, ktime, kphase, klast, knext, -⟩ := beatKept_parts hk
  refine ⟨_, h, kst, ksp, kbeat, ktime, kphase, klast.trans kbar.symm, by rw [knext]; rfl, fun b hb => ?_,
    fun hb hv => ?_, fun v hb hv hlast hrel => ?_, fun v hb hv hlast hrel => ?_, fun v hb hv hlt => ?_⟩
  · rw [kbar]; exact congrArg some (decideBar_barSet hb)
  · rw [kbar, kpass, decideBar_counts hb hs hv hl]; exact ⟨rfl, rfl⟩
  · rw [kbar, kpass, decideBar_vampEnds hb hs hv (hlast ▸ hl), hrel]; exact ⟨rfl, rfl⟩
  · rw [kbar, kpass, decideBar_vampEnds hb hs hv (hlast ▸ hl), hrel, hlast]; exact ⟨rfl, rfl⟩
  · rw [kbar, kpass, decideBar_vampGoes hb hs hv hl hlt]; exact ⟨rfl, rfl⟩

end Sys2Proof.Proofs

namespace Sys2Proof.Proofs

open Sys2Proof Sys2Proof.Machine

/-! ## Pulses that commit -/

theorem tooClose_not {s : State} {t : Nat} (h : ∀ c, s.clock.spacing = some c → c + 100000 ≤ t) : tooClose t s = false := by
  cases hs : s.clock.spacing with
  | none => simp [tooClose, hs]
  | some c =>
    have := h c hs
    simp only [tooClose, hs, decide_eq_false_iff_not]
    exact Nat.not_lt.mpr this

/-- The follower behind a pulse that commits under CONDUCTED (R47). -/
def conductedFollower (f : Follower) : Follower :=
  { f with accepted := min 65535 (f.accepted + 1), lastError := 0 }

/-- The record of a SHOW beat that a pulse commits at `t` (R5, R13). -/
def pulsedBeat (g : Governing) (c : BeatClock) (t bar beat : Nat) : BeatRec :=
  { showBeat g c t t bar beat with period := pulsePeriod c t }

/-- The state with a SHOW beat that a pulse has committed at the present (R13, R60). -/
def conductedCommitted (g : Governing) (bar beat : Nat) (s : State) : State :=
  { s with
    clock := showWritten s.clock s.follower s.now bar beat (pulsePeriod s.clock s.now)
      (showNext none g.record.meter bar beat)
    follower := conductedFollower s.follower
    video := flashed s.now s.clock.lead s.now true
      (beatContent s.clock bar beat .inShow (pulsePeriod s.clock s.now)) s.video }

/-- A pulse commits beat u under a CONDUCTED record, and the beat is tested for AT_BAR (R13, R47, R98). -/
theorem exec_beatPulse_conducted {s : State} {g : Governing} {t quiet bar beat : Nat} (hp : s.powered = true)
    (h₁ : 2000 ≤ quiet) (h₂ : 2000 ≤ max s.now t) (hst : s.clock.st = .running) (hg : s.clock.gov = some g)
    (hm : g.record.mode = .conducted) (hr : s.clock.ramp = none) (hf : s.follower.st = .free)
    (hn : s.clock.next = some { time := none, kind := .beat bar beat })
    (hs : ∀ c, s.clock.spacing = some c → c + 100000 ≤ max s.now t) :
    exec (.beatPulse t quiet) s = .next (takeBeat (pulsedBeat g s.clock (max s.now t) bar beat)
      (conductedCommitted g bar beat (s.goTo t))) := by
  have hc : (s.clock.st == ClockSt.countingIn) = false := by rw [hst]; rfl
  have hclose : tooClose (s.goTo t).now (s.goTo t) = false := tooClose_not hs
  have e : reachBeat (max s.now t) (acceptConducted (s.goTo t)) = (conductedCommitted g bar beat (s.goTo t), {
      beat := some (pulsedBeat g s.clock (max s.now t) bar beat)
      held := none, countInEnd := false }) := by
    rw [reachBeat_beat (s := acceptConducted (s.goTo t)) hn, rampStep_none (s := acceptConducted (s.goTo t)) false hr,
      commitAs_conducted (s := acceptConducted (s.goTo t)) _ bar beat hg hm hf, ← hc]
    rfl
  rw [exec_beatPulse hp h₁ h₂, takePulse_conducted (s := s.goTo t) (by rw [State.goTo_clock, hst]; rfl) hg hm, hclose]
  exact congrArg (fun r => Host.Outcome.next (afterCommit r)) e

/-- Settles O35: the pulse is not too close, it commits the beat, and no AT_BAR cue waits for that. -/
theorem conductedPulseCommits : Obligations.ConductedPulseCommits := by
  intro s g t quiet bar beat hp h₁ h₂ hst hg hm hr hf hn hs hat
  have h := exec_beatPulse_conducted hp h₁ h₂ hst hg hm hr hf hn hs
  rw [takeBeat_noAtBar (by exact fun n hn c hc => hat n c hn hc)] at h
  refine ⟨_, h, ?_, rfl, rfl, rfl, rfl⟩
  simp only [conductedCommitted, showWritten, beatWritten, hst]
  rfl

/-! ## Pending records, TACET and armed holds at a downbeat -/

/-- Entering FREE changes the follower and its condition. -/
theorem enterFree_eq (s : State) : ∃ f a, FollowerFreed s { s with follower := f, attention := a }
    ∧ enterFree s = { s with follower := f, attention := a } := by
  obtain ⟨hf, hk, -⟩ := enterFree_spec s
  generalize enterFree s = m at *
  exact ⟨m.follower, m.attention, hf,
    congrArg (fun u : State => { u with follower := m.follower, attention := m.attention }) hk⟩

/-- The ramp of a record that takes effect under FIXED or FOLLOW (R15). -/
def rampRun (r : TempoRecord) : Option RampRun :=
  r.ramp.map fun ramp =>
    { start := markedPeriod r.bpm10, target := markedPeriod ramp.target, beats := ramp.bars * r.meter, done := 0 }

theorem startRamp_fixed {r : TempoRecord} {s : State} (hm : r.mode = .fixed) (hr : s.clock.ramp = none) :
    startRamp r s = { s with clock := { s.clock with ramp := rampRun r } } := by
  cases h : r.ramp with
  | none => simp only [startRamp, hm, h, rampRun, Option.map_none, ← hr]
  | some ramp => simp only [startRamp, hm, h, rampRun, Option.map_some]; rfl

/-- The clock as a pending FIXED record leaves it at its downbeat, ahead of the ramp step (R11). -/
def fixedTaken (r : TempoRecord) (c : BeatClock) : BeatClock :=
  { c with gov := some (freshGoverning r), pendingRec := none, ramp := rampRun r, period := some (markedPeriod r.bpm10) }

theorem recordPeriod_fixed {r : TempoRecord} (hm : r.mode = .fixed) : recordPeriod r = markedPeriod r.bpm10 := by
  simp [recordPeriod, hm]

theorem takeRecord_fixed {r : TempoRecord} (s : State) (hm : r.mode = .fixed) : ∃ f a, f.st = .free
    ∧ takeRecord r s = { s with clock := fixedTaken r s.clock, follower := f, attention := a } := by
  obtain ⟨f, a, hf, e⟩ := enterFree_eq { s with clock := { fixedTaken r s.clock with ramp := none } }
  refine ⟨f, a, congrArg Follower.st hf.1, ?_⟩
  have ht : takeRecord r s = startRamp r (enterFree { s with clock := { fixedTaken r s.clock with ramp := none } }) := by
    simp only [takeRecord, tellRecord, hm, fixedTaken, freshGoverning, recordPeriod_fixed hm]
    rfl
  rw [ht, e]
  exact startRamp_fixed hm rfl

theorem commitDown_fixed {r : TempoRecord} {s : State} (t : Nat) (hp : s.clock.pendingRec = some r) (hm : r.mode = .fixed) :
    ∃ f a, f.st = .free ∧ commitDown t s = commitAs t (decideBar s.clock).1 1 .inShow (rampStep true { s with
      clock := { fixedTaken r s.clock with barSet := none, vamp := (decideBar s.clock).2 }, follower := f, attention := a }) := by
  obtain ⟨f, a, hf, e⟩ := takeRecord_fixed s hm
  refine ⟨f, a, hf, ?_⟩
  simp only [commitDown, hp, e]
  rfl

/-- The ramp step of the downbeat where a FIXED record's ramp starts (R15). -/
theorem rampStep_starts {s : State} {run : RampRun} {g : Governing} (hr : s.clock.ramp = some run) (hg : s.clock.gov = some g)
    (hm : g.record.mode = .fixed) (hd : run.done = 0) (hb : 0 < run.beats) :
    rampStep true s = { s with clock := { s.clock with period := some (rampPeriod run 1) } } := by
  have hrun : { run with done := 0 } = run := by rw [← hd]
  have hk : { s.clock with ramp := some run } = s.clock := by rw [← hr]
  simp only [rampStep, hr, hg, if_true, if_pos hb, takeRampPeriod, hm, State.setClock, hrun, hk]

/-- A pending FIXED record takes effect at its downbeat, which is committed (R11, R15): the period is its marked one, or P_1. -/
theorem exec_beatCommit_fixed {s : State} {r : TempoRecord} {t p : Nat} (hp : s.powered = true) (hst : s.clock.st = .running)
    (hpr : s.clock.pendingRec = some r) (hm : r.mode = .fixed) (ha : s.clock.holdArmed = false)
    (hn : s.clock.next = some { time := some t, kind := .down })
    (hq : rampRun r = none ∧ p = markedPeriod r.bpm10 ∨ ∃ run, rampRun r = some run ∧ 0 < run.beats ∧ p = rampPeriod run 1) :
    ∃ u b, exec .beatCommit s = .next u ∧ u.follower.st = .free ∧ BeatKept (showWritten
      { fixedTaken r s.clock with barSet := none, vamp := (decideBar s.clock).2, period := some p } u.follower t b 1 (some p)
        (showNext (some (t + p)) r.meter b 1)) u.clock := by
  obtain ⟨f, a, hf, e⟩ := commitDown_fixed (s := s.goTo (t - s.clock.lead)) t hpr hm
  have hstep : rampStep true { s.goTo (t - s.clock.lead) with
        clock := { fixedTaken r s.clock with barSet := none, vamp := (decideBar s.clock).2 }, follower := f, attention := a }
      = { s.goTo (t - s.clock.lead) with
        clock := { fixedTaken r s.clock with barSet := none, vamp := (decideBar s.clock).2, period := some p }
        follower := f, attention := a } := by
    rcases hq with ⟨hr, rfl⟩ | ⟨run, hr, hb, rfl⟩
    · exact rampStep_none true hr
    · refine rampStep_starts hr rfl hm ?_ hb
      obtain ⟨ramp, -, hrun⟩ := Option.map_eq_some_iff.mp hr
      rw [← hrun]
  have hc : ((s.goTo (t - s.clock.lead)).clock.st == ClockSt.countingIn) = false := by rw [State.goTo_clock, hst]; rfl
  have h := exec_beatCommit_down hp (by rw [hst]; rfl) hn
  rw [reachDown_commits (s := s.goTo (t - s.clock.lead)) t ha (by
      intro x hx
      have : x = r := Option.some.inj (hx.symm.trans hpr)
      rw [this, hm]; decide), e, State.goTo_clock, hstep,
    commitAs_show (g := freshGoverning r) t _ 1 rfl (by rw [show (freshGoverning r).record.mode = r.mode from rfl, hm]; decide) rfl] at h
  have hc' : ((fixedTaken r s.clock).st == ClockSt.countingIn) = false := hc
  simp only [hc', afterCommit_beat] at h
  obtain ⟨u, h, hk, hu⟩ := committed_kept h (fun h => nomatch h)
  rw [windowsTaken_free _ hf] at hu
  exact ⟨u, _, h, by rw [hu]; exact hf, by rw [hu]; exact hk⟩

/-- A TACET record at its downbeat stops the clock (R12). -/
theorem tacetStop_eq (s : State) : ∃ f a, FollowerFreed s { s with follower := f, attention := a }
    ∧ tacetStop s = ({ s with clock := { clockIdled s.clock with pendingRec := none }, follower := f, attention := a },
      { beat := none, held := none, countInEnd := s.clock.st == .countingIn }) := by
  obtain ⟨f, a, hf, e⟩ := clockIdle_eq (s.setClock fun c => { c with pendingRec := none })
  refine ⟨f, a, hf, ?_⟩
  simp only [tacetStop, e]
  rfl

/-- An armed hold freezes the clock at its downbeat (R23). -/
theorem freezeAtDownbeat_unramped {s : State} (hr : s.clock.ramp = none) : freezeAtDownbeat s
    = (followerFreeze { s with clock := { s.clock with
          st := .frozen, next := none, holdArmed := false, start := none, barSet := none, vamp := (decideBar s.clock).2 } },
      { beat := none, held := some { bar := (decideBar s.clock).1, pass := passOf (decideBar s.clock).2 }
        countInEnd := false }) := by
  simp only [freezeAtDownbeat]
  rw [clockFreezes_unramped (by exact hr)]
  rfl

/-- Settles O32: the pending record, FIXED or TACET, and the armed hold at the downbeat. -/
theorem downbeatsThatChangeTheClock : Obligations.DownbeatsThatChangeTheClock := by
  refine ⟨fun s g r t hp hst hg hpr ha hn => ⟨fun hm hr => ?_, fun hm => ?_⟩, fun s t hp hst ha hr hn => ?_⟩
  · obtain ⟨u, b, h, hf, hk⟩ := exec_beatCommit_fixed hp hst hpr hm ha hn (.inl ⟨by rw [rampRun, hr]; rfl, rfl⟩)
    obtain ⟨kst, ksp, kbar, kbeat, -, -, -, -, knext, kgov, kper, kramp⟩ := beatKept_parts hk
    refine ⟨u, h, kst, kgov.trans ?_, kper, kramp.trans (by rw [showWritten, beatWritten, fixedTaken, rampRun, hr]; rfl),
      hf, kbeat, ksp, b, kbar, knext⟩
    simp only [showWritten, beatWritten, fixedTaken, freshGoverning, recordPeriod_fixed hm]
  · obtain ⟨f, a, ⟨hf, -⟩, e⟩ := tacetStop_eq (s.goTo (t - s.clock.lead))
    have hc : (s.clock.st == ClockSt.countingIn) = false := by rw [hst]; rfl
    have h := exec_beatCommit_down hp (by rw [hst]; rfl) hn
    rw [reachDown_tacet (s := s.goTo (t - s.clock.lead)) t ha hpr hm, e, State.goTo_clock, hc] at h
    have q : ∀ {α : Type} (k : Follower → α), _ := fun k => congrArg k hf
    exact ⟨_, h, rfl, q (·.st), q (·.accepted), q (·.settings), rfl⟩
  · have h := exec_beatCommit_down hp (by rw [hst]; rfl) hn
    rw [reachDown_armed (s := s.goTo (t - s.clock.lead)) t ha,
      freezeAtDownbeat_unramped (s := s.goTo (t - s.clock.lead)) hr] at h
    exact ⟨_, h, rfl, rfl, rfl, rfl, rfl⟩

end Sys2Proof.Proofs

namespace Sys2Proof.Proofs

open Sys2Proof Sys2Proof.Machine

/-! ## AT_BAR fires and deferred timers -/

/-- The AT_BAR test of a beat on a clock that is not IDLE: its cue fires, or the beat stands as committed (R98). -/
theorem takeBeat_tests {r : BeatRec} {s : State} {n : CueNo} {c : Cue} (hi : s.clock.st ≠ .idle) (hp : r.phase = .inShow)
    (hn : nextCue s = some n) (hc : findCue s.store.cues n = some c) :
    (s.stop.st.fires = true → c.trigger = .atBar r.bar r.beat → Fires c .atBar s (takeBeat r s))
      ∧ ((s.stop.st.fires = false ∨ c.trigger ≠ .atBar r.bar r.beat) → takeBeat r s = s) := by
  refine ⟨fun hf ht => ?_, fun h => ?_⟩
  · have hr : s.stop.st.rebuilds = false := by
      cases hst : s.stop.st <;> simp [hst, StopSt.fires] at hf <;> rfl
    rw [takeBeat_fires hp hf hn hc ht]
    exact (fireCue_running c .atBar s hi hr).2
  · rcases h with h | h
    · exact takeBeat_waits h
    · refine takeBeat_none fun k d hk hd => ?_
      cases hn.symm.trans hk
      cases hc.symm.trans hd
      exact h

/-- The state that enters RUN, its deferred timer put out. -/
def runEntered (s : State) : State := { withStop .run s with seq := { s.seq with timer := .idle } }

theorem enterRun_fires {s : State} {n : CueNo} {c : Cue} (ht : s.seq.timer = .deferred n) (hc : findCue s.store.cues n = some c)
    (hi : s.clock.st ≠ .idle) : Fires c .follow (runEntered s) (enterRun s) :=
  ((enterRun_spec s).2 n c ht hc).1 hi

/-- Behind the fire of cue `c` the next cue is the one after it. -/
theorem fires_nextCue {c : Cue} {src : FireSource} {s u : State} (h : Fires c src s u) :
    u.store = s.store ∧ nextCue u = afterCurrent s.store.cues (some c.number) := by
  obtain ⟨⟨hseq, -, -, -, -, -, rest⟩, -⟩ := h
  have hs : u.store = s.store := by
    have e := congrArg State.store rest
    exact e
  refine ⟨hs, ?_⟩
  simp [nextCue, hs, hseq]

theorem commitIfDue_conducted {s : State} (h : ∀ x, s.clock.next = some x → x.time = none) :
    commitIfDue s = (s, Committed.nothing) := by
  refine commitIfDue_early fun d hd => ?_
  cases hn : s.clock.next with
  | none => simp [commitDue, hn] at hd
  | some x => simp [commitDue, hn, h x hn] at hd

/-- GO in HELD and DRAINING, under the record that governed, starts the hold count-in (R19, R161). -/
theorem holdStart_governed {s : State} {g : Governing} (bar bars : Nat) (hp : s.clock.pendingRec = none)
    (hg : s.clock.gov = some g) : holdStart bar bars s = commitIfDue (startClock bar bars g false s) := by
  simp only [holdStart, hp, hg]

theorem holdCountIn_none {s : State} {held : HeldPosition} (hh : s.stop.held = some held)
    (hz : s.seq.settings.holdCountIn = 0) : holdCountIn s
      = afterCommit (enterRun (holdStart held.bar 0 s).1, (holdStart held.bar 0 s).2) := by
  simp only [holdCountIn, hz, hh]
  rfl

theorem takeGo_held {s : State} (source : FireSource) (h : s.stop.st = .held ∨ s.stop.st = .holding .draining) :
    takeGo source s = (holdCountIn s, .ok .holdCountIn) := by
  rcases h with h | h <;> simp only [takeGo, h]

/-- Settles O30: the AT_BAR test of a beat, under FIXED and behind a pulse, and the deferred cue on entering RUN. -/
theorem atBarAndDeferredFires : Obligations.AtBarAndDeferredFires := by
  refine ⟨fun s g c n t bar beat p hp hst hg hm hf hr hper hn hnc hc => ?_,
    fun s g c n t quiet bar beat hp h₁ h₂ hst hg hm hr hf hn hs hnc hc hfires hat => ?_,
    fun s g st c n t p hp hst hg hm hper hs hramp hr ha hpn hb hv hf hn hstop ht hc hat => ?_,
    fun s g c n t held hs hst hh hz hpn hg hm ht hc => ?_⟩
  · have h := exec_beatCommit_show hp hst hg (by rw [hm]; decide) hr hper hn
    obtain ⟨fires, waits⟩ := takeBeat_tests (r := showBeat g s.clock (max s.now (t - s.clock.lead)) t bar beat)
      (s := beatCommitted (showWritten s.clock s.follower t bar beat (some p) (showNext (some (t + p)) g.record.meter bar beat))
        (showBeat g s.clock (max s.now (t - s.clock.lead)) t bar beat) (s.goTo (t - s.clock.lead)))
      (fun h => nomatch h) rfl (by exact hnc) (by exact hc)
    have hm := beatCommitted_free
      (k := showWritten s.clock s.follower t bar beat (some p) (showNext (some (t + p)) g.record.meter bar beat))
      (r := showBeat g s.clock (max s.now (t - s.clock.lead)) t bar beat) (s := s.goTo (t - s.clock.lead)) hf
    generalize beatCommitted _ _ _ = m at *
    refine ⟨m, by rw [hm]; rfl, by rw [hm], by rw [hm]; rfl, ?_, by rw [hm]; rfl, fun hs ha => ⟨_, h, fires ?_ ha⟩,
      fun hw => h.trans (congrArg _ (waits ?_))⟩
    · rw [hm, ← hper]
      rfl
    · rw [hm]; exact hs
    · rw [hm]; exact hw
  · have h := exec_beatPulse_conducted hp h₁ h₂ hst hg hm hr hf hn hs
    exact ⟨conductedCommitted g bar beat (s.goTo t), _, h, (takeBeat_tests (r := pulsedBeat g s.clock (max s.now t) bar beat)
      (show ClockSt.running ≠ .idle by decide) rfl (by exact hnc) (by exact hc)).1 hfires hat, rfl, rfl, rfl, rfl, rfl⟩
  · obtain ⟨k, hk⟩ := hstop
    have h := exec_beatCommit_down hp (by rw [hst]; rfl) hn
    rw [reachDown_starts (s := s.goTo (t - s.clock.lead)) hst hg (by rw [hm]; decide) hper hs hramp hr ha hpn hb hv,
      beatCommitted_free (s := s.goTo (t - s.clock.lead)) hf, afterCommit_ends, countInEnds_countIn (k := k) (by exact hk)] at h
    generalize hm' : ({ s.goTo (t - s.clock.lead) with clock := _, channels := _, video := _ } : State) = m at h
    have hf := enterRun_fires (s := m) (n := n) (c := c) (by rw [← hm']; exact ht) (by rw [← hm']; exact hc)
      (by rw [← hm']; exact fun h => nomatch h)
    obtain ⟨hstore, hnext⟩ := fires_nextCue hf
    have hcues : (enterRun m).store.cues = s.store.cues := by rw [hstore, ← hm']; rfl
    rw [takeBeat_noAtBar (by
      intro k hk d hd
      rw [hnext, (findCue_some hc).2, ← hm'] at hk
      rw [hcues] at hd
      exact hat k d hk hd)] at h
    refine ⟨_, _, h, hf, ?_⟩
    rw [← hm']
    exact ⟨rfl, rfl, rfl, rfl, rfl, rfl⟩
  · obtain ⟨m, em, mc, -, -, mr⟩ := startClock_spec held.bar 0 g false (s.goTo t)
    have p : ∀ {α : Type} (f : State → α), _ := fun f => congrArg f mr
    have hseq : m.seq = s.seq := p (·.seq)
    have hcues : m.store = s.store := p (·.store)
    have hf := enterRun_fires (s := m) (n := n) (c := c) (by rw [hseq]; exact ht) (by rw [hcues]; exact hc)
      (by rw [mc]; exact fun h => nomatch h)
    have e : holdCountIn (s.goTo t) = enterRun m := by
      rw [holdCountIn_none (s := s.goTo t) hh hz, holdStart_governed (s := s.goTo t) _ _ hpn hg, em,
        commitIfDue_conducted (by rw [mc]; simp [orderStarted, hm])]
      rfl
    have h : exec (.go t) s = .next ((enterRun m).replied .ok [.num 1 2, .cue none]) := by
      refine exec_answered hs rfl (a := okWith [.num 1 2, .cue none]) ?_
      rw [reqGo, takeGo_held (s := s.goTo t) .hostGo (.inl hst), e]
      rfl
    refine ⟨_, _, h, hf, p (·.now), ?_, ?_, ?_, ?_, ?_, hcues, p (·.stations), p (·.map), p (·.channels)⟩
    · rw [show (runEntered m).clock = m.clock from rfl, mc]; rfl
    · rw [show (runEntered m).clock = m.clock from rfl, mc]; rfl
    · rw [show (runEntered m).clock = m.clock from rfl, mc]; simp [orderStarted]
    · exact congrArg (fun x : StopController => { x with st := .run }) (p (·.stop))
    · exact congrArg (fun x : Sequencer => { x with timer := .idle }) hseq

end Sys2Proof.Proofs

namespace Sys2Proof.Proofs

open Sys2Proof Sys2Proof.Machine

/-! ## One station among writes of all -/

theorem station_setStation_own (s : State) (i : Fin 6) (f : Station → Station) :
    (s.setStation i f).station i = if i.val < s.stations.length then f (s.station i) else s.station i := by
  by_cases hi : i.val < s.stations.length <;>
    simp [State.setStation, State.station, List.getD_eq_getElem?_getD, hi]

/-- Two writes that agree on the station's record are one. -/
theorem setStation_congr {s : State} {i : Fin 6} {f g : Station → Station} (h : f (s.station i) = g (s.station i)) :
    s.setStation i f = s.setStation i g := by
  have e : s.stations.modify i.val f = s.stations.modify i.val g := by
    refine List.ext_getElem? fun k => ?_
    rw [List.getElem?_modify, List.getElem?_modify]
    by_cases hk : i.val = k
    · subst hk
      cases hx : s.stations[i.val]? with
      | none => rfl
      | some x =>
        have : s.station i = x := by simp [State.station, List.getD_eq_getElem?_getD, hx]
        rw [this] at h
        simp [h]
    · simp [hk]
  simp only [State.setStation, e]

theorem setStation_self {s : State} {i : Fin 6} {f : Station → Station} (h : f (s.station i) = s.station i) :
    s.setStation i f = s := by
  have e : s.setStation i id = s := by
    simp only [State.setStation, List.modify_id]
  exact (setStation_congr (g := id) h).trans e

/-- The same write of every station, which leaves a station that is not there as it is. -/
theorem station_eachStation_same {g : Station → Station} (hg : g Station.initial = Station.initial) (i : Fin 6) (s : State) :
    (eachStation (fun i s => s.setStation i g) s).station i = g (s.station i) := by
  have own : ∀ s : State, (s.setStation i g).station i = g (s.station i) := fun s => by
    rw [station_setStation_own]
    split
    · rfl
    · next h => simp [State.station, List.getD_eq_getElem?_getD, List.getElem?_eq_none (Nat.not_lt.mp h), hg]
  have go : ∀ l : List (Fin 6), l.Nodup → ∀ s : State,
      (l.foldl (fun s i => s.setStation i g) s).station i = if i ∈ l then g (s.station i) else s.station i := by
    intro l
    induction l with
    | nil => exact fun _ _ => rfl
    | cons j l ih =>
      intro hn s
      obtain ⟨hj, hl⟩ := List.nodup_cons.mp hn
      rw [List.foldl_cons, ih hl]
      by_cases e : i = j
      · subst e
        simp [hj, own]
      · simp [e, station_setStation_other s g e]
  have h := go allStations (by decide) s
  rwa [if_pos ((show ∀ j, j ∈ allStations by decide) i)] at h

/-! ## What a hand-over leaves of a station -/

/-- A station that has been handed targets: one that serves chooses its preload again, another takes them and no more (R104, R120). -/
def Retargeted (x y : Station) : Prop :=
  { y with ahead := x.ahead, standbyTarget := x.standbyTarget, preload := x.preload, pressure := x.pressure
           failed := x.failed, faults := x.faults } = x
    ∧ (x.serves = false → y = { x with ahead := y.ahead, standbyTarget := y.standbyTarget })

theorem Retargeted.refl (x : Station) : Retargeted x x := ⟨rfl, fun _ => rfl⟩

theorem retargeted_serves {x y : Station} (h : Retargeted x y) : y.serves = x.serves := by
  have p : ∀ {α : Type} (f : Station → α), _ := fun f => congrArg f h.1
  have hl : y.link = x.link := p (·.link)
  have he : y.excluded = x.excluded := p (·.excluded)
  rw [Station.serves, hl, he, Station.serves]

theorem retargeted_trans {x y z : Station} (h : Retargeted x y) (k : Retargeted y z) : Retargeted x z := by
  have hs := retargeted_serves h
  obtain ⟨h₁, h₂⟩ := h
  obtain ⟨k₁, k₂⟩ := k
  refine ⟨?_, fun hx => ?_⟩
  · have e := congrArg (fun y : Station => { y with
      ahead := x.ahead, standbyTarget := x.standbyTarget, preload := x.preload, pressure := x.pressure
      failed := x.failed, faults := x.faults }) k₁
    exact e.trans h₁
  · have e₁ := h₂ hx
    have e₂ := k₂ (hs.trans hx)
    exact e₂.trans (congrArg (fun y : Station => { y with ahead := z.ahead, standbyTarget := z.standbyTarget }) e₁)

/-- A write of a station's record that it takes as new targets. -/
theorem retargeted_setStation {f : Station → Station} (i j : Fin 6) (s : State)
    (h : Retargeted (s.station j) (f (s.station j))) : Retargeted (s.station i) ((s.setStation j f).station i) := by
  by_cases e : i = j
  · subst e
    rw [station_setStation_own]
    split
    · exact h
    · exact .refl _
  · rw [station_setStation_other s f e]
    exact .refl _

theorem retargeted_serving {x y : Station} (h : x.serves = true)
    (e : { y with ahead := x.ahead, standbyTarget := x.standbyTarget, preload := x.preload, pressure := x.pressure
                  failed := x.failed, faults := x.faults } = x) : Retargeted x y :=
  ⟨e, fun hx => absurd (h.symm.trans hx) (by decide)⟩

theorem retargeted_stationFault {s : State} {j : Fin 6} (i : Fin 6) (kind : FaultKind) (cue : Option CueNo)
    (patch : Option Nat) (h : (s.station j).serves = true) :
    Retargeted (s.station i) ((stationFault j kind cue patch s).station i) :=
  retargeted_setStation (f := fun st => { st with
    faults := st.faults.take { kind := kind, cue := cue, patch := patch, time := s.now } }) i j s (retargeted_serving h rfl)

theorem retargeted_recompute (keep : Bool) (i j : Fin 6) (s : State) :
    Retargeted (s.station i) ((recompute keep j s).station i) := by
  have write : ∀ (u : State) (f : Station → Station), (u.station j).serves = true →
      (∀ x : Station, { f x with ahead := x.ahead, standbyTarget := x.standbyTarget, preload := x.preload
                                 pressure := x.pressure, failed := x.failed, faults := x.faults } = x) →
      Retargeted (u.station i) ((u.setStation j f).station i) := fun u f hu hf =>
    retargeted_setStation i j u (retargeted_serving hu (hf _))
  have choose : ∀ u : State, (u.station j).serves = true → Retargeted (u.station i) ((choosePreload j u).station i) := by
    intro u hu
    unfold choosePreload deferPreload
    dsimp only
    split
    · exact write u _ hu fun _ => rfl
    · split
      · exact write u _ hu fun _ => rfl
      · split
        · exact write u _ hu fun _ => rfl
        · split
          · exact write u _ hu fun _ => rfl
          · have hj := retargeted_setStation (f := fun st => { st with preload := false, pressure := true }) j j u
              (retargeted_serving hu rfl)
            exact retargeted_trans (write u (fun st => { st with preload := false, pressure := true }) hu fun _ => rfl)
              (retargeted_stationFault i _ _ _ ((retargeted_serves hj).trans hu))
  unfold recompute
  split
  next hs =>
    cases keep with
    | true => exact choose s hs
    | false =>
      have h := write s (fun st => { st with failed := [] }) hs fun _ => rfl
      have hj := retargeted_setStation (f := fun st => { st with failed := [] }) j j s (retargeted_serving hs rfl)
      exact retargeted_trans h (choose _ ((retargeted_serves hj).trans hs))
  · exact .refl _

theorem retargeted_handOver (i : Fin 6) (s : State) : Retargeted (s.station i) ((handOver s).station i) :=
  eachStation_induct (P := fun u => Retargeted (s.station i) (u.station i))
    (fun j u h => retargeted_trans h (retargeted_trans
      (retargeted_setStation i j u ⟨rfl, fun _ => rfl⟩) (retargeted_recompute false i j _))) (.refl _)

/-! ## STOP -/

/-- A station that has taken the stop order (R127). -/
def stoppedStation (st : Station) : Station :=
  if st.serves then { st with
    silence := true, selectPlace := none, loadPlace := none, switch := none
    lastSwitch := match st.switch with
      | some w => some { cue := w.cue, patch := some w.patch, kind := w.kind, outcome := .dropped, lateness := none }
      | none => st.lastSwitch }
  else st

theorem stationStop_eq (i : Fin 6) (s : State) : stationStop i s = s.setStation i stoppedStation := by
  unfold stationStop
  split
  next h =>
    rw [endSwitch_dropped, setStation_setStation]
    refine setStation_congr ?_
    simp only [stoppedStation, h, if_true]
    rfl
  next h => exact (setStation_self (by simp [stoppedStation, h])).symm

theorem eachStation_stationStop (s : State) : (∃ st, eachStation stationStop s = { s with stations := st }
      ∧ st.length = s.stations.length)
    ∧ ∀ i, (eachStation stationStop s).station i = stoppedStation (s.station i) := by
  have e : stationStop = fun i s => s.setStation i stoppedStation := funext fun i => funext fun s => stationStop_eq i s
  rw [e]
  exact ⟨eachStation_write (fun _ => stoppedStation) s, fun i => station_eachStation_same rfl i s⟩

/-- The Sequencer with latch and timer cleared (R106). -/
def sequencerCleared (s : State) : State := latched none (s.setSeq fun q => { q with timer := .idle })

theorem sequencerStop_unlatched {s : State} (h : s.seq.latch = none) :
    sequencerStop s = s.setSeq fun q => { q with timer := .idle } := withdrawLatch_none h

theorem sequencerStop_latched {s : State} (h : s.seq.latch ≠ none) : sequencerStop s = handOver (sequencerCleared s) := by
  obtain ⟨n, hn⟩ := Option.ne_none_iff_exists'.mp h
  exact withdrawLatch_some (s := s.setSeq fun q => { q with timer := .idle }) hn

/-- The stop orders of the stations and the Sequencer. -/
theorem rigsStopped (s : State) : RigsStopped s (sequencerStop (eachStation stationStop s))
    ∧ (sequencerStop (eachStation stationStop s)).video = { s.video with content := { s.video.content with
        standby := if s.seq.latch = none then s.video.content.standby else none } }
    ∧ (∀ k, k ≠ 1 → (sequencerStop (eachStation stationStop s)).attention[k]? = s.attention[k]?)
    ∧ { sequencerStop (eachStation stationStop s) with
        stations := s.stations, seq := s.seq, attention := s.attention, video := s.video } = s := by
  obtain ⟨⟨st, e, hlen⟩, hst⟩ := eachStation_stationStop s
  generalize hm : eachStation stationStop s = m at *
  have stays : ∀ i, (s.station i).serves = false → m.station i = s.station i := fun i h => by
    rw [hst, stoppedStation, h]; rfl
  have takes : ∀ i, (s.station i).serves = true → ∀ x, x = _ → stoppedStation (s.station i) = x := fun i h x hx =>
    (if_pos h).trans hx.symm
  by_cases hl : s.seq.latch = none
  · have hml : m.seq.latch = none := by rw [e]; exact hl
    rw [sequencerStop_unlatched hml, if_pos hl]
    refine ⟨⟨?_, fun h => absurd hl h, fun i h => ⟨fun _ => stays i h, ?_⟩, fun i h x hx => ⟨fun _ => ?_, ?_⟩, fun _ => ?_⟩,
      ?_, fun k _ => ?_, ?_⟩
    · rw [e, if_pos hl, ← hl]; rfl
    · have := stays i h
      exact this.trans (by rw [show (State.setSeq _ m).station i = m.station i from rfl, this])
    · exact (hst i).trans (takes i h x hx)
    · rw [show (State.setSeq _ m).station i = m.station i from rfl, hst, takes i h x hx]
    all_goals rw [e]; rfl
  · have hml : m.seq.latch ≠ none := by rw [e]; exact hl
    have hre : ∀ i, Retargeted (m.station i) ((handOver (sequencerCleared m)).station i) := fun i =>
      retargeted_handOver i (sequencerCleared m)
    obtain ⟨st', att, eh, -, hatt⟩ := handOver_eq (sequencerCleared m)
    rw [sequencerStop_latched hml, if_neg hl]
    have hahead : lookAhead (sequencerCleared m) = lookAhead s :=
      lookAhead_congr (by rw [e]; rfl) (by rw [e]; rfl) (by rw [e]; rfl) (by rw [e]; rfl)
    have hts : s.stations.length = 6 → ∀ i, TargetsHeld i (handOver (sequencerCleared m)) := fun h i =>
      (targetsHanded_handOver i (sequencerCleared m) (by rw [← h, ← hlen, e]; rfl)).1
    generalize handOver (sequencerCleared m) = u at *
    refine ⟨⟨?_, fun _ => hts, fun i h => ⟨fun h => absurd h hl, ?_⟩, fun i h x hx => ⟨fun h => absurd h hl, ?_⟩,
      fun h => absurd h hl⟩, ?_, fun k hk => ?_, ?_⟩
    · rw [eh, hahead, e, if_neg hl]; rfl
    · have q := (hre i).2
      rw [stays i h] at q
      exact q h
    · have q := (hre i).1
      rw [hst, takes i h x hx] at q
      exact q
    · rw [eh, e]; rfl
    · rw [eh]
      exact (hatt k hk).trans (by rw [e]; rfl)
    · rw [eh, e]; rfl

/-- A stop outside STOPPED, REBUILDING and READY records its source and position (R163). -/
theorem takeStop_first (src : Source) {s : State} (h : s.stop.st ≠ .stopped) (hr : s.stop.st.rebuilds = false) :
    ∃ k, k = { s with stop := { s.stop with
        held := none, source := some src, position := some (stopPositionOf s.clock.position), resume := none } }
      ∧ takeStop src s = stopOrders src k := by
  refine ⟨_, rfl, ?_⟩
  cases hst : s.stop.st with
  | stopped => exact absurd hst h
  | rebuilding => rw [hst] at hr; cases hr
  | ready => rw [hst] at hr; cases hr
  | _ => simp only [takeStop, hst, State.setStopCtl]

theorem takeStop_stopped {src : Source} {s : State} (h : s.stop.st = .stopped) :
    takeStop src s = sequencerStop (eachStation stationStop s) := by
  simp only [takeStop, h]

/-- A stop in REBUILDING and READY abandons the rebuild (R164). -/
theorem takeStop_rebuilds (src : Source) {s : State} (hr : s.stop.st.rebuilds = true) :
    ∃ k, k = { s with stop := { s.stop with
        source := some src, resume := none, account := s.stop.account.map fun _ => .notCounted } }
      ∧ takeStop src s = stopOrders src k := by
  refine ⟨_, rfl, ?_⟩
  cases hst : s.stop.st with
  | rebuilding => simp only [takeStop, hst, State.setStopCtl]
  | ready => simp only [takeStop, hst, State.setStopCtl]
  | _ => rw [hst] at hr; cases hr

theorem clockStop_rebuildRec (s : State) : (clockStop s).clock.rebuildRec = s.clock.rebuildRec := by
  unfold clockStop clockFreezes
  dsimp only
  split
  · obtain ⟨g, p, b, x, e | e⟩ := endRamp_spec s <;> rw [e] <;> rfl
  · rfl

theorem clockStop_quiet {s : State} (h : s.clock.st.beats = false) : (clockStop s).clock = { s.clock with
    holdArmed := false, vamp := s.clock.vamp.map fun x => { x with release := false } } := by
  simp [clockStop, h, State.setClock]

/-- The orders of a stop in `m`, which is `s` but for the Stop Controller's record (R162). -/
theorem stopOrders_spec (src : Source) {p : StopPosition} {s m : State} (hm : { m with stop := s.stop } = s)
    (hp : m.stop.position = some p) :
    (stopOrders src m).stop = { m.stop with st := .stopped } ∧ StopOrdered src p s (stopOrders src m)
      ∧ ∃ v : State, v.clock = s.clock ∧ (stopOrders src m).clock = (clockStop v).clock := by
  generalize hv : videoStop (setStop .stopped m) = v
  obtain ⟨k, f, e, hf, hkeep, hk⟩ := clockStop_spec v
  have hreb := clockStop_rebuildRec v
  have hquiet := fun h => clockStop_quiet (s := v) h
  generalize hq : cancelClicks (clockStop v) = q
  obtain ⟨hr, hvid, hatt, hrest⟩ := rigsStopped q
  have eo : stopOrders src m = raise (.showStop src
      ((sequencerStop (eachStation stationStop q)).stop.position.getD StopPosition.empty))
      (sequencerStop (eachStation stationStop q)) := by
    rw [stopOrders, hv, hq]
  rw [eo]
  generalize sequencerStop (eachStation stationStop q) = w at *
  have r : ∀ {α : Type} (f : State → α), _ := fun f => congrArg f hrest
  have hstop : w.stop = q.stop := r (·.stop)
  have hqstop : q.stop = { m.stop with st := .stopped } := by rw [← hq, e, ← hv]; rfl
  have hpos : w.stop.position.getD StopPosition.empty = p := by rw [hstop, hqstop, hp]; rfl
  have hclock : w.clock = k := by
    have : w.clock = q.clock := r (·.clock)
    rw [this, ← hq, e]; rfl
  have hfollower : w.follower = f := by
    have : w.follower = q.follower := r (·.follower)
    rw [this, ← hq, e]; rfl
  have hvs : v.clock = s.clock := by rw [← hm, ← hv]; rfl
  have hvf : v.follower = s.follower := by rw [← hm, ← hv]; rfl
  have hqs : q = { s with
      stop := q.stop, clock := q.clock, follower := q.follower, channels := q.channels, video := q.video } := by
    rw [← hq, e, ← hv, ← hm]; rfl
  rw [hpos]
  rw [e] at hreb hquiet
  rw [hvs] at hk hreb hquiet
  rw [hvs, hvf] at hf
  rw [hvf] at hkeep
  obtain ⟨k₁, k₂, k₃, k₄, k₅, k₆, k₇, k₈, k₉, k₁₀⟩ := hk
  obtain ⟨f₁, f₂, f₃, f₄, f₅⟩ := hkeep
  refine ⟨?_, ⟨?_, ?_, ?_, ?_, ?_, ?_, ?_, ?_⟩, v, hvs, ?_⟩
  · exact hstop.trans hqstop
  · rw [raise_clock, hclock]
    exact ⟨k₁, k₂, k₃, k₄, k₅, k₆, k₇, k₈, k₉, k₁₀, hreb, hquiet⟩
  · rw [raise_follower, hfollower]
    exact ⟨f₁, f₂, f₃, f₄, f₅, hf⟩
  · rw [raise_channels, show w.channels = q.channels from r (·.channels), ← hq, e, ← hv, ← hm]
    rfl
  · rw [raise_video, hvid, ← hq, e, ← hv, ← hm]
    rfl
  · obtain ⟨a, b, c, d, g⟩ := hr
    rw [lookAhead_congr (by rw [hqs]) (by rw [hqs]) (by rw [hqs]) (by rw [hqs])] at a
    have ha : q.seq = s.seq := by rw [hqs]
    have hst : ∀ i, q.station i = s.station i := station_congr (by rw [hqs])
    rw [ha] at a b g
    rw [show q.stations = s.stations by rw [hqs]] at b
    simp only [ha, hst] at c d
    exact ⟨a, b, c, d, fun h => (raise_other _ w (show (1 : Nat) ≠ 0 by decide)).trans
      ((g h).trans (by rw [hqs]))⟩
  · have hnow : w.now = s.now := (r (·.now)).trans (by rw [hqs])
    have h0 : w.attention[0]? = s.attention[0]? := (hatt 0 (by decide)).trans (by rw [hqs])
    rw [← hnow, ← h0]
    exact raise_same (.showStop src p) w
  · intro k hk
    rw [raise_other _ w (show k ≠ 0 by omega), hatt k (by omega), hqs]
  · have hsame := congrArg (fun x : State => { x with stop := s.stop, clock := s.clock, follower := s.follower, channels := s.channels, video := s.video, seq := s.seq, stations := s.stations, attention := s.attention }) hrest
    refine Eq.trans hsame ?_
    rw [hqs]
  · rw [raise_clock, hclock, e]

/-- Settles O25: the first stop, the second in STOPPED, and the second in REBUILDING and READY. -/
theorem stopStopsTheShow : Obligations.StopStopsTheShow := by
  intro s t held src hs he m hm
  have hst : m.stop = s.stop := by rw [hm]; rfl
  have hpos : m.clock = s.clock := by rw [hm]; rfl
  refine ⟨takeStop src m, fun h => ?_, fun h => ?_, fun h₁ h₂ p hp => ?_, fun h => ?_, fun h p hp => ?_⟩
  · subst h
    have : m = s.goTo t := by rw [hm]; rfl
    rw [this]
    exact exec_answered hs rfl (f := reqStop) rfl
  · subst h
    have : m = (s.goTo t).setDesk (Desk.take true .stop) := by rw [hm]; rfl
    rw [this]
    exact exec_deskEdge (f := takeStop .desk) hs (he rfl) rfl
  · obtain ⟨k, hk, e⟩ := takeStop_first src (s := m) (by rw [hst]; exact h₁) (by rw [hst]; exact h₂)
    obtain ⟨a, b, -⟩ := stopOrders_spec src (p := p) (s := m) (m := k) (by rw [hk]) (by rw [hk, hpos, hp])
    rw [e]
    exact ⟨a.trans (by rw [hk, hst, hpos, ← hp]), b⟩
  · rw [takeStop_stopped (by rw [hst]; exact h)]
    obtain ⟨a, b, c, d⟩ := rigsStopped m
    subst hm
    exact ⟨a, b, c, d⟩
  · obtain ⟨k, hk, e⟩ := takeStop_rebuilds src (s := m) (by rw [hst]; exact h)
    obtain ⟨a, b, -⟩ := stopOrders_spec src (p := p) (s := m) (m := k) (by rw [hk]) (by rw [hk, hst]; exact hp)
    rw [e]
    exact ⟨a.trans (by rw [hk, hst]), b⟩

end Sys2Proof.Proofs

namespace Sys2Proof.Proofs

open Sys2Proof Sys2Proof.Machine

/-! ## GO outside RUN -/

theorem enterRun_run (s : State) : (enterRun s).stop.st = .run := by
  unfold enterRun
  extract_lets u
  split
  · exact congrArg StopController.st (fire_stop _ .follow (s := u.setSeq fun q => { q with timer := .idle }) rfl)
  · rfl

theorem enterRun_setStop (st : StopSt) (s : State) : enterRun (setStop st s) = enterRun s := rfl

theorem clockIdle_setStop (st : StopSt) (s : State) : clockIdle (setStop st s) = setStop st (clockIdle s) := by
  by_cases h : s.follower.st = .free <;>
    simp [clockIdle, tellNone, enterFree, followerGoes, followerFreeze, State.setFollower, State.setClock, setStop_eq, withStop,
      raise, h]

/-- A start order of a count-in, its outcome reported: without a count-in RUN is entered ahead of the first beat. -/
def started (kind : CountInKind) (bars : Nat) (f : State → State × Committed) (s : State) : State :=
  if bars = 0 then afterCommit (enterRun (f s).1, (f s).2) else afterCommit (f (setStop (.countIn kind) s))

/-- A start order without a usable record (R19). -/
theorem started_noUsable (kind : CountInKind) (bars : Nat) (s : State) : NoneUsable s (started kind bars noUsable s) := by
  have e : started kind bars noUsable s = enterRun (clockIdle s) := by
    unfold started noUsable
    split
    · exact countInEnds_run (enterRun_run _)
    · rw [clockIdle_setStop, ← enterRun_setStop (.countIn kind)]
      rfl
  obtain ⟨hc, hf, ha, hr⟩ := clockIdle_spec s
  rw [e]
  exact ⟨clockIdle s, hc, hf, ha, hr, enterRun_spec _⟩

/-- A start order with a usable record (R17, R19). -/
theorem started_usable (kind : CountInKind) (bar bars : Nat) (g : Governing) (fresh : Bool) (s : State)
    (hw : ∀ l, s.follower.last = some l → l.isOpen = false)
    (hp : g.record.mode ≠ .conducted → fresh = true ∨ s.clock.period ≠ none) :
    StartOrdered kind bar bars g fresh s (started kind bars (fun s => commitIfDue (startClock bar bars g fresh s)) s) :=
  startOrder_spec kind bar bars g fresh s hw hp

/-- A GO that fires nothing itself, of the host or of the desk. -/
theorem goTaken {s m u : State} {t held code : Nat} {desk : Bool} {d : GoDone} (hs : s.Serving)
    (he : desk = true → DeskEdge .go t held s)
    (hm : m = { s.goTo t with desk := if desk then { s.desk with go := true } else s.desk })
    (h : ∀ src, takeGo src m = (u, .ok d)) (hd : goAnswer (.ok d) = okWith [.num 1 code, .cue none]) :
    GoTaken desk t held code s u := by
  refine ⟨fun hdesk => ?_, fun hdesk => ?_⟩
  · have e : m = s.goTo t := by rw [hm, hdesk]; rfl
    refine exec_answered (a := okWith [.num 1 code, .cue none]) hs rfl (f := reqGo) ?_
    rw [← e, reqGo, h]
    exact congrArg (u, ·) hd
  · have e : m = (s.goTo t).setDesk (Desk.take true .go) := by rw [hm, hdesk]; rfl
    rw [exec_deskEdge (f := deskGo) hs (he hdesk) rfl, ← e]
    simp only [deskGo, h]

/-- The state a resume start begins in: the account cleared and the rebuild record taken. -/
def resumeBase (s : State) : State :=
  { s with
    clock := { s.clock with rebuildRec := none }
    stop := { s.stop with account := s.stop.account.map fun _ => .notCounted } }

/-- The state a hold start begins in: the pending record taken. -/
def holdBase (s : State) : State := { s with clock := { s.clock with pendingRec := none } }

theorem takeGo_ready {s : State} (src : FireSource) (h : s.stop.st = .ready) (hd : s.desk.stop = false) :
    takeGo src s = (resumeCountIn s, .ok .resumeCountIn) := by
  simp only [takeGo, h, hd, Bool.false_eq_true, if_false]

theorem takeGo_armed {s : State} (src : FireSource) (h : s.stop.st = .holding .armed) (ha : s.clock.holdArmed = true) :
    takeGo src s = (enterRun (cancelHold s), .ok .holdCancelled) := by
  simp only [takeGo, h, ha, if_true]

theorem started_congr {kind : CountInKind} {bars : Nat} {f g : State → State × Committed} {s u : State} (h₁ : f s = g u)
    (h₂ : f (setStop (.countIn kind) s) = g (setStop (.countIn kind) u)) : started kind bars f s = started kind bars g u := by
  unfold started
  rw [h₁, h₂]

theorem resumeStart_usable {s : State} {rec : TempoRecord} (bar bars : Nat) (h : s.clock.rebuildRec = some rec)
    (hm : rec.mode ≠ .tacet) : resumeStart bar bars s = commitIfDue (startClock bar bars (freshGoverning rec) true
      { s with clock := { s.clock with rebuildRec := none } }) := by
  simp only [resumeStart, h, if_neg hm]
  rfl

theorem resumeStart_none {s : State} (bar bars : Nat) (h : ∀ rec, s.clock.rebuildRec = some rec → rec.mode = .tacet) :
    resumeStart bar bars s = noUsable { s with clock := { s.clock with rebuildRec := none } } := by
  cases hr : s.clock.rebuildRec with
  | none => simp only [resumeStart, hr]; rfl
  | some rec => simp only [resumeStart, hr, h rec hr, if_true]; rfl

theorem holdStart_fresh {s : State} {rec : TempoRecord} (bar bars : Nat) (h : s.clock.pendingRec = some rec)
    (hm : rec.mode ≠ .tacet) : holdStart bar bars s = commitIfDue (startClock bar bars (freshGoverning rec) true
      { s with clock := { s.clock with pendingRec := none } }) := by
  simp only [holdStart, h, if_neg hm]
  rfl

theorem holdStart_none {s : State} (bar bars : Nat) (h : ∀ rec, s.clock.pendingRec = some rec → rec.mode = .tacet)
    (hg : s.clock.pendingRec = none → s.clock.gov = none) :
    holdStart bar bars s = noUsable { s with clock := { s.clock with pendingRec := none } } := by
  cases hr : s.clock.pendingRec with
  | none =>
    have hk : { s.clock with pendingRec := none } = s.clock := by rw [← hr]
    rw [hk]
    simp only [holdStart, hr, hg hr]
  | some rec => simp only [holdStart, hr, h rec hr, if_true]; rfl

/-- The bar a resume start begins at (R169). -/
def resumedBar (s : State) : Nat := (s.stop.resume.map (·.bar)).getD 1

theorem resumeCountIn_eq (s : State) : resumeCountIn s
    = started .resume s.seq.settings.resumeCountIn (resumeStart (resumedBar s) s.seq.settings.resumeCountIn)
        { s with stop := { s.stop with account := s.stop.account.map fun _ => .notCounted } } := rfl

theorem resumeCountIn_usable {s : State} {r : ResumePoint} {rec : TempoRecord} (hr : s.stop.resume = some r)
    (hrec : s.clock.rebuildRec = some rec) (hm : rec.mode ≠ .tacet) : resumeCountIn s
      = started .resume s.seq.settings.resumeCountIn
          (fun u => commitIfDue (startClock r.bar s.seq.settings.resumeCountIn (freshGoverning rec) true u)) (resumeBase s) := by
  have hb : resumedBar s = r.bar := by rw [resumedBar, hr]; rfl
  rw [resumeCountIn_eq, hb]
  exact started_congr (resumeStart_usable _ _ hrec hm) (resumeStart_usable _ _ hrec hm)

theorem resumeCountIn_none {s : State} (hrec : ∀ rec, s.clock.rebuildRec = some rec → rec.mode = .tacet) :
    resumeCountIn s = started .resume s.seq.settings.resumeCountIn noUsable (resumeBase s) :=
  (resumeCountIn_eq s).trans (started_congr (resumeStart_none _ _ hrec) (resumeStart_none _ _ hrec))

/-- The bar a hold start begins at (R161). -/
def heldBar (s : State) : Nat := (s.stop.held.map (·.bar)).getD 1

theorem holdCountIn_eq (s : State) : holdCountIn s
    = started .hold s.seq.settings.holdCountIn (holdStart (heldBar s) s.seq.settings.holdCountIn) s := rfl

/-- Settles O27: a resume start, a hold start, and the hold that is withdrawn; each start with or without a usable record. -/
theorem goOutsideRun : Obligations.GoOutsideRun := by
  intro s t held desk hs he m hm hw
  have hst : m.stop = s.stop := by rw [hm]; rfl
  have hclk : m.clock = s.clock := by rw [hm]; rfl
  have hseq : m.seq = s.seq := by rw [hm]; rfl
  have hfol : m.follower = s.follower := by rw [hm]; rfl
  have hdesk : m.desk.stop = s.desk.stop := by rw [hm]; cases desk <;> rfl
  refine ⟨fun r hready hd hr x hx => ?_, fun hheld bar hbar x hx => ?_, fun harm ha => ?_⟩
  · have hx' : x = resumeBase m := by rw [hx, resumeBase, hclk, hst]
    refine ⟨resumeCountIn m, goTaken hs he hm
      (fun src => takeGo_ready src (by rw [hst]; exact hready) (by rw [hdesk]; exact hd)) rfl, fun hrec => ?_,
      fun rec hrec hmode => ?_⟩
    · rw [resumeCountIn_none (by rw [hclk]; exact hrec), hx']
      exact started_noUsable _ _ _
    · rw [resumeCountIn_usable (by rw [hst]; exact hr) (by rw [hclk]; exact hrec) hmode, hx', hseq]
      exact started_usable _ _ _ (freshGoverning rec) true _ (by
        rw [show (resumeBase m).follower = s.follower from hfol]; exact hw) (fun _ => .inl rfl)
  · have hx' : x = holdBase m := by rw [hx, holdBase, hclk]
    have hb : heldBar m = bar := by
      rw [heldBar, hst, hbar]
      cases s.stop.held <;> rfl
    have hfb : (holdBase m).follower = s.follower := hfol
    refine ⟨holdCountIn m, goTaken hs he hm (fun src => takeGo_held src (by rw [hst]; exact hheld)) rfl,
      fun hrec hg => ?_, fun rec hrec hmode => ?_, fun g hrec hg hper => ?_⟩
    · have e : holdCountIn m = started .hold m.seq.settings.holdCountIn noUsable (holdBase m) :=
        started_congr (holdStart_none _ _ (by rw [hclk]; exact hrec) (by rw [hclk]; exact hg))
          (holdStart_none (s := setStop _ m) _ _ (by exact hclk ▸ hrec) (by exact hclk ▸ hg))
      rw [e, hx']
      exact started_noUsable _ _ _
    · have e : holdCountIn m = started .hold m.seq.settings.holdCountIn
          (fun u => commitIfDue (startClock bar m.seq.settings.holdCountIn (freshGoverning rec) true u)) (holdBase m) := by
        rw [holdCountIn_eq, hb]
        exact started_congr (holdStart_fresh _ _ (by rw [hclk]; exact hrec) hmode)
          (holdStart_fresh (s := setStop _ m) _ _ (by exact hclk ▸ hrec) hmode)
      rw [e, hx', hseq]
      exact started_usable _ _ _ (freshGoverning rec) true _ (by rw [hfb]; exact hw) (fun _ => .inl rfl)
    · have e : holdCountIn m = started .hold m.seq.settings.holdCountIn
          (fun u => commitIfDue (startClock bar m.seq.settings.holdCountIn g false u)) m := by
        rw [holdCountIn_eq, hb]
        exact started_congr (holdStart_governed _ _ (by rw [hclk]; exact hrec) (by rw [hclk]; exact hg))
          (holdStart_governed (s := setStop _ m) _ _ (by exact hclk ▸ hrec) (by exact hclk ▸ hg))
      have hxm : x = m := by
        rw [hx, show ({ s.clock with pendingRec := none } : BeatClock) = m.clock by rw [hclk, ← hrec]]
      rw [e, hxm, hseq]
      exact started_usable _ _ _ g false _ (by rw [hfol]; exact hw) (fun h => .inr (by rw [hclk]; exact hper h))
  · refine ⟨enterRun (cancelHold m), goTaken hs he hm
      (fun src => takeGo_armed src (by rw [hst]; exact harm) (by rw [hclk]; exact ha)) rfl, ?_⟩
    have e : cancelHold m = { m with clock := { s.clock with holdArmed := false } } := by rw [← hclk]; rfl
    rw [e]
    exact enterRun_spec _

end Sys2Proof.Proofs

namespace Sys2Proof.Proofs

open Sys2Proof Sys2Proof.Machine

/-! ## GO in RUN, and the follow timer -/

theorem takeGo_run {s : State} {n : CueNo} (src : FireSource) (h : s.stop.st = .run) (hn : nextCue s = some n)
    (hl : s.seq.settings.standbyRequired = true → s.seq.latch.isSome = true) :
    takeGo src s = (fire n src s, .ok (.fired n)) := by
  have hb : (s.seq.settings.standbyRequired && s.seq.latch.isNone) = false := by
    cases hr : s.seq.settings.standbyRequired with
    | false => rfl
    | true =>
      have := hl hr
      cases hlat : s.seq.latch <;> simp_all
  simp only [takeGo, h, goInRun, hn, hb, Bool.false_eq_true, if_false]

theorem exec_go_run {s : State} {n : CueNo} {t : Nat} (hs : s.Serving) (h : s.stop.st = .run) (hn : nextCue s = some n)
    (hl : s.seq.settings.standbyRequired = true → s.seq.latch.isSome = true) :
    exec (.go t) s = .next ((fire n .hostGo (s.goTo t)).replied .ok [.num 1 0, .cue (some n)]) := by
  refine exec_answered (a := okWith [.num 1 0, .cue (some n)]) hs rfl (f := reqGo) ?_
  rw [reqGo, takeGo_run (s := s.goTo t) .hostGo h hn hl]
  rfl

theorem exec_deskGoEdge_run {s : State} {n : CueNo} {t held : Nat} (hs : s.Serving) (he : DeskEdge .go t held s)
    (h : s.stop.st = .run) (hn : nextCue s = some n)
    (hl : s.seq.settings.standbyRequired = true → s.seq.latch.isSome = true) :
    exec (.deskGoEdge t held) s = .next (fire n .deskGo ((s.goTo t).setDesk (Desk.take true .go))) := by
  rw [exec_deskEdge (f := deskGo) hs he rfl]
  simp only [deskGo, takeGo_run (s := (s.goTo t).setDesk (Desk.take true .go)) .deskGo h hn hl]

/-- The first beat of a count-in waits, or is committed at once (R17, R18). -/
theorem commitIfDue_countIn {s : State} {g : Governing} {p T : Nat} {st : StartRun} (hc : s.clock.st = .countingIn)
    (hg : s.clock.gov = some g) (hm : g.record.mode ≠ .conducted) (hp : s.clock.period = some p)
    (hs : s.clock.start = some st) (hn : s.clock.next = some { time := some T, kind := .countIn 1 }) :
    commitIfDue s = (s, .nothing)
      ∨ ∃ r next, r.phase = .countIn 1 ∧ commitIfDue s
        = (beatCommitted (beatWritten s.clock s.follower T st.bar 1 (.countIn 1) (some p) next) r s,
          { beat := some r, held := none, countInEnd := false }) := by
  have hd : commitDue s = some (T - s.clock.lead) := by simp [commitDue, hc, ClockSt.beats, hn]
  by_cases h : T - s.clock.lead ≤ s.now
  · have e : commitIfDue s = reachBeat T s := by
      simp only [commitIfDue, hd, if_pos h, commitScheduled, hn]
      rfl
    rw [reachBeat_countIn hn hg hs, Nat.sub_self, Nat.zero_mod, Nat.zero_add] at e
    exact .inr ⟨_, _, rfl, e.trans (commitAs_countIn T st.bar 1 1 hg hm hp)⟩
  · refine .inl (commitIfDue_early fun d hd' => ?_)
    cases hd.symm.trans hd'
    omega

/-- The fire of a FIXED record with a count-in on an IDLE clock (R17): the clock counts in, with its first beat committed or not. -/
theorem fire_countsIn {s : State} {n : CueNo} {c : Cue} {r : TempoRecord} (src : FireSource) (hst : s.stop.st.rebuilds = false)
    (hi : s.clock.st = .idle) (hc : findCue s.store.cues n = some c) (hr : tempoHanded c s = some r) (hm : r.mode = .fixed)
    (hb : 1 ≤ r.countIn) : ∃ u k, fire n src s = u ∧ k = clockStarted c r s.now s.clock
      ∧ { u.clock with position := k.position, spacing := k.spacing, next := k.next } = k ∧ u.clock.position.cue = some n
      ∧ u.follower.st = .free ∧ u.seq.current = some n ∧ u.stop = s.stop ∧ u.store = s.store := by
  have hnum : c.number = n := (findCue_some hc).2
  obtain ⟨m, ⟨hseq, -, -, -, -, -, hrest⟩, hk, -, -, e⟩ := fireCue_spec c src s hst
  obtain ⟨w, ew, wk, wf, ww, -⟩ := clockFire_starts c (r := r) (s := m) (by rw [hk]; exact hi) (by rw [hm]; decide)
  rw [hr, ew] at e
  have q : ∀ {α : Type} (f : State → α), _ := fun f => congrArg f hrest
  have v : ∀ {α : Type} (f : State → α), _ := fun f => congrArg f ww
  have hnow : m.now = s.now := q (·.now)
  have hwseq : w.seq.current = some n := by
    rw [show w.seq = m.seq from v (·.seq), hseq, ← hnum]
  have hwstop : w.stop = s.stop := (v (·.stop)).trans (q (·.stop))
  have hwstore : w.store = s.store := (v (·.store)).trans (q (·.store))
  have hwf : w.follower.st = .free := by
    rw [(wf.2 (by rw [show (freshGoverning r).record.mode = r.mode from rfl, hm]; decide)).1]
  rw [hk, hnow] at wk
  have hcue : w.clock.position.cue = some n := by rw [wk, ← hnum]; rfl
  have hne : r.countIn ≠ 0 := by omega
  have hcon : r.mode ≠ .conducted := by rw [hm]; decide
  rcases commitIfDue_countIn (s := w) (g := freshGoverning r) (T := firstBeat s.now s.clock) (p := recordPeriod r)
      (by rw [wk]; simp [clockStarted, hne]) (by rw [wk]; rfl) hcon (by rw [wk]; simp [clockStarted, hcon])
      (by rw [wk]; rfl) (by rw [wk]; simp [clockStarted, hne, hcon]) with h | ⟨b, next, hb, h⟩
  · exact ⟨w, w.clock, fire_quiet hc (e.trans h) rfl, wk, rfl, hcue, hwf, hwseq, hwstop, hwstore⟩
  · refine ⟨_, w.clock, (fire_beat hc (e.trans h) rfl).trans (takeBeat_countIn (by rw [hb]; intro h; cases h)), wk, rfl,
      hcue, ?_, hwseq, hwstop, hwstore⟩
    rw [beatCommitted_free hwf]
    exact hwf

/-- Settles O21: the fires by the law of a fire, and the start of a counted-in FIXED record. -/
theorem goAndFollowFire : Obligations.GoAndFollowFire := by
  refine ⟨fun s t held n c hs hc => ⟨fun hst hn hl => ⟨?_, fun he => ?_⟩, fun expiry hf ht => ?_⟩,
    fun s t n c r hs hst hi hn hc hl hr hm hb => ?_⟩
  · exact ⟨_, fire_taken (s := s.goTo t) hc (by rw [State.goTo_stop, hst]; rfl), exec_go_run hs hst hn hl⟩
  · exact ⟨_, fire_taken (s := (s.goTo t).setDesk (Desk.take true .go)) hc (by
      rw [show ((s.goTo t).setDesk (Desk.take true .go)).stop = s.stop from rfl, hst]; rfl),
      exec_deskGoEdge_run hs he hst hn hl⟩
  · have hr : s.stop.st.rebuilds = false := by
      cases hst : s.stop.st <;> simp [hst, StopSt.fires] at hf <;> rfl
    refine ⟨_, fire_taken (s := { s with seq := { s.seq with timer := .idle } }.goTo expiry) (src := .follow) hc hr, ?_⟩
    refine (selfTimed_due (f := timerExpires) (d := expiry) hs.1 (by simp only [timerDue, ht])).trans (congrArg _ ?_)
    simp only [timerExpires, State.goTo_seq, State.goTo_stop, ht, hf, if_true]
    rfl
  · obtain ⟨u, k, eu, hk, hkeep, hcue, hfree, hcur, hstop, hstore⟩ := fire_countsIn (s := s.goTo t) .hostGo
      (by rw [State.goTo_stop, hst]; rfl) hi hc (by rw [← (findCue_some hc).2] at hr; exact hr) hm hb
    have h := exec_go_run (t := t) hs hst hn hl
    rw [eu] at h
    have q : ∀ {α : Type} (f : BeatClock → α), _ := fun f => congrArg f hkeep
    have hne : r.countIn ≠ 0 := by omega
    have hcon : r.mode ≠ .conducted := by rw [hm]; decide
    subst hk
    refine ⟨u, h, hcur, hcue, (q (·.st)).trans ?_, (q (·.gov)).trans ?_, (q (·.period)).trans ?_, q (·.barSet), hfree,
      q (·.start), q (·.lastShowBar), hstop, hstore⟩
    · simp [clockStarted, hne]
    · simp [clockStarted, recordPeriod_fixed hm]
    · simp [clockStarted, recordPeriod_fixed hm, hcon]

end Sys2Proof.Proofs

namespace Sys2Proof.Proofs

open Sys2Proof Sys2Proof.Machine

/-! ## Roundings -/

/-- A quotient rounded upward lies within half a unit of it. -/
theorem roundUpward_bounds {d : Nat} (n : Nat) (hd : 0 < d) :
    2 * n < 2 * (d * roundUpward n d) + d ∧ 2 * (d * roundUpward n d) ≤ 2 * n + d := by
  have h₁ := Nat.div_add_mod (2 * n + d) (2 * d)
  have h₂ := Nat.mod_lt (2 * n + d) (show 0 < 2 * d by omega)
  have e : 2 * d * roundUpward n d = 2 * (d * roundUpward n d) := Nat.mul_assoc ..
  rw [show (2 * n + d) / (2 * d) = roundUpward n d from rfl, e] at h₁
  generalize d * roundUpward n d = q at *
  omega

theorem roundUpward_mul {d : Nat} (k : Nat) (hd : 0 < d) : roundUpward (k * d) d = k := by
  have e : 2 * (k * d) + d = d + 2 * d * k := by ring
  rw [roundUpward, e, Nat.add_mul_div_left _ _ (by omega), Nat.div_eq_of_lt (by omega), Nat.zero_add]

theorem roundUpward_mono {m n : Nat} (d : Nat) (h : m ≤ n) : roundUpward m d ≤ roundUpward n d :=
  Nat.div_le_div_right (by omega)

/-- Rounding away from zero keeps the sign and rounds the size. -/
theorem roundAway_nonneg {w : Int} (d : Nat) (h : 0 ≤ w) : roundAway w d = roundUpward w.natAbs d := by
  rw [roundAway, if_pos h]
  congr 2
  omega

theorem roundAway_neg {w : Int} (d : Nat) (h : w < 0) : roundAway w d = -(roundUpward w.natAbs d : Int) := by
  rw [roundAway, if_neg (by omega)]
  congr 3
  omega

theorem roundAway_near {d : Nat} (w : Int) (hd : 0 < d) :
    2 * (roundAway w d * d - w).natAbs ≤ d
      ∧ (2 * (roundAway w d * d - w).natAbs = d → w.natAbs < (roundAway w d * d).natAbs) := by
  obtain ⟨h₁, h₂⟩ := roundUpward_bounds w.natAbs hd
  generalize hq : roundUpward w.natAbs d = q at h₁ h₂
  have hc : ((d * q : Nat) : Int) = (q : Int) * d := by push_cast; ring
  generalize d * q = x at h₁ h₂ hc
  rcases Int.lt_or_le w 0 with h | h
  · rw [roundAway_neg d h, hq, Int.neg_mul, ← hc]
    omega
  · rw [roundAway_nonneg d h, hq, ← hc]
    omega

/-- The marked period of a tempo within its range (R9). -/
theorem markedPeriod_range {b : Nat} (h₁ : 300 ≤ b) (h₂ : b ≤ 3000) :
    200000 ≤ markedPeriod b ∧ markedPeriod b ≤ 2000000 := by
  refine ⟨(Nat.le_div_iff_mul_le (by omega)).mpr (by omega), Nat.lt_succ_iff.mp ((Nat.div_lt_iff_lt_mul (by omega)).mpr ?_)⟩
  omega

theorem displayedTempo_range {q : Nat} (h₁ : 200000 ≤ q) (h₂ : q ≤ 2000000) :
    300 ≤ roundUpward 600000000 q ∧ roundUpward 600000000 q ≤ 3000 := by
  refine ⟨(Nat.le_div_iff_mul_le (by omega)).mpr (by omega), Nat.lt_succ_iff.mp ((Nat.div_lt_iff_lt_mul (by omega)).mpr ?_)⟩
  omega

/-- The tempo of a ramp's beat is the whole way rounded, from its start (R15). -/
theorem rampPeriod_sub {r : RampRun} {i : Nat} (hb : 0 < r.beats) (hi : i ≤ r.beats) :
    (rampPeriod r i : Int) - r.start = roundAway (((r.target : Int) - r.start) * i) r.beats := by
  have hpos : 0 ≤ (r.start : Int) + roundAway (((r.target : Int) - r.start) * i) r.beats := by
    rcases Int.lt_or_le (((r.target : Int) - r.start) * i) 0 with h | h
    · have ht : r.target < r.start := by
        by_contra hc
        have : 0 ≤ ((r.target : Int) - r.start) * i := Int.mul_nonneg (by omega) (by omega)
        omega
      have habs : (((r.target : Int) - r.start) * i).natAbs = (r.start - r.target) * i := by
        rw [Int.natAbs_mul, Int.natAbs_natCast]
        congr 1
        omega
      have hle := roundUpward_mono r.beats (Nat.mul_le_mul_left (r.start - r.target) hi)
      rw [roundUpward_mul _ hb] at hle
      rw [roundAway_neg _ h, habs]
      omega
    · rw [roundAway_nonneg _ h]
      omega
  rw [rampPeriod, Int.toNat_of_nonneg hpos]
  omega

theorem rampPeriod_zero {r : RampRun} (hb : 0 < r.beats) : rampPeriod r 0 = r.start := by
  have h := rampPeriod_sub hb (Nat.zero_le _)
  have hz : roundUpward 0 r.beats = 0 := by simpa using roundUpward_mul 0 hb
  rw [Nat.cast_zero, Int.mul_zero, roundAway_nonneg _ (le_refl 0), Int.natAbs_zero, hz] at h
  omega

theorem rampPeriod_last {r : RampRun} (hb : 0 < r.beats) : rampPeriod r r.beats = r.target := by
  have h := rampPeriod_sub hb (le_refl _)
  have habs : (((r.target : Int) - r.start) * r.beats).natAbs = ((r.target : Int) - r.start).natAbs * r.beats := by
    rw [Int.natAbs_mul, Int.natAbs_natCast]
  rcases Int.lt_or_le (((r.target : Int) - r.start) * r.beats) 0 with hn | hn
  · have : (r.target : Int) - r.start < 0 := by
      by_contra hc
      have := Int.mul_nonneg (Int.not_lt.mp hc) (show (0 : Int) ≤ r.beats by omega)
      omega
    rw [roundAway_neg _ hn, habs, roundUpward_mul _ hb] at h
    omega
  · have : 0 ≤ (r.target : Int) - r.start := by
      by_contra hc
      have := Int.mul_neg_of_neg_of_pos (Int.not_le.mp hc) (show (0 : Int) < r.beats by omega)
      omega
    rw [roundAway_nonneg _ hn, habs, roundUpward_mul _ hb] at h
    omega

/-! ## Ramp steps -/

/-- A SHOW beat that is no downbeat, behind its ramp step (R4, R15). -/
theorem exec_beatCommit_ramped {s m : State} {g : Governing} {t bar beat p : Nat} (hp : s.powered = true)
    (hst : s.clock.st = .running) (hn : s.clock.next = some { time := some t, kind := .beat bar beat })
    (hm : rampStep false (s.goTo (t - s.clock.lead)) = m) (hms : m.clock.st = .running) (hg : m.clock.gov = some g)
    (hmode : g.record.mode ≠ .conducted) (hper : m.clock.period = some p) (hat : NoAtBar bar beat m) :
    exec .beatCommit s = .next (beatCommitted
      (showWritten m.clock m.follower t bar beat (some p) (showNext (some (t + p)) g.record.meter bar beat))
      (showBeat g m.clock m.now t bar beat) m) := by
  have hc : (m.clock.st == ClockSt.countingIn) = false := by rw [hms]; rfl
  rw [exec_beatCommit hp (by rw [hst]; rfl) hn, reachBeat_beat (s := s.goTo (t - s.clock.lead)) hn, hm,
    commitAs_show t bar beat hg hmode hper, hc, afterCommit_beat, takeBeat_noAtBar (by exact hat)]

theorem rampStep_goes {s : State} {r : RampRun} {g : Governing} (hr : s.clock.ramp = some r) (hg : s.clock.gov = some g)
    (h : r.done + 1 < r.beats) : rampStep false s
      = takeRampPeriod g r (r.done + 1) { s with clock := { s.clock with ramp := some { r with done := r.done + 1 } } } := by
  have e : ∀ c : BeatClock, c.ramp = some r → c.gov = some g → rampStep false { s with clock := c }
      = takeRampPeriod g r (r.done + 1) { s with clock := { c with ramp := some { r with done := r.done + 1 } } } := by
    intro c hr hg
    simp only [rampStep, hr, hg, Bool.false_eq_true, if_false, if_pos h, State.setClock]
  exact e s.clock hr hg

theorem rampStep_ends {s : State} {r : RampRun} {g : Governing} (hr : s.clock.ramp = some r) (hg : s.clock.gov = some g)
    (h : r.beats ≤ r.done + 1) : rampStep false s
      = { s with clock := { s.clock with ramp := none, gov := some { g with marked := r.target } } } := by
  have hlt : ¬ r.done + 1 < r.beats := by omega
  simp only [rampStep, hr, hg, Bool.false_eq_true, if_false, if_neg hlt, State.setClock]

theorem takeRampPeriod_fixed {g : Governing} (r : RampRun) (i : Nat) (s : State) (hm : g.record.mode = .fixed) :
    takeRampPeriod g r i s = { s with clock := { s.clock with period := some (rampPeriod r (i + 1)) } } := by
  simp only [takeRampPeriod, hm]
  rfl

/-- The ramp step under FOLLOW: the band moves to the new period and the clock's shifts with it, clamped (R16). -/
theorem takeRampPeriod_follow {g : Governing} (r : RampRun) (i : Nat) {s : State} {p q : Nat} {band : Nat × Nat}
    {shifted : Int} (hm : g.record.mode = .follow) (hp : s.clock.period = some p)
    (hband : band = bandAround (rampPeriod r (i + 1)) g.record.band)
    (hs : shifted = (p : Int) + (rampPeriod r (i + 1) : Int) - (rampPeriod r i : Int))
    (hq : (q : Int) = max (band.1 : Int) (min (band.2 : Int) shifted)) :
    takeRampPeriod g r i s = { s with
      clock := { s.clock with period := some q }
      follower := { s.follower with band := some band, clamped := decide ((q : Int) ≠ shifted) } } := by
  have hc : clampInt band.1 band.2 shifted = q := by rw [clampInt, ← hq]; rfl
  have hper : (s.setFollower fun f => { f with band := some band }).periodNow = p := by
    rw [State.periodNow, show (s.setFollower fun f => { f with band := some band }).clock = s.clock from rfl, hp]; rfl
  simp only [takeRampPeriod, hm, followRampStep, ← hband, hper, ← hs, setClamped]
  rw [show bandOf (s.setFollower fun f => { f with band := some band }).follower = band from rfl, hc]
  rfl

/-- A stop takes a ramp under FIXED as completed (R16). -/
theorem clockStop_ramped {s : State} {g : Governing} {r : RampRun} (hb : s.clock.st.beats = true)
    (hg : s.clock.gov = some g) (hm : g.record.mode = .fixed) (hr : s.clock.ramp = some r) :
    (clockStop s).clock.st = .frozen ∧ (clockStop s).clock.ramp = none
      ∧ (clockStop s).clock.gov = some { g with marked := r.target } ∧ (clockStop s).clock.period = some r.target := by
  simp only [clockStop, hb, if_true, clockFreezes, endRamp, hr, hg, hm]
  exact ⟨rfl, rfl, rfl, rfl⟩

/-- A downbeat at which the ramp of a start begins (R19). -/
theorem commitDown_startsRamp {s : State} {g : Governing} {st : StartRun} {run : RampRun} (t : Nat)
    (hg : s.clock.gov = some g) (hm : g.record.mode = .fixed) (hp : s.clock.pendingRec = none)
    (hs : s.clock.start = some st) (hramp : st.ramp = true) (hr : s.clock.ramp = none)
    (hrun : rampRun g.record = some run) (hpos : 0 < run.beats) :
    commitDown t s = commitAs t (decideBar s.clock).1 1 .inShow { s with clock := { s.clock with
      ramp := some run, barSet := none, vamp := (decideBar s.clock).2, period := some (rampPeriod run 1) } } := by
  have hdone : run.done = 0 := by
    obtain ⟨ramp, -, h⟩ := Option.map_eq_some_iff.mp hrun
    rw [← h]
  have hb : ((s.clock.start.map (·.ramp)).getD false) = true := by rw [hs]; exact hramp
  have e : commitDown t s = commitAs t (decideBar s.clock).1 1 .inShow (rampStep true { s with clock := { s.clock with
      ramp := some run, barSet := none, vamp := (decideBar s.clock).2 } }) := by
    simp only [commitDown, hp, hg, hb, if_true, startRamp_fixed hm hr, hrun, Bool.or_true]
    rfl
  exact e.trans (congrArg (commitAs t _ 1 .inShow) (rampStep_starts (by exact rfl) (by exact hg) hm hdone hpos))

/-- The first bar of a resume start: a pending bar set, or the start's own. -/
theorem decideBar_fst_start {c : BeatClock} {st : StartRun} (hs : c.start = some st) :
    (decideBar c).1 = c.barSet.getD st.bar := by
  cases hb : c.barSet <;> simp [decideBar, hb, hs]

/-- A resume start without a count-in whose ramp begins at its first downbeat (R19, R169). -/
theorem started_ramped {s : State} {rec : TempoRecord} {run : RampRun} {bar first : Nat} (kind : CountInKind)
    (hm : rec.mode = .fixed) (hrun : rampRun rec = some run) (hpos : 0 < run.beats) (hpn : s.clock.pendingRec = none)
    (ha : s.clock.holdArmed = false) (ht : ∀ n, s.seq.timer ≠ .deferred n) (hat : NoAtBar (s.clock.barSet.getD bar) 1 s)
    (hfirst : first = s.now + s.clock.lead) (hsp : ∀ k, s.clock.spacing = some k → k + 100000 ≤ first) :
    ∃ u, started kind 0 (fun u => commitIfDue (startClock bar 0 (freshGoverning rec) true u)) s = withStop .run u
      ∧ u.clock.st = .running ∧ u.clock.gov = some (freshGoverning rec) ∧ u.clock.ramp = some run
      ∧ u.clock.period = some (rampPeriod run 1) ∧ (u.clock.next.bind (·.time)) = some (first + rampPeriod run 1)
      ∧ u.clock.position.bar = some (s.clock.barSet.getD bar) ∧ u.clock.position.beat = some 1
      ∧ u.clock.position.time = some first := by
  obtain ⟨m, em, mc, -, -, mr⟩ := startClock_spec bar 0 (freshGoverning rec) true s
  have q : ∀ {α : Type} (f : State → α), _ := fun f => congrArg f mr
  have hnow : m.now = s.now := q (·.now)
  have hseq : m.seq = s.seq := q (·.seq)
  have hstore : m.store = s.store := q (·.store)
  have hmode : (freshGoverning rec).record.mode = .fixed := hm
  have hcon : rec.mode ≠ .conducted := by rw [hm]; decide
  have hf : firstBeat s.now s.clock = first := by
    unfold firstBeat
    cases hx : s.clock.spacing with
    | none => simp [hfirst]
    | some k => have := hsp k hx; simp; omega
  have hramped : rec.ramp.isSome = true := by
    obtain ⟨ramp, h, -⟩ := Option.map_eq_some_iff.mp hrun
    rw [h]; rfl
  have hnext : m.clock.next = some { time := some first, kind := .down } := by
    rw [mc]; simp [orderStarted, freshGoverning, hcon, hf]
  have hstart : m.clock.start = some { bar := bar, beats := 0, ramp := true } := by
    rw [mc]; simp [orderStarted, freshGoverning, hramped]
  have hrun' : m.clock.st = .running := by rw [mc]; rfl
  have hbar : (decideBar m.clock).1 = s.clock.barSet.getD bar := by rw [decideBar_fst_start hstart, mc]; rfl
  have e : commitIfDue m = commitDown first m := by
    have hd : commitDue m = some (first - m.clock.lead) := by simp [commitDue, hrun', ClockSt.beats, hnext]
    have hle : first - m.clock.lead ≤ m.now := by
      rw [hnow, mc, show (orderStarted bar 0 (freshGoverning rec) true s.now s.clock).lead = s.clock.lead from rfl]
      omega
    simp only [commitIfDue, hd, if_pos hle, commitScheduled, hnext, Option.bind_some]
    rw [reachBeat_down hnext, reachDown_commits _ (by rw [mc]; exact ha) (by rw [mc]; simp [orderStarted, hpn])]
  rw [commitDown_startsRamp (g := freshGoverning rec) first (by rw [mc]; rfl) hmode (by rw [mc]; exact hpn) hstart rfl
      (by rw [mc]; rfl) hrun hpos,
    commitAs_show (g := freshGoverning rec) (p := rampPeriod run 1) first _ 1 (by rw [mc]; rfl)
      (by rw [hmode]; decide) rfl, hbar] at e
  have hc : (m.clock.st == ClockSt.countingIn) = false := by rw [hrun']; rfl
  simp only [hc] at e
  generalize hu : beatCommitted _ _ _ = u at e
  refine ⟨u, ?_, ?_⟩
  · have huseq : u.seq = s.seq := by rw [← hu, ← hseq]; rfl
    have hustore : u.store = s.store := by rw [← hu, ← hstore]; rfl
    simp only [started, if_true, em, e]
    rw [enterRun_undeferred (by rw [huseq]; exact ht), afterCommit_beat]
    refine takeBeat_noAtBar fun n hn c hc => hat n ?_ c ?_
    · exact (nextCue_congr (s := s) (u := withStop .run u) hustore (congrArg Sequencer.pointer huseq)
        (congrArg Sequencer.current huseq)) ▸ hn
    · rw [← hustore]; exact hc
  · rw [← hu, mc]
    exact ⟨rfl, rfl, rfl, rfl, rfl, rfl, rfl, rfl⟩

/-- Settles O33: the roundings, the downbeat where a ramp starts, its steps, its end, and the stop and the resume. -/
theorem periodsAndRamps : Obligations.PeriodsAndRamps := by
  refine ⟨⟨fun b h₁ h₂ => ?_, rfl, fun p q hq => ?_⟩, fun r i hb hi => ⟨rampPeriod_zero hb, rampPeriod_last hb, ?_⟩,
    fun s g rec ramp run t hp hst hg ha hpr hm hramp hpos hn hrun => ?_,
    fun s g r t bar beat p hp hst hg hr hper hn hat => ⟨fun hm hf => ⟨fun hlt => ?_, fun hle => ?_⟩,
      fun hm hf hw hlt band shifted q hband hshift hq => ?_⟩,
    fun s g r t hs hst hb hg hm hr => ?_,
    fun s rec ramp run r t held first desk hs he hst hd hr hz hrec hm hramp hpos hpn ha hw ht hat hfirst hsp hrun => ?_⟩
  · have := roundUpward_bounds 600000000 (show 0 < b by omega)
    obtain ⟨lo, hi⟩ := markedPeriod_range h₁ h₂
    rw [Nat.mul_assoc, show markedPeriod b = roundUpward 600000000 b from rfl] at *
    exact ⟨this.1, this.2, lo, hi⟩
  · have hc : clampNat Config.minPeriod Config.maxPeriod p = q := hq.symm
    have := roundUpward_bounds 600000000 (show 0 < q by omega)
    obtain ⟨lo, hi⟩ := displayedTempo_range (q := q) (by omega) (by omega)
    rw [Nat.mul_assoc, displayedTempo, hc]
    exact ⟨this.1, this.2, lo, hi⟩
  · intro step whole hstep hwhole
    rw [rampPeriod_sub hb hi, ← hwhole] at hstep
    obtain ⟨h₁, h₂⟩ := roundAway_near whole hb
    rw [← hstep] at h₁ h₂
    exact ⟨h₁, h₂⟩
  · have hrr : rampRun rec = some run := by rw [rampRun, hramp, hrun]; rfl
    obtain ⟨u, b, h, -, hk⟩ := exec_beatCommit_fixed hp hst hpr hm ha hn
      (.inr ⟨run, hrr, by rw [hrun]; exact hpos, rfl⟩)
    obtain ⟨-, -, -, kbeat, -, ktime, -, -, knext, kgov, kper, kramp⟩ := beatKept_parts hk
    refine ⟨u, h, kgov.trans ?_, kramp.trans hrr, kper, by rw [knext]; rfl, kbeat, ktime⟩
    simp only [showWritten, beatWritten, fixedTaken, freshGoverning, recordPeriod_fixed hm]
  · have e := (rampStep_goes (s := s.goTo (t - s.clock.lead)) hr hg hlt).trans (takeRampPeriod_fixed r _ _ hm)
    exact ⟨_, exec_beatCommit_ramped hp hst hn e hst hg (by rw [hm]; decide) rfl hat, rfl, windowsTaken_free _ hf⟩
  · have e := rampStep_ends (s := s.goTo (t - s.clock.lead)) hr hg hle
    exact ⟨_, exec_beatCommit_ramped (g := { g with marked := r.target }) hp hst hn e hst rfl (by rw [hm]; decide) hper hat,
      rfl, windowsTaken_free _ hf⟩
  · have e := (rampStep_goes (s := s.goTo (t - s.clock.lead)) hr hg hlt).trans
      (takeRampPeriod_follow r _ hm hper hband hshift hq)
    refine ⟨_, decide ((q : Int) ≠ shifted), exec_beatCommit_ramped hp hst hn e hst hg (by rw [hm]; decide) rfl hat,
      decide_eq_true_iff, rfl, ?_⟩
    exact (((windowsTaken_follower (f := { s.follower with band := some band, clamped := decide ((q : Int) ≠ shifted) })
      t 0 []).2 hf).1 hw).1
  · obtain ⟨k, hk, e⟩ := takeStop_first .host (s := s.goTo t) (by rw [State.goTo_stop, hst]; decide)
      (by rw [State.goTo_stop, hst]; rfl)
    obtain ⟨-, -, v, hv, hc⟩ := stopOrders_spec .host (p := stopPositionOf s.clock.position) (s := s.goTo t) (m := k)
      (by rw [hk]) (by rw [hk]; rfl)
    have hvs : v.clock = s.clock := hv
    obtain ⟨c₁, c₂, c₃, c₄⟩ := clockStop_ramped (s := v) (by rw [hvs]; exact hb) (by rw [hvs]; exact hg) hm
      (by rw [hvs]; exact hr)
    refine ⟨takeStop .host (s.goTo t), exec_answered hs rfl (f := reqStop) rfl, ?_⟩
    rw [e, hc]
    exact ⟨c₁, c₂, c₃, c₄⟩
  · generalize hm' : ({ s.goTo t with desk := if desk then { s.desk with go := true } else s.desk } : State) = m
    have hstop : m.stop = s.stop := by rw [← hm']; rfl
    have hclk : m.clock = s.clock := by rw [← hm']; rfl
    have hseq : m.seq = s.seq := by rw [← hm']; rfl
    have hdesk : m.desk.stop = s.desk.stop := by rw [← hm']; cases desk <;> rfl
    have hnow : m.now = max s.now t := by rw [← hm']; rfl
    have hstore : m.store = s.store := by rw [← hm']; rfl
    have hbase : (resumeBase m).clock = { s.clock with rebuildRec := none } := by rw [resumeBase, hclk]
    have hcue : nextCue (resumeBase m) = nextCue s := nextCue_congr hstore (congrArg Sequencer.pointer hseq)
      (congrArg Sequencer.current hseq)
    obtain ⟨u, e, us, ug, ur, up, un, ub, ube, ut⟩ := started_ramped (s := resumeBase m) (bar := r.bar) (first := first) .resume hm
      (run := run) (by rw [rampRun, hramp, hrun]; rfl) (by rw [hrun]; exact hpos) (by rw [hbase]; exact hpn)
      (by rw [hbase]; exact ha) (by exact hseq ▸ ht)
      (by
        intro n hn c hc
        rw [hcue] at hn
        rw [show (resumeBase m).store = s.store from hstore] at hc
        rw [hbase]
        exact hat n hn c hc)
      (by rw [hbase, show (resumeBase m).now = max s.now t from hnow]; exact hfirst) (by rw [hbase]; exact hsp)
    refine ⟨_, goTaken hs he hm'.symm (fun src => takeGo_ready src (by rw [hstop]; exact hst) (by rw [hdesk]; exact hd)) rfl, ?_⟩
    rw [resumeCountIn_usable (r := r) (by rw [hstop]; exact hr) (rec := rec) (by rw [hclk]; exact hrec)
      (by rw [hm]; decide), hseq, hz, e]
    exact ⟨rfl, us, ug.trans (by rw [freshGoverning, recordPeriod_fixed hm]), ur, up, un, ub.trans (by rw [hbase]), ube, ut⟩

end Sys2Proof.Proofs

namespace Sys2Proof.Proofs

open Sys2Proof Sys2Proof.Machine

/-! ## Masked fields -/

theorem masked_some {α β : Type} {read : α → Option β} {old x : β} {f : Option α} (h : masked read old f = some x) {a : α}
    (ha : f = some a) : read a = some x := by
  subst ha
  exact h

/-- A masked field is written where what is selected is read as `w` of it. -/
theorem masked_writes {α β : Type} {read : α → Option β} {old : β} {f : Option α} (w : α → β)
    (h : ∀ a, f = some a → read a = some (w a)) : masked read old f = some (written (f.map w) old) := by
  cases f with
  | none => rfl
  | some a => exact h a rfl

theorem masked_keeps {α : Type} {read : α → Option α} {old : α} {f : Option α} (h : ∀ a, f = some a → read a = some a) :
    masked read old f = some (written f old) := by
  rw [masked_writes id h, Option.map_id_fun, id]

/-- A masked field that is given by its place. -/
theorem masked_placed {β : Type} {read : Nat → Option β} {place : β → Nat} {old w : β} {f : Option Nat}
    (hp : ∀ w, read (place w) = some w) (h₀ : f = none → w = old) (h₁ : ∀ x, f = some x → x = place w) :
    masked read old f = some w := by
  cases f with
  | none => rw [h₀ rfl]; rfl
  | some x => rw [h₁ x rfl]; exact hp w

theorem readRange_in {lo hi n : Nat} (h : lo ≤ n ∧ n ≤ hi) : readRange lo hi n = some n := if_pos h

theorem readRange_inside {lo hi n x : Nat} (h : readRange lo hi n = some x) : lo ≤ n ∧ n ≤ hi := by
  unfold readRange at h
  split_ifs at h with hr
  exact hr

theorem readFlag_of {n : Nat} (h : n ≤ 1) : readFlag n = some (n == 1) := by
  match n, h with
  | 0, _ => rfl
  | 1, _ => rfl

theorem readFlag_some {n : Nat} {b : Bool} (h : readFlag n = some b) : n ≤ 1 := by
  match n, h with
  | 0, _ => decide
  | 1, _ => decide

theorem windowPlace_of {n : Nat} {w : LockedWindow} (h : readWindow n = some w) : windowPlace w = n := by
  unfold readWindow at h
  split at h <;> cases h <;> rfl

theorem constantPlace_of {n : Nat} {k : TimeConstant} (h : readConstant n = some k) : constantPlace k = n := by
  unfold readConstant at h
  split at h <;> cases h <;> rfl

/-! ## SHOW SET -/

/-- The values that a SHOW SET selects are in range (R107). -/
def ShowSetOk (f : RawShowSet) : Prop :=
  (∀ x, f.standbyRequired = some x → x ≤ 1) ∧ (∀ x, f.lookAhead = some x → x ≤ 4)
    ∧ (∀ x, f.lateThreshold = some x → 10 ≤ x ∧ x ≤ 1000) ∧ (∀ x, f.resumeCountIn = some x → x ≤ 2)
    ∧ (∀ x, f.holdCountIn = some x → x ≤ 2)

theorem readShowSet_writes {f : RawShowSet} (old : ShowSettings) (h : ShowSetOk f) : readShowSet f old = some {
    standbyRequired := written (f.standbyRequired.map (· == 1)) old.standbyRequired
    lookAhead := written f.lookAhead old.lookAhead
    lateThreshold := written f.lateThreshold old.lateThreshold
    resumeCountIn := written f.resumeCountIn old.resumeCountIn
    holdCountIn := written f.holdCountIn old.holdCountIn } := by
  obtain ⟨h₁, h₂, h₃, h₄, h₅⟩ := h
  have up : ∀ {hi : Nat} {g : Option Nat}, (∀ x, g = some x → x ≤ hi) → ∀ x, g = some x → readRange 0 hi x = some x :=
    fun h x hx => readRange_in ⟨Nat.zero_le _, h x hx⟩
  simp only [readShowSet, masked_writes (· == 1) fun x hx => readFlag_of (h₁ x hx), masked_keeps (up h₂),
    masked_keeps fun x hx => readRange_in (h₃ x hx), masked_keeps (up h₄), masked_keeps (up h₅)]
  rfl

theorem readShowSet_none {f : RawShowSet} (old : ShowSettings) (h : ¬ShowSetOk f) : readShowSet f old = none := by
  refine Option.eq_none_iff_forall_ne_some.mpr fun x hx => h ?_
  simp only [readShowSet, Option.bind_eq_bind, Option.bind_eq_some_iff] at hx
  obtain ⟨a, ha, b, hb, c, hc, d, hd, e, he, -⟩ := hx
  exact ⟨fun x hx => readFlag_some (masked_some ha hx), fun x hx => (readRange_inside (masked_some hb hx)).2,
    fun x hx => readRange_inside (masked_some hc hx), fun x hx => (readRange_inside (masked_some hd hx)).2,
    fun x hx => (readRange_inside (masked_some he hx)).2⟩

theorem not_selected {a b : Bool} (h : a = false ∨ b = false) : ¬(a = true ∧ b = true) := by
  rintro ⟨rfl, rfl⟩
  simp at h

theorem reqShowSet_busy {f : RawShowSet} {s : State} (h₁ : s.storing = true) (h₂ : RawShowSet.selects f = true) :
    reqShowSet f s = (s, { status := .busy, body := showItems s.seq.settings }) := if_pos ⟨h₁, h₂⟩

theorem reqShowSet_range {f : RawShowSet} {s : State} (h : s.storing = false ∨ RawShowSet.selects f = false)
    (hr : readShowSet f s.seq.settings = none) :
    reqShowSet f s = (s, { status := .range, body := showItems s.seq.settings }) := by
  rw [reqShowSet, if_neg (not_selected h), hr]

theorem reqShowSet_taken {f : RawShowSet} {s : State} {x : ShowSettings} (h : s.storing = false ∨ RawShowSet.selects f = false)
    (hr : readShowSet f s.seq.settings = some x) :
    reqShowSet f s = (if x.lookAhead = s.seq.settings.lookAhead then { s with seq := { s.seq with settings := x } }
      else handOver { s with seq := { s.seq with settings := x } }, okWith (showItems x)) := by
  rw [reqShowSet, if_neg (not_selected h), hr]
  rfl

/-- What a SHOW SET with the settings `x` makes of the state (R104, R107). -/
theorem showSet_taken (x : ShowSettings) (s : State) : ∃ u : State,
    (if x.lookAhead = s.seq.settings.lookAhead then { s with seq := { s.seq with settings := x } }
      else handOver { s with seq := { s.seq with settings := x } }) = u
      ∧ u.seq.settings = x ∧ { u.seq with settings := s.seq.settings, ahead := s.seq.ahead } = s.seq
      ∧ (u.seq.settings.lookAhead = s.seq.settings.lookAhead → u = { s with seq := u.seq } ∧ u.seq.ahead = s.seq.ahead)
      ∧ (u.seq.settings.lookAhead ≠ s.seq.settings.lookAhead → u.seq.ahead = lookAhead u ∧ ∀ i, TargetsHanded i s u)
      ∧ (∀ k, k ≠ 1 → u.attention[k]? = s.attention[k]?)
      ∧ { u with seq := s.seq, stations := s.stations, attention := s.attention } = s := by
  by_cases h : x.lookAhead = s.seq.settings.lookAhead
  · refine ⟨_, if_pos h, rfl, rfl, fun _ => ⟨rfl, rfl⟩, fun hn => absurd h hn, fun _ _ => rfl, rfl⟩
  · rw [if_neg h]
    obtain ⟨st, att, e, -, ha⟩ := handOver_eq { s with seq := { s.seq with settings := x } }
    have ht : ∀ i, TargetsHanded i s (handOver { s with seq := { s.seq with settings := x } }) := fun i =>
      (targetsHanded_handOver i _).from (fun h => h) (fun _ => rfl) rfl rfl
    generalize handOver _ = u at *
    subst e
    exact ⟨_, rfl, rfl, rfl, fun he => absurd he h,
      fun _ => ⟨lookAhead_congr (s := { s with seq := { s.seq with settings := x } }) rfl rfl rfl rfl |>.symm, ht⟩, ha, rfl⟩

/-! ## FOLLOW SET -/

/-- The values that a FOLLOW SET selects are in range (R49). -/
def FollowSetOk (f : RawFollowSet) : Prop :=
  (∀ x, f.window = some x → x ≤ 1) ∧ (∀ x, f.constant = some x → x ≤ 3) ∧ ∀ x, f.m = some x → 1 ≤ x ∧ x ≤ 8

theorem readFollowSet_none {f : RawFollowSet} (old : FollowSettings) (h : ¬FollowSetOk f) : readFollowSet f old = none := by
  refine Option.eq_none_iff_forall_ne_some.mpr fun x hx => h ?_
  simp only [readFollowSet, Option.bind_eq_bind, Option.bind_eq_some_iff] at hx
  obtain ⟨a, ha, b, hb, c, hc, -⟩ := hx
  exact ⟨fun x hx => windowPlace_of (masked_some ha hx) ▸ (by cases a <;> decide),
    fun x hx => constantPlace_of (masked_some hb hx) ▸ (by cases b <;> decide), fun x hx => readRange_inside (masked_some hc hx)⟩

theorem readFollowSet_writes {f : RawFollowSet} {old : FollowSettings} {w : LockedWindow} {k : TimeConstant}
    (hw : masked readWindow old.window f.window = some w) (hk : masked readConstant old.constant f.constant = some k)
    (hm : ∀ x, f.m = some x → 1 ≤ x ∧ x ≤ 8) :
    readFollowSet f old = some { window := w, constant := k, m := written f.m old.m } := by
  simp only [readFollowSet, hw, hk, masked_keeps fun x hx => readRange_in (hm x hx)]
  rfl

theorem adaptiveChange_stays {old new : TimeConstant} (f : Follower) (h : new = old ∨ new ≠ .adaptive ∧ old ≠ .adaptive) :
    adaptiveChange old new f = f := by
  rcases h with h | ⟨h₁, h₂⟩
  · exact if_pos h.symm
  · simp [adaptiveChange, h₁, h₂]

theorem adaptiveChange_enters {old new : TimeConstant} (f : Follower) (h : new = .adaptive) (ho : old ≠ .adaptive) :
    adaptiveChange old new f = { f with active := .normal, fastLeft := 0, push := none } := by
  subst h
  simp [adaptiveChange, ho]

theorem adaptiveChange_leaves {old new : TimeConstant} (f : Follower) (h : new ≠ .adaptive) (ho : old = .adaptive) :
    adaptiveChange old new f = { f with fastLeft := 0, push := none } := by
  subst ho
  simp [adaptiveChange, h, Ne.symm h]

theorem adaptiveChange_rest (old new : TimeConstant) (f : Follower) :
    { adaptiveChange old new f with active := f.active, fastLeft := f.fastLeft, push := f.push } = f := by
  unfold adaptiveChange
  split_ifs <;> rfl

theorem reqFollowSet_busy {f : RawFollowSet} {s : State} (h₁ : s.storing = true) (h₂ : RawFollowSet.selects f = true) :
    reqFollowSet f s = (s, { status := .busy, body := followItems s.follower.settings }) := if_pos ⟨h₁, h₂⟩

theorem reqFollowSet_taken {f : RawFollowSet} {s : State} {x : FollowSettings}
    (h : s.storing = false ∨ RawFollowSet.selects f = false) (hr : readFollowSet f s.follower.settings = some x) :
    ∃ v, v = { adaptiveChange s.follower.settings.constant x.constant s.follower with settings := x }
      ∧ reqFollowSet f s = (judgeWindow { s with follower := v }, okWith (followItems v.settings)) := by
  refine ⟨_, rfl, ?_⟩
  rw [reqFollowSet, if_neg (not_selected h), hr]
  rfl

/-- A window whose end is not past stays as it is (R34). -/
theorem judgeWindow_stays {s : State} (h : s.follower.st = .free ∨ ∀ l, s.follower.last = some l → l.isOpen = true →
    s.now ≤ l.time + halfWidth s.follower (s.clock.period.getD 0)) : judgeWindow s = s := by
  by_cases hf : s.follower.st = .free
  · have hd : windowCloseDue s = none := by
      unfold windowCloseDue
      cases s.follower.last <;> simp [keepsWindows, hf]
    simp only [judgeWindow, hd]
  · cases hl : s.follower.last with
    | none => simp only [judgeWindow, windowCloseDue, hl]
    | some l =>
      cases ho : l.isOpen with
      | false =>
        have hd : windowCloseDue s = none := by simp [windowCloseDue, hl, ho]
        simp only [judgeWindow, hd]
      | true =>
        have hle := h.resolve_left hf l hl ho
        simp only [judgeWindow, windowCloseDue_open hf hl ho]
        rw [if_neg (by omega)]

/-- A window that W has left behind closes at once (R34, R49). -/
theorem judgeWindow_closes {s : State} {l : LastBeat} (hf : s.follower.st ≠ .free) (hl : s.follower.last = some l)
    (ho : l.isOpen = true) (h : l.time + halfWidth s.follower (s.clock.period.getD 0) < s.now) :
    judgeWindow s = { s with follower := windowClosed l s.follower, attention := closedAttention l s.follower s.now s.attention } := by
  simp only [judgeWindow, windowCloseDue_open hf hl ho]
  rw [if_pos (by omega), closeWindow_open hl ho]

/-! ## CLOCK SET -/

theorem reqClockSet_taken {s : State} {c : Nat} (h : s.storing = false) (hc : c ≤ 100000) :
    reqClockSet (some c) s = (setLead c s, okWith [.num 3 c]) := by
  have : ¬ Config.maxLead < c := by rw [Config.maxLead]; omega
  simp only [reqClockSet, h, Bool.false_eq_true, if_false, if_neg this]

/-- A beat that is not due under the new lead waits (R7). -/
theorem setLead_waits {s : State} {c : Nat}
    (h : s.clock.st.beats = true → ∀ x, (s.clock.next.bind (·.time)) = some x → s.now + c < x) :
    setLead c s = { s with clock := { s.clock with lead := c } } := by
  have e : commitIfDue (s.setClock fun k => { k with lead := c }) = (s.setClock fun k => { k with lead := c }, .nothing) := by
    refine commitIfDue_early fun d hd => ?_
    unfold commitDue at hd
    split at hd
    next hb =>
      obtain ⟨x, hx, rfl⟩ := Option.map_eq_some_iff.mp hd
      have := h hb x hx
      show s.now < x - c
      omega
    · cases hd
  rw [setLead, e]
  rfl

/-- A beat that has become due under the new lead is committed at once (R7). -/
theorem setLead_commits {s : State} {g : Governing} {c p x bar beat : Nat} (hst : s.clock.st = .running)
    (hg : s.clock.gov = some g) (hm : g.record.mode = .fixed) (hf : s.follower.st = .free) (hr : s.clock.ramp = none)
    (hp : s.clock.period = some p) (hn : s.clock.next = some { time := some x, kind := .beat bar beat })
    (hx : x ≤ s.now + c) (hat : NoAtBar bar beat s) :
    setLead c s = { s with
      clock := showWritten { s.clock with lead := c } s.follower x bar beat (some p)
        (showNext (some (x + p)) g.record.meter bar beat)
      channels := s.channels.map (scheduleChannel (showBeat g s.clock s.now x bar beat) c)
      video := flashed s.now c x false (beatContent s.clock bar beat .inShow s.clock.period) s.video } := by
  have hc : (s.clock.st == ClockSt.countingIn) = false := by rw [hst]; rfl
  have hd : commitDue (s.setClock fun k => { k with lead := c }) = some (x - c) := by
    simp [commitDue, State.setClock, hst, ClockSt.beats, hn]
  have e : commitIfDue (s.setClock fun k => { k with lead := c }) = reachBeat x (s.setClock fun k => { k with lead := c }) := by
    have hle : x - c ≤ (s.setClock fun k => { k with lead := c }).now := by
      show x - c ≤ s.now
      omega
    have hn' : (s.setClock fun k => { k with lead := c }).clock.next = some { time := some x, kind := .beat bar beat } := hn
    simp only [commitIfDue, hd, if_pos hle, commitScheduled, hn', Option.bind_some]
  rw [setLead, e, reachBeat_beat (s := s.setClock fun k => { k with lead := c }) hn,
    rampStep_none (s := s.setClock fun k => { k with lead := c }) false hr,
    commitAs_show (s := s.setClock fun k => { k with lead := c }) x bar beat hg (by rw [hm]; decide) hp,
    show ((s.setClock fun k => { k with lead := c }).clock.st == ClockSt.countingIn) = false from hc, afterCommit_beat,
    beatCommitted_free (s := s.setClock fun k => { k with lead := c }) hf]
  exact takeBeat_noAtBar (by exact hat)

theorem reqVampRelease_none {s : State} (h : s.clock.vamp = none) : reqVampRelease s = (s, refuse .notFound) := by
  simp only [reqVampRelease, h]

theorem reqVampRelease_some {s : State} {v : Vamp} (h : s.clock.vamp = some v) : reqVampRelease s
    = ({ s with clock := { s.clock with vamp := some { v with release := true } } }, okWith []) := by
  simp only [reqVampRelease, h]
  rfl

/-- Settles O38: each request busy, out of range, and taken. -/
theorem showSettingsAreWritten : Obligations.ShowSettingsAreWritten := by
  refine ⟨fun s t f hs => ⟨fun h₁ h₂ => ?_, fun h hr => ?_, fun h h₁ h₂ h₃ h₄ h₅ => ?_⟩,
    fun s t f hs => ⟨fun h₁ h₂ => ?_, fun h hr => ?_, fun h w k hw hk hm => ?_⟩,
    fun s t hs => ⟨?_, fun c h => ?_, fun c h hc => ?_, fun c h hc hn => ?_,
      fun c g p x bar beat h hc hst hg hm hf hr hp hn hx hat => ?_, fun h => ?_, fun v h => ?_⟩⟩
  · exact exec_answered hs rfl (reqShowSet_busy (s := s.goTo t) h₁ h₂)
  · exact exec_answered hs rfl (reqShowSet_range (s := s.goTo t) h (readShowSet_none _ hr))
  · have hx := readShowSet_writes s.seq.settings ⟨h₁, h₂, h₃, h₄, h₅⟩
    obtain ⟨u, e, hset, rest⟩ := showSet_taken _ (s.goTo t)
    have hreq := reqShowSet_taken (s := s.goTo t) h hx
    rw [e] at hreq
    refine ⟨u, ?_, hset, rest⟩
    rw [hset]
    exact exec_answered hs rfl hreq
  · exact exec_answered hs rfl (reqFollowSet_busy (s := s.goTo t) h₁ h₂)
  · refine exec_answered hs rfl (u := s.goTo t) (a := { status := .range, body := followItems s.follower.settings }) ?_
    have hno : readFollowSet f s.follower.settings = none := readFollowSet_none _ (by
      rintro ⟨a, b, c⟩
      rcases hr with ⟨x, hx, hlt⟩ | ⟨x, hx, hlt⟩ | ⟨x, hx, hlt⟩
      · exact absurd (a x hx) (by omega)
      · exact absurd (b x hx) (by omega)
      · exact hlt (c x hx))
    rw [reqFollowSet, if_neg (not_selected (a := (s.goTo t).storing) h), State.goTo_follower, hno]
  · have hx := readFollowSet_writes (f := f) (old := s.follower.settings)
      (masked_placed (w := w) (place := windowPlace) (fun w => by cases w <;> rfl) (fun h => by simp only [h] at hw; exact hw)
        (fun x h => by simp only [h] at hw; exact hw))
      (masked_placed (w := k) (place := constantPlace) (fun k => by cases k <;> rfl) (fun h => by simp only [h] at hk; exact hk)
        (fun x h => by simp only [h] at hk; exact hk)) hm
    have hv := adaptiveChange_rest s.follower.settings.constant k s.follower
    have p : ∀ {α : Type} (g : Follower → α), _ := fun g => congrArg g hv
    obtain ⟨v, hvdef, e⟩ := reqFollowSet_taken (s := s.goTo t) h hx
    replace e := exec_answered hs (c := .followSet t f) rfl e
    rw [State.goTo_follower] at hvdef
    have hvset : v.settings = { window := w, constant := k, m := written f.m s.follower.settings.m } := by rw [hvdef]
    have hst : v.st = s.follower.st := by rw [hvdef]; exact p (·.st)
    have hlast : v.last = s.follower.last := by rw [hvdef]; exact p (·.last)
    refine ⟨_, v, e, hvset, ?_, fun h => ?_, fun h₁ h₂ => ?_, fun h₁ h₂ => ?_, fun h => ?_, fun l hf hl ho hlt => ?_, ?_⟩
    · rw [hvdef]
      exact congrArg (fun x : Follower => { x with settings := s.follower.settings }) hv
    · rw [hvdef, adaptiveChange_stays _ h]
    · rw [hvdef, adaptiveChange_enters _ h₁ h₂]; exact ⟨rfl, rfl, rfl⟩
    · rw [hvdef, adaptiveChange_leaves _ h₁ h₂]; exact ⟨rfl, rfl, rfl⟩
    · rw [judgeWindow_stays (s := { s.goTo t with follower := v }) (by rw [hst, hlast]; exact h)]
      exact ⟨rfl, rfl⟩
    · rw [judgeWindow_closes (s := { s.goTo t with follower := v }) (l := l) (by rw [hst]; exact hf) (by rw [hlast]; exact hl)
        ho hlt]
      exact ⟨rfl, rfl⟩
    · exact congrArg (fun x : State => { x with follower := s.follower, attention := s.attention })
        (sansFollower_judgeWindow { s.goTo t with follower := v })
  · exact exec_told hs rfl rfl
  · exact exec_refused hs rfl (if_pos h)
  · refine exec_refused hs rfl (f := reqClockSet (some c)) ?_
    have hlt : Config.maxLead < c := hc
    have h' : (s.goTo t).storing = false := h
    simp only [reqClockSet, h', Bool.false_eq_true, if_false, if_pos hlt]
  · refine exec_answered hs rfl (f := reqClockSet (some c)) (a := okWith [.num 3 c]) ?_
    rw [reqClockSet_taken (s := s.goTo t) h hc, setLead_waits (s := s.goTo t) hn]
    rfl
  · have e := (reqClockSet_taken (s := s.goTo t) h hc).trans
      (congrArg (·, okWith [.num 3 c]) (setLead_commits (s := s.goTo t) hst hg hm hf hr hp hn hx hat))
    refine ⟨_, exec_answered hs rfl (f := reqClockSet (some c)) e, rfl, rfl, ?_, rfl⟩
    rw [← hp]
    rfl
  · exact exec_refused hs rfl (reqVampRelease_none (s := s.goTo t) h)
  · exact exec_answered hs rfl (reqVampRelease_some (s := s.goTo t) h)

end Sys2Proof.Proofs

namespace Sys2Proof.Proofs

open Sys2Proof Sys2Proof.Machine

/-! ## CHANNEL SET -/

theorem accentPlace_of {n : Nat} {a : AccentMode} (h : readAccent n = some a) : accentPlace a = n := by
  unfold readAccent at h
  split at h <;> cases h <;> rfl

theorem overridePlace_of {n : Nat} {o : Override} (h : readOverride n = some o) : o.place = n := by
  unfold readOverride at h
  split at h <;> cases h <;> rfl

theorem readLevel_inside {l : Int} {x : Nat} (h : readLevel l = some x) : -60 ≤ l ∧ l ≤ 0 := by
  unfold readLevel at h
  split_ifs at h with hl
  exact hl

/-- The values that a CHANNEL SET selects are in range (R65). -/
def ChannelSetOk (f : RawChannelSet) : Prop :=
  (∀ x, f.accent = some x → x ≤ 2) ∧ (∀ l, f.level = some l → -60 ≤ l ∧ l ≤ 0) ∧ (∀ x, f.lead = some x → x ≤ 100000)
    ∧ (∀ x, f.countIn = some x → x ≤ 1) ∧ (∀ x, f.toneSet = some x → 1 ≤ x ∧ x ≤ 4) ∧ ∀ x, f.override = some x → x ≤ 2

theorem readChannelSet_none {f : RawChannelSet} (old : ChannelSettings) (o : Override) (h : ¬ChannelSetOk f) :
    readChannelSet f old o = none := by
  refine Option.eq_none_iff_forall_ne_some.mpr fun x hx => h ?_
  simp only [readChannelSet, Option.bind_eq_bind, Option.bind_eq_some_iff] at hx
  obtain ⟨a, ha, b, hb, c, hc, d, hd, e, he, g, hg, -⟩ := hx
  exact ⟨fun x hx => accentPlace_of (masked_some ha hx) ▸ (by cases a <;> decide),
    fun l hl => readLevel_inside (masked_some hb hl), fun x hx => (readRange_inside (masked_some hc hx)).2,
    fun x hx => readFlag_some (masked_some hd hx), fun x hx => readRange_inside (masked_some he hx),
    fun x hx => overridePlace_of (masked_some hg hx) ▸ (by cases g <;> decide)⟩

theorem readChannelSet_writes {f : RawChannelSet} {old : ChannelSettings} {override o : Override} {a : AccentMode}
    (ha : masked readAccent old.accent f.accent = some a) (ho : masked readOverride override f.override = some o)
    (hl : ∀ l, f.level = some l → -60 ≤ l ∧ l ≤ 0) (hlead : ∀ x, f.lead = some x → x ≤ 100000)
    (hc : ∀ x, f.countIn = some x → x ≤ 1) (ht : ∀ x, f.toneSet = some x → 1 ≤ x ∧ x ≤ 4) :
    readChannelSet f old override = some ({
      accent := a, down := written (f.level.map fun l => (-l).toNat) old.down, lead := written f.lead old.lead
      countIn := written (f.countIn.map (· == 1)) old.countIn, toneSet := written f.toneSet old.toneSet }, o) := by
  simp only [readChannelSet, ha, ho, masked_writes (read := readLevel) (fun l => (-l).toNat) fun l h => if_pos (hl l h),
    masked_keeps fun x hx => readRange_in ⟨Nat.zero_le _, hlead x hx⟩, masked_writes (· == 1) fun x hx => readFlag_of (hc x hx),
    masked_keeps fun x hx => readRange_in (ht x hx)]
  rfl

theorem reqChannelSet_outside {n : Nat} {f : RawChannelSet} {s : State} (h : ¬(1 ≤ n ∧ n ≤ 16))
    (hb : s.storing = false ∨ RawChannelSet.selectsStored f = false) : reqChannelSet n f s = (s, refuse .range) := by
  simp only [reqChannelSet, readChannel_none h, if_neg (not_selected hb)]

theorem reqChannelSet_busy {n : Nat} {f : RawChannelSet} {s : State} {i : Fin 16} (h : readChannel n = some i)
    (h₁ : s.storing = true) (h₂ : RawChannelSet.selectsStored f = true) :
    reqChannelSet n f s = (s, { status := .busy, body := channelItems i s }) := by
  simp only [reqChannelSet, h, if_pos (And.intro h₁ h₂)]

theorem reqChannelSet_range {n : Nat} {f : RawChannelSet} {s : State} {i : Fin 16} (h : readChannel n = some i)
    (hb : s.storing = false ∨ RawChannelSet.selectsStored f = false)
    (hr : readChannelSet f (s.channel i).settings (s.channel i).override = none) :
    reqChannelSet n f s = (s, { status := .range, body := channelItems i s }) := by
  simp only [reqChannelSet, h, if_neg (not_selected hb), hr]

theorem reqChannelSet_taken {n : Nat} {f : RawChannelSet} {s : State} {i : Fin 16} {x : ChannelSettings} {o : Override}
    (h : readChannel n = some i) (hb : s.storing = false ∨ RawChannelSet.selectsStored f = false)
    (hr : readChannelSet f (s.channel i).settings (s.channel i).override = some (x, o)) :
    reqChannelSet n f s = (drainReport (s.setChannel i (writeChannel x o)),
      okWith (channelItems i (drainReport (s.setChannel i (writeChannel x o))))) := by
  simp only [reqChannelSet, h, if_neg (not_selected hb), hr]

/-- A drained hold is reported (R61, R159). -/
theorem drainReport_eq (s : State) : drainReport s = { s with
    stop := if s.stop.st = .holding .draining ∧ s.channels.all (fun c => c.bursts.isEmpty) = true then
        { s.stop with st := .held } else s.stop
    video := if s.stop.st = .holding .draining ∧ s.channels.all (fun c => c.bursts.isEmpty) = true then
        { s.video with content := { s.video.content with stopState := .held } } else s.video } := by
  by_cases h : s.stop.st = .holding .draining
  · by_cases hd : drained s = true
    · have hd' : s.channels.all (fun c => c.bursts.isEmpty) = true := hd
      rw [if_pos ⟨h, hd'⟩, if_pos ⟨h, hd'⟩]
      simp only [drainReport, h, hd, if_true]
      rfl
    · have hd' : ¬ s.channels.all (fun c => c.bursts.isEmpty) = true := hd
      rw [if_neg fun c => hd' c.2, if_neg fun c => hd' c.2]
      simp only [drainReport, h, hd]
      rfl
  · rw [if_neg fun c => h c.1, if_neg fun c => h c.1]
    unfold drainReport
    split
    · exact absurd ‹_› h
    · rfl

theorem drainReport_stop_eq (s : State) : (drainReport s).stop = s.stop
    ↔ ¬(s.stop.st = .holding .draining ∧ s.channels.all (fun c => c.bursts.isEmpty) = true) := by
  rw [drainReport_eq]
  dsimp only
  split
  next h => exact ⟨fun e => by rw [← e] at h; exact absurd h.1 (by simp), fun hn => absurd h hn⟩
  next h => exact ⟨fun _ => h, fun _ => rfl⟩

theorem drainReport_video (s : State) : (drainReport s).video = if (drainReport s).stop = s.stop then s.video
    else { s.video with content := { s.video.content with stopState := .held } } := by
  by_cases h : s.stop.st = .holding .draining ∧ s.channels.all (fun c => c.bursts.isEmpty) = true
  · rw [if_neg (fun e => (drainReport_stop_eq s).mp e h), drainReport_eq, if_pos h, if_pos h]
  · rw [if_pos ((drainReport_stop_eq s).mpr h), drainReport_eq, if_neg h, if_neg h]

theorem channel_setChannel_same {s : State} (i : Fin 16) (f : Channel → Channel) (h : s.channels.length = 16) :
    (s.setChannel i f).channel i = f (s.channel i) := by
  have hi : i.val < s.channels.length := by omega
  simp [State.setChannel, State.channel, List.getD_eq_getElem?_getD, hi]

theorem channel_setChannel_other (s : State) {i j : Fin 16} (f : Channel → Channel) (h : j ≠ i) :
    (s.setChannel i f).channel j = s.channel j := by
  have hne : i.val ≠ j.val := fun e => h (Fin.ext e.symm)
  simp [State.setChannel, State.channel, List.getD_eq_getElem?_getD, hne]

/-! ## VIDEO SET -/

theorem rateSettingPlace_of {n : Nat} {r : RateSetting} (h : readRateSetting n = some r) : rateSettingPlace r = n := by
  unfold readRateSetting at h
  split at h <;> cases h <;> rfl

theorem lineConstantPlace_of {n : Nat} {k : LineConstant} (h : readLineConstant n = some k) : lineConstantPlace k = n := by
  unfold readLineConstant at h
  split at h <;> cases h <;> rfl

theorem stylePlace_of {n : Nat} {x : FlashStyle} (h : readStyle n = some x) : stylePlace x = n := by
  unfold readStyle at h
  split at h <;> cases h <;> rfl

theorem readElements_inside {n : Nat} {x : Elements} (h : readElements n = some x) : n < 64 := by
  unfold readElements at h
  split_ifs at h with hn
  exact hn

/-- The set of elements reads back from its number (R147, R187). -/
theorem readElements_number (e : Elements) : readElements (elementsNumber e) = some e := by
  obtain ⟨b₀, b₁, b₂, b₃, b₄, b₅⟩ := e
  revert b₀ b₁ b₂ b₃ b₄ b₅
  decide

/-- The values that a VIDEO SET selects are in range (R153). -/
def VideoSetOk (f : RawVideoSet) : Prop :=
  ((∀ x, f.rate = some x → x ≤ 2) ∧ (∀ x, f.constant = some x → x ≤ 2) ∧ ∀ x, f.delay = some x → x ≤ 200000)
    ∧ ((∀ x, f.pitElements = some x → x < 64) ∧ ∀ x, f.stageElements = some x → x < 64)
    ∧ ((∀ x, f.pitStyle = some x → x ≤ 1) ∧ ∀ x, f.stageStyle = some x → x ≤ 1)
    ∧ (∀ x, f.pitLength = some x → 1 ≤ x ∧ x ≤ 4) ∧ ∀ x, f.stageLength = some x → 1 ≤ x ∧ x ≤ 4

theorem readVideoSet_none {f : RawVideoSet} (old : VideoSettings) (h : ¬VideoSetOk f) : readVideoSet f old = none := by
  refine Option.eq_none_iff_forall_ne_some.mpr fun x hx => h ?_
  simp only [readVideoSet, Option.bind_eq_bind, Option.bind_eq_some_iff] at hx
  obtain ⟨r, hr, k, hk, d, hd, pe, hpe, se, hse, ps, hps, ss, hss, pl, hpl, sl, hsl, -⟩ := hx
  exact ⟨⟨fun x hx => rateSettingPlace_of (masked_some hr hx) ▸ (by cases r <;> decide),
      fun x hx => lineConstantPlace_of (masked_some hk hx) ▸ (by cases k <;> decide),
      fun x hx => (readRange_inside (masked_some hd hx)).2⟩,
    ⟨fun x hx => readElements_inside (masked_some hpe hx), fun x hx => readElements_inside (masked_some hse hx)⟩,
    ⟨fun x hx => stylePlace_of (masked_some hps hx) ▸ (by cases ps <;> decide),
      fun x hx => stylePlace_of (masked_some hss hx) ▸ (by cases ss <;> decide)⟩,
    fun x hx => readRange_inside (masked_some hpl hx), fun x hx => readRange_inside (masked_some hsl hx)⟩

theorem readVideoSet_writes {f : RawVideoSet} {old : VideoSettings} {r : RateSetting} {k : LineConstant} {pe se : Elements}
    {ps ss : FlashStyle} (hr : masked readRateSetting old.rate f.rate = some r)
    (hk : masked readLineConstant old.constant f.constant = some k)
    (hpe : masked readElements old.pit.elements f.pitElements = some pe)
    (hse : masked readElements old.stage.elements f.stageElements = some se)
    (hps : masked readStyle old.pit.style f.pitStyle = some ps) (hss : masked readStyle old.stage.style f.stageStyle = some ss)
    (hd : ∀ x, f.delay = some x → x ≤ 200000) (hpl : ∀ x, f.pitLength = some x → 1 ≤ x ∧ x ≤ 4)
    (hsl : ∀ x, f.stageLength = some x → 1 ≤ x ∧ x ≤ 4) : readVideoSet f old = some {
      rate := r, constant := k, delay := written f.delay old.delay
      pit := { elements := pe, style := ps, length := written f.pitLength old.pit.length }
      stage := { elements := se, style := ss, length := written f.stageLength old.stage.length } } := by
  simp only [readVideoSet, hr, hk, hpe, hse, hps, hss,
    masked_keeps fun x hx => readRange_in ⟨Nat.zero_le _, hd x hx⟩, masked_keeps fun x hx => readRange_in (hpl x hx),
    masked_keeps fun x hx => readRange_in (hsl x hx)]
  rfl

theorem reqVideoSet_busy {f : RawVideoSet} {s : State} (h₁ : s.storing = true) (h₂ : RawVideoSet.selects f = true) :
    reqVideoSet f s = (s, { status := .busy, body := videoItems s.video.settings }) := if_pos ⟨h₁, h₂⟩

theorem reqVideoSet_range {f : RawVideoSet} {s : State} (h : s.storing = false ∨ RawVideoSet.selects f = false)
    (hr : readVideoSet f s.video.settings = none) :
    reqVideoSet f s = (s, { status := .range, body := videoItems s.video.settings }) := by
  rw [reqVideoSet, if_neg (not_selected h), hr]

theorem reqVideoSet_taken {f : RawVideoSet} {s : State} {x : VideoSettings} (h : s.storing = false ∨ RawVideoSet.selects f = false)
    (hr : readVideoSet f s.video.settings = some x) :
    reqVideoSet f s = (if x.rate = s.video.settings.rate then { s with video := { s.video with settings := x } }
      else applyRateSetting { s with video := { s.video with settings := x } }, okWith (videoItems x)) := by
  rw [reqVideoSet, if_neg (not_selected h), hr]
  rfl

theorem applyRateSetting_unlocked {s : State} (h : s.video.genlock = .noSignal ∨ s.video.genlock = .lineSeek) :
    applyRateSetting s = s := by
  rcases h with h | h <;> simp only [applyRateSetting, h]

theorem applyRateSetting_locked_accepts {s : State} {x : Rate} (h : s.video.genlock = .locked)
    (hx : s.video.lockedRate = some x) (ha : acceptsRate s.video.settings.rate x = true) : applyRateSetting s = s := by
  simp only [applyRateSetting, h, hx, Option.map_some, Option.getD_some, ha, if_true]

/-- LOCKED is left where the rate setting no longer accepts the locked rate (R143). -/
theorem applyRateSetting_locked_leaves {s : State} (h : s.video.genlock = .locked)
    (ha : ∀ x, s.video.lockedRate = some x → acceptsRate s.video.settings.rate x = false) :
    applyRateSetting s = raise (.videoLock .fieldSeek) { s with video := lockLeft 0 none s.video } := by
  have hb : (s.video.lockedRate.map (acceptsRate s.video.settings.rate)).getD false = false := by
    cases hx : s.video.lockedRate with
    | none => rfl
    | some x => exact ha x hx
  have e : applyRateSetting s = leaveLocked 0 none s := by
    simp only [applyRateSetting, h, hb, Bool.false_eq_true, if_false]
  rw [e]
  have hne : (Genlock.locked = Genlock.fieldSeek) = False := by simp
  simp only [leaveLocked, genlockGoes, State.setVideo, h, hne, if_false]
  rfl

theorem applyRateSetting_seek_accepts {s : State} (h : s.video.genlock = .fieldSeek)
    (ha : ∀ x, s.video.fieldRate = some x → acceptsRate s.video.settings.rate x = true) : applyRateSetting s = s := by
  have hb : (s.video.fieldRate.map (acceptsRate s.video.settings.rate)).getD true = true := by
    cases hx : s.video.fieldRate with
    | none => rfl
    | some x => exact ha x hx
  simp only [applyRateSetting, h, hb, if_true]

theorem applyRateSetting_seek_drops {s : State} {x : Rate} (h : s.video.genlock = .fieldSeek)
    (hx : s.video.fieldRate = some x) (ha : acceptsRate s.video.settings.rate x = false) :
    applyRateSetting s = { s with video := { s.video with fieldRun := 0, fieldRate := none } } := by
  simp only [applyRateSetting, h, hx, Option.map_some, Option.getD_some, ha, Bool.false_eq_true, if_false, State.setVideo]

theorem genlockGoes_settings (g : Genlock) (s : State) : (genlockGoes g s).video.settings = s.video.settings := by
  unfold genlockGoes
  split <;> rfl

/-- What a VIDEO SET with the settings `x` makes of the state (R143, R153). -/
theorem videoSet_taken (x : VideoSettings) (s : State) : ∃ u v : State,
    (if x.rate = s.video.settings.rate then { s with video := { s.video with settings := x } }
      else applyRateSetting { s with video := { s.video with settings := x } }) = u
      ∧ u.video.settings = x ∧ v = { u with video := { u.video with settings := s.video.settings } }
      ∧ (x.rate = s.video.settings.rate → v = s)
      ∧ (x.rate ≠ s.video.settings.rate →
        ((s.video.genlock = .noSignal ∨ s.video.genlock = .lineSeek) → v = s)
        ∧ (s.video.genlock = .locked →
          ((∃ y, s.video.lockedRate = some y ∧ acceptsRate x.rate y = true) → v = s)
          ∧ ((∀ y, s.video.lockedRate = some y → acceptsRate x.rate y = false) →
            v = raise (.videoLock .fieldSeek) { s with video := lockLeft 0 none s.video }))
        ∧ (s.video.genlock = .fieldSeek →
          ((∀ y, s.video.fieldRate = some y → acceptsRate x.rate y = true) → v = s)
          ∧ ((∃ y, s.video.fieldRate = some y ∧ acceptsRate x.rate y = false) →
            v = { s with video := { s.video with fieldRun := 0, fieldRate := none } }))) := by
  by_cases h : x.rate = s.video.settings.rate
  · exact ⟨_, _, if_pos h, rfl, rfl, fun _ => rfl, fun hn => absurd h hn⟩
  rw [if_neg h]
  generalize hw : ({ s with video := { s.video with settings := x } } : State) = w
  have hset : (applyRateSetting w).video.settings = x := by
    have e : (applyRateSetting w).video.settings = w.video.settings := by
      unfold applyRateSetting
      split
      · split
        · rfl
        · exact genlockGoes_settings _ _
      · split <;> rfl
      · rfl
    rw [e, ← hw]
  have back : ({ w with video := { w.video with settings := s.video.settings } } : State) = s := by rw [← hw]
  refine ⟨_, _, rfl, hset, rfl, fun he => absurd he h, fun _ => ⟨fun hg => ?_, fun hg => ⟨fun hx => ?_, fun hx => ?_⟩,
    fun hg => ⟨fun hx => ?_, fun hx => ?_⟩⟩⟩
  · rw [applyRateSetting_unlocked (by rw [← hw]; exact hg), back]
  · obtain ⟨y, hy, ha⟩ := hx
    rw [applyRateSetting_locked_accepts (x := y) (by rw [← hw]; exact hg) (by rw [← hw]; exact hy) (by rw [← hw]; exact ha), back]
  · rw [applyRateSetting_locked_leaves (by rw [← hw]; exact hg) (by rw [← hw]; exact hx), ← hw]
    rfl
  · rw [applyRateSetting_seek_accepts (by rw [← hw]; exact hg) (by rw [← hw]; exact hx), back]
  · obtain ⟨y, hy, ha⟩ := hx
    rw [applyRateSetting_seek_drops (x := y) (by rw [← hw]; exact hg) (by rw [← hw]; exact hy) (by rw [← hw]; exact ha), ← hw]

/-- Settles O39: each request busy, out of range, and taken; and what a changed rate setting does to the genlock. -/
theorem outputSettingsAreWritten : Obligations.OutputSettingsAreWritten := by
  refine ⟨fun s t n f hs => ⟨fun h hb => ?_, fun h i hi => ⟨fun h₁ h₂ => ?_, fun hb hr => ?_,
      fun hb hlen a o ha ho hl hlead hc ht => ?_⟩⟩,
    fun s t f hs => ⟨fun h₁ h₂ => ?_, fun hb hr => ?_, fun hb r k pe se ps ss hr hk hpe hse hps hss hd hpl hsl => ?_⟩⟩
  · exact exec_refused hs rfl (reqChannelSet_outside (s := s.goTo t) h hb)
  · exact exec_answered hs rfl (reqChannelSet_busy (s := s.goTo t) (hi ▸ readChannel_of h) h₁ h₂)
  · refine exec_answered hs rfl (reqChannelSet_range (s := s.goTo t) (hi ▸ readChannel_of h) hb (readChannelSet_none _ _ ?_))
    rintro ⟨c₁, c₂, c₃, c₄, c₅, c₆⟩
    rcases hr with ⟨x, hx, hlt⟩ | ⟨x, hx, hlt⟩ | ⟨x, hx, hlt⟩ | ⟨x, hx, hlt⟩ | ⟨x, hx, hlt⟩ | ⟨x, hx, hlt⟩
    · exact absurd (c₁ x hx) (by omega)
    · exact hlt (c₂ x hx)
    · exact absurd (c₃ x hx) (by omega)
    · exact absurd (c₄ x hx) (by omega)
    · exact hlt (c₅ x hx)
    · exact absurd (c₆ x hx) (by omega)
  · have hx := readChannelSet_writes (f := f) (old := (s.channel i).settings) (override := (s.channel i).override)
      (masked_placed (w := a) (place := accentPlace) (fun a => by cases a <;> rfl) (fun h => by simp only [h] at ha; exact ha)
        (fun x h => by simp only [h] at ha; exact ha))
      (masked_placed (w := o) (place := Override.place) (fun o => by cases o <;> rfl)
        (fun h => by simp only [h] at ho; exact ho) (fun x h => by simp only [h] at ho; exact ho)) hl hlead hc ht
    have e := exec_answered hs (c := .channelSet t n f) rfl
      (reqChannelSet_taken (s := s.goTo t) (hi ▸ readChannel_of h) hb hx)
    generalize hw : (s.goTo t).setChannel i _ = w at e
    have hch : ∀ j, (drainReport w).channel j = w.channel j := fun j => by rw [drainReport_eq]; rfl
    have hlen' : (s.goTo t).channels.length = 16 := hlen
    refine ⟨drainReport w, e, ?_, fun j hj => ?_, ?_, ?_, ?_, ?_⟩
    · rw [hch, ← hw, channel_setChannel_same i _ hlen']; rfl
    · rw [hch, ← hw, channel_setChannel_other _ _ hj]; rfl
    · rw [drainReport_eq, ← hw]
      exact (List.length_modify _ _ _).trans hlen
    · rw [drainReport_eq, ← hw]; rfl
    · rw [drainReport_video, ← hw]
      rfl
    · rw [drainReport_eq, ← hw]; rfl
  · exact exec_answered hs rfl (reqVideoSet_busy (s := s.goTo t) h₁ h₂)
  · refine exec_answered hs rfl (reqVideoSet_range (s := s.goTo t) hb (readVideoSet_none _ ?_))
    rintro ⟨⟨c₁, c₂, c₃⟩, ⟨c₄, c₅⟩, ⟨c₆, c₇⟩, c₈, c₉⟩
    rcases hr with ⟨x, hx, hlt⟩ | ⟨x, hx, hlt⟩ | ⟨x, hx, hlt⟩ | ⟨x, hx, hlt⟩ | ⟨x, hx, hlt⟩ | ⟨x, hx, hlt⟩ | ⟨x, hx, hlt⟩
      | ⟨x, hx, hlt⟩ | ⟨x, hx, hlt⟩
    · exact absurd (c₁ x hx) (by omega)
    · exact absurd (c₂ x hx) (by omega)
    · exact absurd (c₃ x hx) (by omega)
    · exact absurd (c₄ x hx) (by omega)
    · exact absurd (c₅ x hx) (by omega)
    · exact absurd (c₆ x hx) (by omega)
    · exact absurd (c₇ x hx) (by omega)
    · exact hlt (c₈ x hx)
    · exact hlt (c₉ x hx)
  · have hx := readVideoSet_writes (f := f) (old := s.video.settings)
      (masked_placed (w := r) (place := rateSettingPlace) (fun r => by cases r <;> rfl)
        (fun h => by simp only [h] at hr; exact hr) (fun x h => by simp only [h] at hr; exact hr))
      (masked_placed (w := k) (place := lineConstantPlace) (fun k => by cases k <;> rfl)
        (fun h => by simp only [h] at hk; exact hk) (fun x h => by simp only [h] at hk; exact hk))
      (masked_placed (w := pe) readElements_number
        (fun h => by simp only [h] at hpe; exact hpe) (fun x h => by simp only [h] at hpe; exact hpe))
      (masked_placed (w := se) readElements_number
        (fun h => by simp only [h] at hse; exact hse) (fun x h => by simp only [h] at hse; exact hse))
      (masked_placed (w := ps) (place := stylePlace) (fun x => by cases x <;> rfl)
        (fun h => by simp only [h] at hps; exact hps) (fun x h => by simp only [h] at hps; exact hps))
      (masked_placed (w := ss) (place := stylePlace) (fun x => by cases x <;> rfl)
        (fun h => by simp only [h] at hss; exact hss) (fun x h => by simp only [h] at hss; exact hss)) hd hpl hsl
    obtain ⟨u, v, eu, hset, rest⟩ := videoSet_taken _ (s.goTo t)
    have e := reqVideoSet_taken (s := s.goTo t) hb hx
    rw [eu] at e
    refine ⟨u, v, ?_, hset, rest⟩
    rw [hset]
    exact exec_answered hs rfl e

end Sys2Proof.Proofs

namespace Sys2Proof.Proofs

open Sys2Proof Sys2Proof.Machine

/-! ## What the video outputs carry -/

/-- How the displayed beat is drawn (R147). -/
def beatDrawn (d : BeatContent) : Drawn :=
  match d.phase with
  | .countIn n => .countInBeat n
  | .inShow => .barBeat d.bar d.beat (if 0 < d.pass then some d.pass else none)

theorem beatDrawn_eq_barBeat (d : BeatContent) (bar beat : Nat) (pass : Option Nat) :
    Drawn.barBeat bar beat pass = beatDrawn d ↔
      d.phase = .inShow ∧ d.bar = bar ∧ d.beat = beat ∧ (pass = none ∧ d.pass = 0 ∨ pass = some d.pass ∧ 0 < d.pass) := by
  rw [beatDrawn]
  cases hp : d.phase with
  | countIn n => simp
  | inShow =>
    by_cases h : 0 < d.pass
    · simp [h, Nat.ne_of_gt h, eq_comm]
    · simp [h, Nat.eq_zero_of_not_pos h, eq_comm]

theorem beatDrawn_eq_countInBeat (d : BeatContent) (n : Nat) :
    Drawn.countInBeat n = beatDrawn d ↔ d.phase = .countIn n := by
  rw [beatDrawn]
  cases d.phase <;> simp [eq_comm]

theorem beatDrawn_cases (d : BeatContent) :
    (∃ n, beatDrawn d = .countInBeat n) ∨ ∃ bar beat pass, beatDrawn d = .barBeat bar beat pass := by
  rw [beatDrawn]
  cases d.phase with
  | countIn n => exact .inl ⟨n, rfl⟩
  | inShow => exact .inr ⟨_, _, _, rfl⟩

theorem drawOutput_dark {sn : Snapshot} (p : Profile) (lit : Bool) (h : sn.overlay = false) :
    drawOutput sn p lit = [] := by
  rw [drawOutput, h, if_neg Bool.false_ne_true]

/-- An overlay draws the six elements of its profile, each from the snapshot, and the STOP banner always (R147). -/
theorem mem_drawOutput {sn : Snapshot} (p : Profile) (lit : Bool) (h : sn.overlay = true) (x : Drawn) :
    x ∈ drawOutput sn p lit ↔
      (p.elements.barBeat = true ∧ ∃ d, sn.content.displayed = some d ∧ x = beatDrawn d)
      ∨ (p.elements.cueNumber = true ∧ ∃ n, sn.content.cue = some n ∧ x = .cueNumber n)
      ∨ (p.elements.tempo = true ∧ ∃ d, sn.content.displayed = some d ∧ x = .tempo d.tempo)
      ∨ (p.elements.caption = true ∧ x = .caption sn.content.caption)
      ∨ (sn.banner ≠ .none ∧ (sn.banner = .stop ∨ p.elements.banner = true) ∧ x = .banner sn.banner)
      ∨ (p.elements.flash = true ∧ lit = true ∧ x = .flash p.style) := by
  rw [drawOutput, if_pos h]
  simp only [List.mem_append, or_assoc]
  refine or_congr ?_ (or_congr ?_ (or_congr ?_ (or_congr ?_ (or_congr ?_ ?_))))
  · cases p.elements.barBeat <;> cases sn.content.displayed with
    | none => simp
    | some d => cases hp : d.phase <;> simp [beatDrawn, hp]
  · cases p.elements.cueNumber <;> cases sn.content.cue <;> simp
  · cases p.elements.tempo <;> cases sn.content.displayed <;> simp
  · cases p.elements.caption <;> simp
  · cases sn.banner <;> cases p.elements.banner <;> simp
  · cases lit <;> cases p.elements.flash <;> simp

/-- Nothing but a bar with its beat, or a number of a count-in, draws the displayed beat. -/
theorem beatDrawn_ne {x : Drawn} (hn : ∀ n, x ≠ .countInBeat n) (hb : ∀ bar beat pass, x ≠ .barBeat bar beat pass)
    (d : BeatContent) : x ≠ beatDrawn d := by
  intro e
  rcases beatDrawn_cases d with ⟨n, hd⟩ | ⟨bar, beat, pass, hd⟩
  · exact hn n (e.trans hd)
  · exact hb bar beat pass (e.trans hd)

theorem mem_drawOutput_banner {sn : Snapshot} (p : Profile) (lit : Bool) (h : sn.overlay = true) (b : Banner) :
    .banner b ∈ drawOutput sn p lit ↔ sn.banner = b ∧ b ≠ .none ∧ (b = .stop ∨ p.elements.banner = true) := by
  simp only [mem_drawOutput p lit h, beatDrawn_ne (x := .banner b) (fun _ h => nomatch h) (fun _ _ _ h => nomatch h),
    reduceCtorEq, and_false, exists_false, false_or, or_false, Drawn.banner.injEq]
  constructor
  · rintro ⟨h₁, h₂, rfl⟩
    exact ⟨rfl, h₁, h₂⟩
  · rintro ⟨rfl, h₁, h₂⟩
    exact ⟨h₁, h₂, rfl⟩

theorem bannerOf_unnumbered {c : Content} (hd : ∀ d n, c.displayed = some d → d.phase ≠ .countIn n) :
    ((∃ k, c.stopState = .countIn k) → bannerOf c = .countIn none)
      ∧ (c.stopState = .run → ∀ n, c.standby = some n → bannerOf c = .standby n)
      ∧ (c.stopState = .run → c.standby = none → bannerOf c = .none) := by
  cases hdis : c.displayed with
  | none =>
    refine ⟨?_, fun h n hs => ?_, fun h hs => ?_⟩
    · rintro ⟨k, h⟩
      simp [bannerOf, h, hdis]
    · simp [bannerOf, h, hdis, hs]
    · simp [bannerOf, h, hdis, hs]
  | some d =>
    have hp : d.phase = .inShow := by
      cases hph : d.phase with
      | countIn n => exact absurd hph (hd d n hdis)
      | inShow => rfl
    refine ⟨?_, fun h n hs => ?_, fun h hs => ?_⟩
    · rintro ⟨k, h⟩
      simp [bannerOf, h, hdis, hp]
    · simp [bannerOf, h, hdis, hp, hs]
    · simp [bannerOf, h, hdis, hp, hs]

/-! ## What the audio output carries -/

theorem audioFrame_get (s : State) (n i : Nat) :
    (audioFrame s n)[i]? = s.channels[i]?.map fun c => if s.loading || !s.powered then 0 else audioSlot c n := by
  rw [audioFrame, List.getElem?_map]

theorem audioSlot_silent {c : Channel} (n : Nat) (h : c.sounding = none) : audioSlot c n = 0 := by
  rw [audioSlot, h]

theorem audioSlot_sounding {c : Channel} {b : Burst} (n : Nat) (h : c.sounding = some b) :
    audioSlot c n = if b.frame ≤ n ∧ n < b.frame + 720 then BitVec.ofInt 24 (burstSample b (n - b.frame)) else 0 := by
  rw [audioSlot, h]
  rfl

/-- In lists of one length laid one behind the other, each is found at its place. -/
theorem flatMap_get_uniform {α β : Type} {f : α → List β} {m : Nat} (hf : ∀ x, (f x).length = m) (xs : List α)
    (i : Nat) {k : Nat} (hk : k < m) : (xs.flatMap f)[m * i + k]? = xs[i]?.bind fun x => (f x)[k]? := by
  induction xs generalizing i with
  | nil => rfl
  | cons x xs ih =>
    have hx := hf x
    rw [List.flatMap_cons]
    cases i with
    | zero => rw [List.getElem?_append_left (by omega), Nat.mul_zero, Nat.zero_add]; rfl
    | succ i =>
      rw [List.getElem?_append_right (by rw [Nat.mul_succ]; omega), hx,
        show m * (i + 1) + k - m = m * i + k by rw [Nat.mul_succ]; omega, ih]
      rfl

theorem slotBits_length (x : BitVec 24) : (slotBits x).length = 24 := by simp [slotBits]

theorem slotBits_get (x : BitVec 24) {k : Nat} (hk : k < 24) : (slotBits x)[k]? = some (x.getLsbD (23 - k)) := by
  simp [slotBits, hk, BitVec.getMsbD]

theorem audioBits_get (s : State) (n i : Nat) {k : Nat} (hk : k < 24) :
    (audioBits s n)[24 * i + k]? = (audioFrame s n)[i]?.map fun x => x.getLsbD (23 - k) := by
  rw [audioBits, flatMap_get_uniform slotBits_length _ i hk]
  cases (audioFrame s n)[i]? with
  | none => rfl
  | some x => exact slotBits_get x hk

theorem audioBits_length (s : State) (n : Nat) : (audioBits s n).length = 24 * s.channels.length := by
  have hsum : (audioBits s n).length = (audioFrame s n).length * 24 := by
    simp [audioBits, List.length_flatMap, slotBits_length]
  rw [hsum, audioFrame, List.length_map, Nat.mul_comm]

/-! ## The samples of a burst -/

theorem roundAway_multiple (z : Int) {d : Nat} (hd : 0 < d) : roundAway (z * d) d = z := by
  have h := (roundAway_near (z * d) hd).1
  rw [← Int.sub_mul, Int.natAbs_mul, Int.natAbs_natCast] at h
  have h0 : (roundAway (z * d) d - z).natAbs = 0 := by
    by_contra hne
    have : d ≤ (roundAway (z * d) d - z).natAbs * d := Nat.le_mul_of_pos_left d (Nat.pos_of_ne_zero hne)
    omega
  omega

theorem turnSine_quarter {j : Nat} (h : j % 48000 = 12000) : turnSine j = (sineOne : Nat) := by
  rw [turnSine, h, if_pos (by decide)]
  rfl

theorem turnSine_threeQuarters {j : Nat} (h : j % 48000 = 36000) : turnSine j = -((sineOne : Nat) : Int) := by
  rw [turnSine, h]
  rfl

theorem turnSine_half {j : Nat} (h : j % 24000 = 0) : turnSine j = 0 := by
  have : j % 48000 = 0 ∨ j % 48000 = 24000 := by omega
  rcases this with h | h
  · rw [turnSine, h]
    rfl
  · rw [turnSine, h]
    rfl

/-- On its plateau a burst has the sample of its sine alone. -/
theorem burstSample_plateau (b : Burst) {k : Nat} (h₁ : 48 ≤ k) (h₂ : k < 480) :
    burstSample b k = roundAway ((b.peak : Int) * turnSine (b.frequency * k)) sineOne := by
  simp [burstSample, envelope, show ¬ k < 48 by omega, h₂]

theorem sineOne_pos : 0 < sineOne := Nat.two_pow_pos 128

theorem burstSample_start (b : Burst) : burstSample b 0 = 0 := by
  have h : turnSine 0 = 0 := turnSine_half rfl
  simp only [burstSample, Nat.mul_zero, h, Int.mul_zero]
  exact (Int.zero_mul _ ▸ roundAway_multiple 0 (d := (envelope 0).2 * sineOne) (Nat.mul_pos (by decide) sineOne_pos))

theorem burstSample_peaks (b : Burst) {k : Nat} (h₁ : 48 ≤ k) (h₂ : k < 480) :
    (b.frequency * k % 48000 = 12000 → burstSample b k = (b.peak : Int))
      ∧ (b.frequency * k % 48000 = 36000 → burstSample b k = -(b.peak : Int))
      ∧ (b.frequency * k % 24000 = 0 → burstSample b k = 0) := by
  rw [burstSample_plateau b h₁ h₂]
  refine ⟨fun h => ?_, fun h => ?_, fun h => ?_⟩
  · rw [turnSine_quarter h]
    exact roundAway_multiple _ sineOne_pos
  · rw [turnSine_threeQuarters h, Int.mul_neg, ← Int.neg_mul]
    exact roundAway_multiple _ sineOne_pos
  · rw [turnSine_half h, Int.mul_zero, ← Int.zero_mul (sineOne : Int)]
    exact roundAway_multiple 0 sineOne_pos

/-! ## The peak of a burst -/

theorem peakFits_iff (down a : Nat) :
    peakFits down a = true ↔ (2 * a - 1) ^ 20 * 10 ^ down ≤ (2 * 8388607) ^ 20 := by
  rw [peakFits, decide_eq_true_eq]
  rfl

/-- Fitting peaks lie below those that do not fit. -/
theorem peakFits_mono {down a b : Nat} (h : a ≤ b) (hb : peakFits down b = true) : peakFits down a = true := by
  rw [peakFits_iff] at hb ⊢
  exact le_trans (Nat.mul_le_mul_right _ (Nat.pow_le_pow_left (by omega) 20)) hb

/-- The bisection ends on the last peak that fits. -/
theorem peakSearch_spec (down : Nat) :
    ∀ n a, peakFits down a = true → peakFits down (a + 2 ^ n) = false →
      peakFits down (peakSearch down n a) = true ∧ peakFits down (peakSearch down n a + 1) = false := by
  intro n
  induction n with
  | zero => exact fun a ha hb => ⟨ha, hb⟩
  | succ n ih =>
    intro a ha hb
    rw [peakSearch]
    split_ifs with hm
    · exact ih _ hm (by rw [Nat.add_assoc, ← Nat.two_mul, ← Nat.pow_succ']; exact hb)
    · exact ih _ ha (Bool.eq_false_iff.mpr hm)

theorem peakOf_spec (down : Nat) :
    peakFits down (peakOf down) = true ∧ peakFits down (peakOf down + 1) = false := by
  refine peakSearch_spec down 23 0 ?_ (Bool.eq_false_iff.mpr ?_)
  · rw [peakFits_iff]
    simp
  · rw [ne_eq, peakFits_iff, Nat.not_le]
    calc (2 * 8388607) ^ 20 < (2 * (0 + 2 ^ 23) - 1) ^ 20 := by norm_num
      _ ≤ (2 * (0 + 2 ^ 23) - 1) ^ 20 * 10 ^ down := Nat.le_mul_of_pos_right _ (by positivity)

theorem peakOf_bounds {down : Nat} (h : down ≤ 66) :
    1 ≤ peakOf down ∧ (2 * peakOf down - 1) ^ 20 * 10 ^ down ≤ (2 * 8388607) ^ 20
      ∧ (2 * 8388607) ^ 20 < (2 * peakOf down + 1) ^ 20 * 10 ^ down := by
  obtain ⟨hfit, hnot⟩ := peakOf_spec down
  refine ⟨?_, (peakFits_iff _ _).mp hfit, ?_⟩
  · have one : peakFits down 1 = true := by
      rw [peakFits_iff]
      calc (2 * 1 - 1) ^ 20 * 10 ^ down ≤ (2 * 1 - 1) ^ 20 * 10 ^ 66 :=
            Nat.mul_le_mul_left _ (Nat.pow_le_pow_right (by decide) h)
        _ ≤ (2 * 8388607) ^ 20 := by norm_num
    by_contra hlt
    rw [show peakOf down + 1 = 1 by omega, one] at hnot
    cases hnot
  · have := (peakFits_iff down (peakOf down + 1)).not.mp (by rw [hnot]; decide)
    rw [show 2 * (peakOf down + 1) - 1 = 2 * peakOf down + 1 by omega] at this
    exact Nat.lt_of_not_le this

/-- Settles O44: each output's drawings are read off element by element; the slots, bits and samples from their
formulas; and the peak by the bisection's invariant. -/
theorem whatTheOutputsCarry : Obligations.WhatTheOutputsCarry := by
  unfold Obligations.WhatTheOutputsCarry
  refine ⟨fun sn p lit => ⟨drawOutput_dark p lit, fun h x => ?_⟩, ?_, ?_, ?_, ?_,
    fun b k => ⟨burstSample_start b, burstSample_peaks b⟩, fun down => peakOf_bounds⟩
  · cases x with
    | barBeat bar beat pass => simp [mem_drawOutput p lit h, beatDrawn_eq_barBeat]
    | countInBeat n => simp [mem_drawOutput p lit h, beatDrawn_eq_countInBeat]
    | cueNumber n => simp [mem_drawOutput p lit h, beatDrawn_ne]
    | tempo b => simp [mem_drawOutput p lit h, beatDrawn_ne, @eq_comm _ b]
    | caption chars => simp [mem_drawOutput p lit h, beatDrawn_ne, @eq_comm _ chars]
    | banner b => exact mem_drawOutput_banner p lit h b
    | flash style => simp [mem_drawOutput p lit h, beatDrawn_ne]
  · rintro s _ rfl
    rfl
  · intro c
    refine ⟨?_, ?_, ?_, fun hd => ?_⟩
    · rintro (h | h | h) <;> simp [bannerOf, h]
    · rintro (h | ⟨_, h⟩) <;> simp [bannerOf, h]
    · rintro d n (h | ⟨_, h⟩) hd hn <;> simp [bannerOf, h, hd, hn]
    · exact bannerOf_unnumbered hd
  · intro s n
    refine ⟨by simp [audioFrame], fun i c hi => ⟨fun h => ?_, fun b hb hp hl => ?_⟩⟩
    · rw [audioFrame_get, hi]
      rcases h with h | h | h
      · simp [h]
      · simp [h]
      · simp [audioSlot_silent n h]
    · simp only [audioFrame_get, hi, Option.map_some, hp, hl, Bool.not_true, Bool.or_self, Bool.false_eq_true,
        if_false, audioSlot_sounding n hb]
      exact ⟨fun h => by rw [if_neg (by rintro ⟨h₁, h₂⟩; omega)],
        fun h₁ h₂ => by rw [if_pos (⟨h₁, h₂⟩ : b.frame ≤ n ∧ n < b.frame + 720)]⟩
  · intro s n i k hk
    exact ⟨audioBits_length s n, audioBits_get s n i hk⟩

end Sys2Proof.Proofs

namespace Sys2Proof.Proofs

open Sys2Proof Sys2Proof.Machine

/-! ## Output fields -/

theorem rate_generator (r : Rate) : r.generator = if r = .r50 then 480000 else 400400 := by cases r <;> rfl

theorem rate_nominal (r : Rate) : r.nominal = if r = .r50 then 20000 else 16683 := by cases r <;> rfl

theorem generatorDue_free {s : State} (h : s.video.mode = .freeRun) :
    generatorDue s = some (refTime (s.video.fieldStart + s.video.outRate.generator)) := by
  rw [generatorDue, h]

theorem missedFieldDue_locked {s : State} (h : s.video.mode = .locked) :
    missedFieldDue s = some (fieldTime s.video + s.video.outRate.nominal + 1000) := by
  rw [missedFieldDue, h, predictedStart, Nat.add_sub_cancel_left, Nat.one_mul]
  rfl

/-! ## The genlock and its line lock -/

theorem genlockGoes_moves {g : Genlock} {s : State} (h : s.video.genlock ≠ g) :
    genlockGoes g s = raise (.videoLock g) { s with video := { s.video with genlock := g } } := by
  rw [genlockGoes, if_neg h]
  rfl

/-- A line is good within 2 µs of 64 µs (R141). -/
def goodLine (ref : Nat) (v : Video) : Bool :=
  match v.lastSync with
  | some l => decide (62 * 24 ≤ ref - l ∧ ref - l ≤ 66 * 24)
  | none => false

theorem goodLine_inside {ref l : Nat} {v : Video} (hl : v.lastSync = some l) (h₁ : 62 * 24 ≤ ref - l)
    (h₂ : ref - l ≤ 66 * 24) : goodLine ref v = true := by
  simp only [goodLine, hl, decide_eq_true_eq]
  exact ⟨h₁, h₂⟩

theorem goodLine_outside {ref l : Nat} {v : Video} (hl : v.lastSync = some l)
    (h : ref - l < 62 * 24 ∨ 66 * 24 < ref - l) : goodLine ref v = false := by
  simp only [goodLine, hl, decide_eq_false_iff_not]
  omega

/-- The video once a sync at `ref` has been counted in its field (R138, R140). -/
def syncCounted (ref : Nat) (v : Video) : Video := { v with lastSync := some ref, lines := v.lines + 1 }

theorem takeSync_first {ref : Nat} {s : State} (h : s.video.genlock = .noSignal) :
    takeSync ref false s = raise (.videoLock .lineSeek) { s with video := { s.video with
      genlock := .lineSeek, goodRun := 0, badRun := 0, lastSync := some ref, lines := s.video.lines + 1 } } := by
  have e : genlockGoes .lineSeek (s.setVideo fun v => { v with goodRun := 0, badRun := 0 })
      = raise (.videoLock .lineSeek)
        { s with video := { s.video with genlock := .lineSeek, goodRun := 0, badRun := 0 } } :=
    genlockGoes_moves (by show s.video.genlock ≠ _; rw [h]; decide)
  simp only [takeSync, h, e]
  rfl

/-- A sync behind the first is judged as a line before it is counted. -/
theorem takeSync_line {ref : Nat} {s : State} (h : s.video.genlock ≠ .noSignal) :
    takeSync ref false s = (judgeLine (goodLine ref s.video) s).setVideo (syncCounted ref) := by
  unfold takeSync goodLine
  cases hg : s.video.genlock with
  | noSignal => exact absurd hg h
  | lineSeek => rfl
  | fieldSeek => rfl
  | locked => rfl

theorem lineCounts_good_le (c : LineConstant) : (lineCounts c).1 ≤ 64 := by cases c <;> decide

theorem judgeLine_good_more {s : State} (h : s.video.genlock = .lineSeek)
    (hc : s.video.goodRun + 1 < (lineCounts s.video.settings.constant).1) :
    judgeLine true s = { s with video := { s.video with goodRun := s.video.goodRun + 1 } } := by
  have hmin : min 64 (s.video.goodRun + 1) = s.video.goodRun + 1 := by
    have := lineCounts_good_le s.video.settings.constant
    omega
  simp only [judgeLine, h, State.setVideo, if_true, hmin, Bool.true_and, decide_eq_true_eq]
  rw [if_neg (by omega)]

theorem judgeLine_good_locks {s : State} (h : s.video.genlock = .lineSeek)
    (hc : (lineCounts s.video.settings.constant).1 ≤ s.video.goodRun + 1) :
    judgeLine true s = raise (.videoLock .fieldSeek) { s with video := { s.video with
      genlock := .fieldSeek, goodRun := min 64 (s.video.goodRun + 1), fieldRun := 0, fieldRate := none
      seekPrimed := false } } := by
  have := lineCounts_good_le s.video.settings.constant
  simp only [judgeLine, h, State.setVideo, if_true, Bool.true_and, decide_eq_true_eq]
  rw [if_pos (by omega), genlockGoes_moves (by exact fun hf => nomatch hf)]

theorem judgeLine_seek_bad {s : State} (h : s.video.genlock = .lineSeek) :
    judgeLine false s = { s with video := { s.video with goodRun := 0 } } := by
  simp [judgeLine, h, State.setVideo]

theorem unlessLoading_loading {f : State → State} {s : State} (h : s.loading = true) : unlessLoading f s = s := by
  rw [unlessLoading, if_pos h]

theorem unlessLoading_served {f : State → State} {s : State} (h : s.loading = false) : unlessLoading f s = f s := by
  rw [unlessLoading, if_neg (by rw [h]; decide)]

theorem exec_lineSync {s : State} (t sub : Nat) (start : Bool) (hp : s.powered = true) (hl : s.loading = false) :
    exec (.lineSync t sub start) s = .next (takeSync (t * 24 + sub) start (s.goTo t)) :=
  (event_on t hp).trans (congrArg _ (unlessLoading_served hl))

theorem exec_lineSync_loading {s : State} (t sub : Nat) (start : Bool) (hp : s.powered = true) (hl : s.loading = true) :
    exec (.lineSync t sub start) s = .next (s.goTo t) :=
  (event_on t hp).trans (congrArg _ (unlessLoading_loading hl))

theorem syncLossDue_synced {s : State} {l : Nat} (h : s.video.genlock ≠ .noSignal) (hl : s.video.lastSync = some l) :
    syncLossDue s = some (refTime l + 100000) := by
  rw [syncLossDue, if_neg h, hl]
  rfl

/-- Settles O41: the fields by what begins each (`enterField_begins`), the syncs by the judgement of a line. -/
theorem videoTiming : Obligations.VideoTiming := by
  unfold Obligations.VideoTiming
  refine ⟨fun s hp => ⟨?_, ?_⟩, fun s t sub hp => ⟨?_, ?_, ?_, ?_⟩⟩
  · rintro hm _ rfl
    rw [← rate_generator]
    exact ⟨_, selfTimed_due hp (generatorDue_free hm), rfl, enterField_begins _ _, rfl⟩
  · intro hm
    rw [← rate_nominal]
    exact ⟨_, selfTimed_due hp (missedFieldDue_locked hm), rfl, enterField_begins _ _, rfl⟩
  · exact fun hl start => exec_lineSync_loading t sub start hp hl
  · intro hl hg
    rw [exec_lineSync t sub false hp hl, takeSync_first (s := s.goTo t) hg]
    rfl
  · intro l hl hg hs
    have hne : (s.goTo t).video.genlock ≠ .noSignal := by
      show s.video.genlock ≠ _
      rw [hg]
      decide
    rw [exec_lineSync t sub false hp hl, takeSync_line hne]
    refine ⟨fun h₁ h₂ => ⟨fun hc => ?_, fun hc => ?_⟩, fun h => ?_⟩
    · rw [goodLine_inside (v := (s.goTo t).video) hs h₁ h₂, judgeLine_good_more (s := s.goTo t) hg hc]
      rfl
    · rw [goodLine_inside (v := (s.goTo t).video) hs h₁ h₂, judgeLine_good_locks (s := s.goTo t) hg hc]
      rfl
    · rw [goodLine_outside (v := (s.goTo t).video) hs h, judgeLine_seek_bad (s := s.goTo t) hg]
      rfl
  · intro l hg hs
    refine (selfTimed_due hp (syncLossDue_synced hg hs)).trans (congrArg _ ?_)
    rw [loseSync, genlockGoes_moves (by exact hg)]
    rfl

end Sys2Proof.Proofs

namespace Sys2Proof.Proofs

open Sys2Proof Sys2Proof.Machine

/-! ## Lines under line lock -/

theorem judgeLine_good_kept {s : State} (h : s.video.genlock = .fieldSeek ∨ s.video.genlock = .locked) :
    judgeLine true s = { s with video := { s.video with badRun := 0 } } := by
  rcases h with h | h <;> simp [judgeLine, h, State.setVideo]

theorem judgeLine_bad_more {s : State} (h : s.video.genlock = .fieldSeek ∨ s.video.genlock = .locked)
    (hb : s.video.badRun < 32) (hc : s.video.badRun + 1 < (lineCounts s.video.settings.constant).2) :
    judgeLine false s = { s with video := { s.video with badRun := s.video.badRun + 1 } } := by
  have hmin : min 32 (s.video.badRun + 1) = s.video.badRun + 1 := by omega
  rcases h with h | h <;> simp [judgeLine, h, State.setVideo, hmin, Nat.not_le.mpr hc]

theorem loseLineLock_raises {s : State} (h : s.video.genlock = .fieldSeek ∨ s.video.genlock = .locked) :
    loseLineLock s = raise (.videoLock .lineSeek) { s with video := { s.video with
      genlock := .lineSeek, goodRun := 0, badRun := 0, fieldRun := 0, fieldRate := none, nonNominal := 0
      lockedRate := none, mode := .freeRun, retime := false, snapshot := { s.video.snapshot with camera := false } } } := by
  have hne : s.video.genlock ≠ .lineSeek := by rcases h with h | h <;> rw [h] <;> decide
  rw [loseLineLock, genlockGoes_moves (by exact hne)]
  rfl

theorem judgeLine_bad_loses {s : State} (h : s.video.genlock = .fieldSeek ∨ s.video.genlock = .locked)
    (hb : s.video.badRun < 32) (hc : (lineCounts s.video.settings.constant).2 ≤ s.video.badRun + 1) :
    judgeLine false s = raise (.videoLock .lineSeek) { s with video := { s.video with
      genlock := .lineSeek, goodRun := 0, badRun := 0, fieldRun := 0, fieldRate := none, nonNominal := 0
      lockedRate := none, mode := .freeRun, retime := false, snapshot := { s.video.snapshot with camera := false } } } := by
  have hmin : min 32 (s.video.badRun + 1) = s.video.badRun + 1 := by omega
  have e : judgeLine false s = loseLineLock { s with video := { s.video with badRun := s.video.badRun + 1 } } := by
    rcases h with h | h <;> simp [judgeLine, h, State.setVideo, hmin, hc]
  rw [e, loseLineLock_raises (by exact h)]

/-! ## Field starts -/

/-- The measurements of a field that ends at `ref`, begun at `began` (R138). -/
def fieldEnded (ref began : Nat) (v : Video) : Video :=
  { v with
    inputField := some ref, lines := 0
    measured := (classifyLines v.lines).or v.measured
    lastLength := some (refTime ref - refTime began) }

theorem fieldMeasured_eq (ref began : Nat) (v : Video) :
    fieldMeasured ref began v = fieldEnded ref began { v with badRun := 0, lastSync := some ref } := rfl

/-- A good line that brings a field start is taken as a field start once it has been judged. -/
theorem takeSync_fieldStart {ref : Nat} {s : State} (h : s.video.genlock = .fieldSeek ∨ s.video.genlock = .locked)
    (hgood : goodLine ref s.video = true) :
    takeSync ref true s = takeFieldStart s.video.genlock ref
      { s with video := { s.video with badRun := 0, lastSync := some ref } } := by
  have e : takeSync ref true s = takeFieldStart s.video.genlock ref
      ((judgeLine (goodLine ref s.video) s).setVideo fun v => { v with lastSync := some ref }) := by
    unfold takeSync goodLine
    rcases h with h | h <;> rw [h] <;> rfl
  rw [e, hgood, judgeLine_good_kept h]
  rfl

/-- What a field start at `ref` writes, where the field that began at `ended` is classified, or none (R138, R142). -/
def fieldTaken (ended : Option Nat) (ref : Nat) (v : Video) : Video :=
  { v with
    inputField := some ref, lines := 0
    measured := (ended.bind fun _ => classifyLines v.lines).or v.measured
    lastLength := (ended.map fun f => refTime ref - refTime f).or v.lastLength }

/-- What the genlock makes of an ended field, where it was in FIELD_SEEK or LOCKED before the sync and still is. -/
def fieldJudged (before : Genlock) (nominal : Option Rate) (s : State) : State :=
  match before, s.video.genlock with
  | .fieldSeek, .fieldSeek => seekField nominal s
  | .locked, .locked => lockedField nominal s
  | _, _ => s

/-- How the output follows a field start (R145, R146). -/
def outputFollows (before : Genlock) (awaited : Bool) (ref : Nat) (s : State) : State :=
  match s.video.genlock, before with
  | .locked, .locked =>
    if awaited then retimeField ref s
    else match s.video.mode with
      | .locked => startField ref s
      | .freeRun => s
  | .locked, _ => s.setVideo fun v => { v with retime := true }
  | _, _ => s

theorem takeFieldStart_eq {before : Genlock} {ref : Nat} {s : State} {ended : Option Nat}
    (h : (s.video.inputField.filter fun _ => !opensFirstField before s.video) = ended) :
    takeFieldStart before ref s = outputFollows before s.video.retime ref
      (fieldJudged before ((ended.bind fun _ => classifyLines s.video.lines).filter (acceptsRate s.video.settings.rate))
        (s.setVideo (fieldTaken ended ref))) := by
  unfold takeFieldStart
  rw [h]
  cases ended with
  | none => rfl
  | some f =>
    simp only [fieldTaken, State.setVideo, Option.bind_some, Option.map_some, Option.some_or]
    cases classifyLines s.video.lines <;> rfl

/-- The first field start of FIELD_SEEK classifies nothing (R142). -/
theorem takeFieldStart_opens {ref : Nat} {s : State} (h : s.video.genlock = .fieldSeek)
    (hprimed : s.video.seekPrimed = false) :
    takeFieldStart .fieldSeek ref s
      = { s with video := { s.video with inputField := some ref, lines := 0, seekPrimed := true } } := by
  have hended : (s.video.inputField.filter fun _ => !opensFirstField .fieldSeek s.video) = none := by
    have ho : opensFirstField .fieldSeek s.video = true := by simp [opensFirstField, h, hprimed]
    rw [ho]
    cases s.video.inputField <;> rfl
  rw [takeFieldStart_eq hended]
  simp [fieldJudged, outputFollows, fieldTaken, seekField, State.setVideo, h, hprimed]

/-- The rate of the field that ends, where it is nominal (R138, R139). -/
def endedRate (v : Video) : Option Rate := (classifyLines v.lines).filter (acceptsRate v.settings.rate)

/-- A field start that ends a field begun at `began` has it judged, and the output follows. -/
theorem takeFieldStart_ends {ref began : Nat} {s : State} (hi : s.video.inputField = some began)
    (ho : opensFirstField s.video.genlock s.video = false) :
    takeFieldStart s.video.genlock ref s = outputFollows s.video.genlock s.video.retime ref
      (fieldJudged s.video.genlock (endedRate s.video) (s.setVideo (fieldEnded ref began))) := by
  rw [takeFieldStart_eq (ended := some began) (by rw [hi, ho]; rfl)]
  rfl

/-- A good sync with a field start that ends a field begun at `began`. -/
theorem takeSync_ends {ref began : Nat} {s : State} (h : s.video.genlock = .fieldSeek ∨ s.video.genlock = .locked)
    (hgood : goodLine ref s.video = true) (hi : s.video.inputField = some began)
    (ho : opensFirstField s.video.genlock s.video = false) :
    takeSync ref true s = outputFollows s.video.genlock s.video.retime ref
      (fieldJudged s.video.genlock (endedRate s.video) (s.setVideo (fieldMeasured ref began))) := by
  rw [takeSync_fieldStart h hgood]
  exact takeFieldStart_ends (s := { s with video := { s.video with badRun := 0, lastSync := some ref } }) hi ho

/-! ## FIELD_SEEK -/

theorem seekField_none {s : State} (h : s.video.seekPrimed = true) :
    seekField none s = { s with video := { s.video with fieldRun := 0, fieldRate := none } } := by
  simp [seekField, h, State.setVideo]

/-- The run of fields of one rate after a nominal field (R142). -/
def runAfter (r : Rate) (v : Video) : Nat := if v.fieldRun ≠ 0 ∧ v.fieldRate = some r then v.fieldRun + 1 else 1

theorem seekField_runs {r : Rate} {s : State} (h : s.video.seekPrimed = true) (hr : runAfter r s.video < 8) :
    seekField (some r) s = { s with video := { s.video with fieldRun := runAfter r s.video, fieldRate := some r } } := by
  unfold runAfter at *
  by_cases hc : s.video.fieldRun ≠ 0 ∧ s.video.fieldRate = some r
  · rw [if_pos hc] at *
    simp [seekField, h, State.setVideo, hc, Nat.not_le.mpr hr]
  · rw [if_neg hc] at *
    simp [seekField, h, State.setVideo, hc]

theorem seekField_locks {r : Rate} {s : State} (h : s.video.seekPrimed = true) (hg : s.video.genlock = .fieldSeek)
    (hr : 8 ≤ runAfter r s.video) :
    seekField (some r) s = raise (.videoLock .locked) { s with video := { s.video with
      fieldRun := runAfter r s.video, fieldRate := some r, genlock := .locked, lockedRate := some r
      lastLocked := some r, nonNominal := 0 } } := by
  unfold runAfter at *
  by_cases hc : s.video.fieldRun ≠ 0 ∧ s.video.fieldRate = some r
  · rw [if_pos hc] at *
    simp [seekField, h, State.setVideo, hc, hr, genlockGoes, hg]
  · rw [if_neg hc] at hr
    omega

/-- A field that ends in FIELD_SEEK without making the genlock LOCKED leaves the output as it was. -/
theorem takeSync_seeks {ref began : Nat} {s u : State} (hg : s.video.genlock = .fieldSeek)
    (hgood : goodLine ref s.video = true) (hi : s.video.inputField = some began) (hprimed : s.video.seekPrimed = true)
    (e : seekField (endedRate s.video) (s.setVideo (fieldMeasured ref began)) = u) :
    takeSync ref true s = outputFollows .fieldSeek s.video.retime ref u := by
  rw [takeSync_ends (.inl hg) hgood hi (by simp [opensFirstField, hprimed]), hg, ← e]
  congr 1
  unfold fieldJudged
  rw [show (s.setVideo (fieldMeasured ref began)).video.genlock = .fieldSeek from hg]

theorem outputFollows_seeking {awaited : Bool} {ref : Nat} {s : State} (h : s.video.genlock = .fieldSeek)
    (before : Genlock) : outputFollows before awaited ref s = s := by
  simp only [outputFollows, h]

/-! ## LOCKED -/

theorem takeSync_locked {ref began : Nat} {s u : State} (hg : s.video.genlock = .locked)
    (hgood : goodLine ref s.video = true) (hi : s.video.inputField = some began)
    (e : lockedField (endedRate s.video) (s.setVideo (fieldMeasured ref began)) = u) :
    takeSync ref true s = outputFollows .locked s.video.retime ref u := by
  rw [takeSync_ends (.inr hg) hgood hi (by rw [hg]; rfl), hg, ← e]
  congr 1
  unfold fieldJudged
  rw [show (s.setVideo (fieldMeasured ref began)).video.genlock = .locked from hg]

theorem leaveLocked_raises {s : State} (h : s.video.genlock = .locked) (run : Nat) (rate : Option Rate) :
    leaveLocked run rate s = raise (.videoLock .fieldSeek) { s with video := lockLeft run rate s.video } := by
  rw [leaveLocked, genlockGoes_moves (by show s.video.genlock ≠ _; rw [h]; exact fun hf => nomatch hf)]
  rfl

theorem lockedField_other {r : Rate} {s : State} (h : s.video.genlock = .locked) (hr : s.video.lockedRate ≠ some r) :
    lockedField (some r) s = raise (.videoLock .fieldSeek) { s with video := lockLeft 1 (some r) s.video } := by
  simp only [lockedField]
  rw [if_neg hr, leaveLocked_raises h]

theorem lockedField_fourth {s : State} (h : s.video.genlock = .locked) (hn : 4 ≤ s.video.nonNominal + 1) :
    lockedField none s = raise (.videoLock .fieldSeek)
      { s with video := lockLeft 0 none { s.video with nonNominal := s.video.nonNominal + 1 } } := by
  refine (if_pos hn).trans ?_
  rw [leaveLocked_raises (by exact h)]
  rfl

/-- A field that leaves the genlock LOCKED sets its run of fields that are not nominal (R143). -/
theorem lockedField_stays {nominal : Option Rate} {kept : Nat} {s : State}
    (hsome : nominal ≠ none → nominal = s.video.lockedRate ∧ kept = 0)
    (hnone : nominal = none → kept = s.video.nonNominal + 1 ∧ kept < 4) :
    lockedField nominal s = { s with video := { s.video with nonNominal := kept } } := by
  cases nominal with
  | none =>
    obtain ⟨rfl, hk⟩ := hnone rfl
    exact if_neg (show ¬4 ≤ s.video.nonNominal + 1 by omega)
  | some r =>
    obtain ⟨hr, rfl⟩ := hsome (fun h => nomatch h)
    simp only [lockedField, State.setVideo]
    rw [if_pos hr.symm]

theorem outputFollows_starts {ref : Nat} {s : State} (h : s.video.genlock = .locked) (hm : s.video.mode = .locked) :
    outputFollows .locked false ref s = startField ref s := by
  simp only [outputFollows, h, hm, Bool.false_eq_true, if_false]

theorem outputFollows_retimes {ref : Nat} {s : State} (h : s.video.genlock = .locked) :
    outputFollows .locked true ref s = retimeField ref s := by
  simp only [outputFollows, h, if_true]

/-- The video of a field that re-times to the locked rate (R146). -/
def retimed (ref : Nat) (rate : Rate) (v : Video) : Video :=
  { fieldAfter ref v with mode := .locked, retime := false, outRate := rate }

/-- A pending flash chosen again by its aim (R146). -/
def flashChosenAgain (v : Video) : Video :=
  { v with waiting := v.waiting.map fun p => { p with field := nearestField v v.fieldNo p.aim } }

theorem retimeField_locked {ref : Nat} {rate : Rate} {s : State} (h : s.video.lockedRate = some rate) :
    retimeField ref s = s.setVideo fun v => enterField (!s.loading) (flashChosenAgain (retimed ref rate v)) := by
  have e : s.video.lockedRate.getD s.video.outRate = rate := by
    rw [h]
    rfl
  subst e
  rfl

/-- Settles O42: a good line keeps line lock and a bad one judges it; a field start ends its field, which FIELD_SEEK
counts in its run and LOCKED in its own, and the output follows. -/
theorem genlockAndRetime : Obligations.GenlockAndRetime := by
  unfold Obligations.GenlockAndRetime
  rintro s t sub l _ hp hl hs rfl hg
  have hne : (s.goTo t).video.genlock ≠ .noSignal := by
    show s.video.genlock ≠ _
    rcases hg with h | h <;> rw [h] <;> decide
  refine ⟨fun hbad hb limit hlimit => ?_, fun h₁ h₂ => ?_⟩
  · subst hlimit
    rw [exec_lineSync t sub false hp hl, takeSync_line hne, goodLine_outside (v := (s.goTo t).video) hs hbad]
    refine ⟨fun hc => ?_, fun hc => ?_⟩
    · rw [judgeLine_bad_more (s := s.goTo t) hg hb hc]
      rfl
    · rw [judgeLine_bad_loses (s := s.goTo t) hg hb hc]
      rfl
  have hgood : goodLine (t * 24 + sub) (s.goTo t).video = true := goodLine_inside hs h₁ h₂
  refine ⟨?_, fun hseek hprimed => ?_, fun began v hi hv nominal hn => ⟨fun hseek hprimed hrun => ?_, fun hlock => ?_⟩⟩
  · rw [exec_lineSync t sub false hp hl, takeSync_line hne, hgood, judgeLine_good_kept (s := s.goTo t) hg]
    rfl
  · rw [exec_lineSync t sub true hp hl, takeSync_fieldStart (s := s.goTo t) hg hgood,
      show (s.goTo t).video.genlock = .fieldSeek from hseek, takeFieldStart_opens (by exact hseek) (by exact hprimed)]
    rfl
  · subst hv
    rw [exec_lineSync t sub true hp hl]
    have ends : ∀ u, seekField nominal ((s.goTo t).setVideo (fieldMeasured (t * 24 + sub) began)) = u →
        takeSync (t * 24 + sub) true (s.goTo t) = outputFollows .fieldSeek s.video.retime (t * 24 + sub) u :=
      fun u e => takeSync_seeks (s := s.goTo t) hseek hgood hi hprimed (by rw [← e, hn]; rfl)
    refine ⟨?_, ?_⟩
    · rintro rfl
      rw [ends _ (seekField_none (by exact hprimed)), outputFollows_seeking (by exact hseek)]
      rfl
    · rintro r run rfl hrun'
      change run = runAfter r s.video at hrun'
      subst hrun'
      refine ⟨fun h8 => ?_, fun h8 => ?_⟩
      · rw [ends _ (seekField_runs (by exact hprimed) (by exact h8)), outputFollows_seeking (by exact hseek)]
        rfl
      · rw [ends _ (seekField_locks (by exact hprimed) (by exact hseek) (by exact h8))]
        rfl
  · subst hv
    rw [exec_lineSync t sub true hp hl]
    have ends : ∀ u, lockedField nominal ((s.goTo t).setVideo (fieldMeasured (t * 24 + sub) began)) = u →
        takeSync (t * 24 + sub) true (s.goTo t) = outputFollows .locked s.video.retime (t * 24 + sub) u :=
      fun u e => takeSync_locked (s := s.goTo t) hlock hgood hi (by rw [← e, hn]; rfl)
    refine ⟨?_, ?_, fun kept hsome hnone => ?_⟩
    · rintro r rfl hr
      rw [ends _ (lockedField_other (by exact hlock) (by exact hr)), outputFollows_seeking rfl]
      rfl
    · rintro rfl h4
      rw [ends _ (lockedField_fourth (by exact hlock) (by exact h4)), outputFollows_seeking rfl]
      rfl
    · rw [ends _ (lockedField_stays (kept := kept) (by exact hsome) (by exact hnone))]
      have loaded : (!(s.goTo t).loading) = true := by
        show (!s.loading) = true
        rw [hl]
        rfl
      refine ⟨fun hr hm => ?_, fun hr rate w hrate hw => ?_⟩
      · rw [hr, outputFollows_starts (by exact hlock) (by exact hm)]
        exact ⟨_, rfl, loaded ▸ enterField_begins _ _, rfl⟩
      · subst hw
        rw [hr, outputFollows_retimes (by exact hlock), retimeField_locked (rate := rate) (by exact hrate)]
        exact ⟨_, rfl, loaded ▸ enterField_begins _ _, rfl⟩

end Sys2Proof.Proofs

namespace Sys2Proof.Proofs

open Sys2Proof Sys2Proof.Machine

/-! ## The frames of a beat's parts -/

/-- The onset frame is the one nearest its onset (R58). -/
theorem onsetFrame_near (t : Int) : (500 * onsetFrame t - 24 * t).natAbs ≤ 250 := by
  unfold onsetFrame
  omega

theorem onsetFrame_mono {a b : Int} (h : a ≤ b) : onsetFrame a ≤ onsetFrame b := by
  unfold onsetFrame
  omega

theorem partOnset_mono (r : BeatRec) (lead p parts : Nat) (c : Channel) {j k : Nat} (h : j ≤ k) :
    partOnset r lead p parts j c ≤ partOnset r lead p parts k c := by
  have hd : p * j / parts ≤ p * k / parts := Nat.div_le_div_right (Nat.mul_le_mul_left p h)
  exact onsetFrame_mono (by omega)

/-- The bursts of a beat's parts come in order of their onsets. -/
theorem partBursts_sorted (r : BeatRec) (lead p parts openFrame n : Nat) (c : Channel) :
    ((List.range n).map fun j => partBurst r lead p parts openFrame j c).Pairwise fun a b => a.onset ≤ b.onset := by
  refine List.pairwise_map.mpr (List.Pairwise.imp ?_ List.pairwise_lt_range)
  exact fun h => partOnset_mono r lead p parts c (Nat.le_of_lt h)

/-! ## Bursts placed one after another -/

/-- Bursts placed into a list in order of their onsets. -/
def placedBursts (new kept : List Burst) : List Burst := new.foldl (fun l b => insertBy (·.onset) b l) kept

theorem placedBursts_perm (new kept : List Burst) : (placedBursts new kept).Perm (kept ++ new) := by
  induction new generalizing kept with
  | nil => rw [List.append_nil]; exact .refl _
  | cons b new ih =>
    calc (placedBursts new (insertBy (·.onset) b kept)).Perm (insertBy (·.onset) b kept ++ new) := ih _
      _ |>.Perm (b :: kept ++ new) := (insertBy_perm _ b kept).append_right new
      _ |>.Perm (kept ++ b :: new) := List.perm_middle.symm

theorem placedBursts_sorted (new : List Burst) {kept : List Burst} (h : kept.Pairwise fun a b => a.onset ≤ b.onset) :
    (placedBursts new kept).Pairwise fun a b => a.onset ≤ b.onset := by
  induction new generalizing kept with
  | nil => exact h
  | cons b new ih => exact ih (insertBy_sorted _ b h)

theorem insertBy_last {α : Type} (key : α → Int) (x : α) {l : List α} (h : ∀ y ∈ l, key y ≤ key x) :
    insertBy key x l = l ++ [x] := by
  induction l with
  | nil => rfl
  | cons y ys ih =>
    have hy := h y List.mem_cons_self
    rw [insertBy, if_neg (by omega), ih fun z hz => h z (List.mem_cons_of_mem y hz)]
    rfl

/-- Bursts that come in order, none before a burst of the list, stand behind it. -/
theorem placedBursts_behind {new kept : List Burst} (h : (kept ++ new).Pairwise fun a b => a.onset ≤ b.onset) :
    placedBursts new kept = kept ++ new := by
  induction new generalizing kept with
  | nil => rw [List.append_nil]; rfl
  | cons b new ih =>
    have hb : ∀ y ∈ kept, y.onset ≤ b.onset := fun y hy =>
      (List.pairwise_append.mp h).2.2 y hy b List.mem_cons_self
    have e : kept ++ b :: new = (kept ++ [b]) ++ new := by simp
    rw [placedBursts, List.foldl_cons, insertBy_last _ b hb, e]
    exact ih (e ▸ h)

/-! ## What a commit schedules on a channel -/

theorem withdrawSubs_eq (onset : Int) (bursts : List Burst) : withdrawSubs onset bursts = keptBursts onset bursts := by
  refine List.filter_congr fun b _ => ?_
  by_cases hk : b.kind = .sub <;> simp [hk, ← decide_not]

/-- How many parts a beat has on a channel: its subdivision in the show, and one in a count-in (R57). -/
def BeatParts (r : BeatRec) (c : Channel) (parts : Nat) : Prop :=
  r.phase = .inShow ∧ parts = c.trackedSub ∧ 1 ≤ parts ∧ parts ≤ 4 ∨ (∃ n, r.phase = .countIn n) ∧ parts = 1

theorem BeatParts.bounds {r : BeatRec} {c : Channel} {parts : Nat} (h : BeatParts r c parts) :
    1 ≤ parts ∧ parts ≤ 4 := by
  rcases h with ⟨_, _, h⟩ | ⟨_, h⟩
  · exact h
  · omega

/-- A beat burst has the level of its channel (R52). -/
theorem burstDown_beat (down : Nat) (accent : AccentMode) (beat : Nat) :
    burstDown down (beatBurstKind accent beat) = down := by
  cases accent with
  | all => rfl
  | none => rfl
  | downbeat =>
    simp only [beatBurstKind]
    split <;> rfl

/-- The bursts of a beat are those of its parts, each with whether it is late. -/
theorem madeBursts {r : BeatRec} {lead p parts : Nat} {c : Channel} (openFrame : Nat) (hp : r.period = some p)
    (h : BeatParts r c parts) :
    (burstOnsets r lead c).map (makeBurst c.settings openFrame)
      = (List.range parts).map fun j => (partBurst r lead p parts openFrame j c,
          decide ((partBurst r lead p parts openFrame j c).onset < (openFrame : Int))) := by
  rcases h with ⟨hph, rfl, h₁, h₂⟩ | ⟨⟨n, hph⟩, rfl⟩
  · obtain ⟨n, hn⟩ : ∃ n, c.trackedSub = n + 1 := ⟨c.trackedSub - 1, by omega⟩
    rw [hn, List.range_succ_eq_map]
    simp only [burstOnsets, hph, hp, hn, Nat.add_sub_cancel, List.map_cons, List.map_map]
    refine congrArg₂ _ ?_ (List.map_congr_left fun j _ => ?_)
    · simp [makeBurst, partBurst, partOnset, burstDown_beat, effectiveLead]
    · simp [makeBurst, partBurst, partOnset, burstDown, effectiveLead]
  · simp [burstOnsets, hph, makeBurst, partBurst, partOnset, burstDown_beat, effectiveLead, List.range_one]

theorem scheduleChannel_silent {r : BeatRec} {c : Channel} (lead : Nat) (h : channelSounds r.phase c = false) :
    scheduleChannel r lead c = c := by
  rw [scheduleChannel, h, if_neg Bool.false_ne_true]

/-- A sounding channel takes the bursts of the beat's parts (R57 to R59). -/
theorem scheduleChannel_sounds {r : BeatRec} {lead p parts : Nat} {c : Channel} (hs : channelSounds r.phase c = true)
    (hp : r.period = some p) (h : BeatParts r c parts) {new : List Burst}
    (hnew : new = (List.range parts).map fun j => partBurst r lead p parts (frameOf r.commitTime) j c) :
    scheduleChannel r lead c = { c with
      bursts := (placedBursts new (keptBursts (partOnset r lead p parts 0 c) c.bursts)).take 8
      lateCount := min 65535 (c.lateCount
        + (new.filter fun b => decide (b.onset < (frameOf r.commitTime : Int))).length) } := by
  have hhead : ((burstOnsets r lead c).head?.map (·.2)).getD 0 = (r.time : Int) - (min c.settings.lead lead : Nat) := rfl
  have hfirst : onsetFrame ((r.time : Int) - (min c.settings.lead lead : Nat)) = partOnset r lead p parts 0 c := by
    simp [partOnset]
  rw [scheduleChannel, if_pos hs]
  dsimp only
  rw [hhead, hfirst, madeBursts _ hp h, withdrawSubs_eq, hnew]
  simp only [List.foldl_map, List.filter_map, List.length_map, placedBursts]
  rfl

/-! ## The tracked fields of a fire in order -/

theorem channel_clickFire (c : Cue) {s : State} (hl : s.channels.length = 16) (i : Fin 16) :
    (clickFire c s).channel i = match cueClick i c with
      | some a => takeClickAction a (s.channel i)
      | none => s.channel i :=
  channel_zipChannels _ hl i

/-! ## The start and the end of a burst -/

theorem exec_burstStart {s : State} {i : Fin 16} {b : Burst} {bs : List Burst} (hp : s.powered = true)
    (hb : (s.channel i).bursts = b :: bs) :
    exec (.burstStart i) s = .next (burstStarts i (s.goTo (frameTime b.frame))) :=
  selfTimed_due hp (by rw [burstStartDue, hb]; rfl)

theorem exec_burstEnd {s : State} {i : Fin 16} {b : Burst} (hp : s.powered = true) (hb : (s.channel i).sounding = some b) :
    exec (.burstEnd i) s = .next (burstEnds i (s.goTo (frameTime (b.frame + 720)))) :=
  selfTimed_due hp (by rw [burstEndDue, hb]; rfl)

theorem drainReport_channel (s : State) (i : Fin 16) : (drainReport s).channel i = s.channel i := by
  rw [drainReport_eq]
  rfl

/-- Settles O40: a beat's bursts by its parts, placed into the list in order; the start of a burst with the report of a
drained hold. -/
theorem burstsAreScheduledAndPlayed : Obligations.BurstsAreScheduledAndPlayed := by
  unfold Obligations.BurstsAreScheduledAndPlayed
  refine ⟨⟨fun r s => clickCommit_conducted s, fun r lead c => scheduleChannel_silent lead, ?_, onsetFrame_near, ?_⟩,
    fun s i hp hl => ⟨?_, ?_⟩⟩
  · intro r lead p parts c hs hper hparts new hnew
    have hb := BeatParts.bounds hparts
    have hlen : new.length = parts := by rw [hnew, List.length_map, List.length_range]
    have hsorted : new.Pairwise fun a b => a.onset ≤ b.onset := hnew ▸ partBursts_sorted r lead p parts _ parts c
    have hkept : ∀ onset, (keptBursts onset c.bursts).Sublist c.bursts := fun onset => List.filter_sublist
    rw [scheduleChannel_sounds hs hper hparts hnew]
    refine ⟨rfl, rfl, fun he => ?_, fun h8 => ?_, fun hc => ?_⟩
    · have e : placedBursts new [] = new := placedBursts_behind (kept := []) hsorted
      show (placedBursts new (keptBursts _ c.bursts)).take 8 = new
      rw [he, show keptBursts _ [] = [] from rfl, e, List.take_of_length_le (by omega)]
    · have perm := placedBursts_perm new (keptBursts (partOnset r lead p parts 0 c) c.bursts)
      have hle := (hkept (partOnset r lead p parts 0 c)).length_le
      have hsum := perm.length_eq
      rw [List.length_append] at hsum
      have e := List.take_of_length_le (i := 8)
        (l := placedBursts new (keptBursts (partOnset r lead p parts 0 c) c.bursts)) (by omega)
      exact e.symm ▸ perm
    · exact (placedBursts_sorted new (hc.sublist (hkept _))).sublist (List.take_sublist _ _)
  · intro c s i hl
    rw [channel_clickFire c hl]
    rfl
  · intro b bs hb
    have own := channel_setChannel_same (s := s.goTo (frameTime b.frame)) i
      (fun c => { c with sounding := c.bursts.head?, bursts := c.bursts.tail }) hl
    have hown : (s.goTo (frameTime b.frame)).channel i = s.channel i := rfl
    rw [hown, hb] at own
    refine ⟨_, exec_burstStart hp hb, ?_⟩
    unfold burstStarts
    refine ⟨?_, ?_, fun j hj => ?_, ?_, drainReport_video _, ?_⟩
    · rw [drainReport_eq]
      rfl
    · rw [drainReport_channel, own]
      rfl
    · rw [drainReport_channel, channel_setChannel_other _ _ hj]
      rfl
    · rw [drainReport_eq]
      rfl
    · rw [drainReport_eq]
      rfl
  · intro b hb
    exact ⟨_, exec_burstEnd hp hb, rfl, channel_setChannel_same i _ hl, fun j hj => channel_setChannel_other _ _ hj, rfl⟩

end Sys2Proof.Proofs

namespace Sys2Proof.Proofs

open Sys2Proof Sys2Proof.Machine

/-! ## Numbers in bytes (R187) -/

@[simp] theorem natBytes_length (w n : Nat) : (natBytes w n).length = w := by
  induction w with
  | zero => rfl
  | succ w ih => rw [natBytes, List.length_cons, ih]

theorem bytesNat_from (acc : Nat) (bs : List Byte) :
    bs.foldl (fun acc b => acc * 256 + b.toNat) acc = acc * 256 ^ bs.length + bytesNat bs := by
  induction bs generalizing acc with
  | nil => simp [bytesNat]
  | cons b bs ih =>
    simp only [bytesNat, List.foldl_cons, List.length_cons]
    rw [ih, ih (0 * 256 + b.toNat)]
    ring

theorem bytesNat_cons (b : Byte) (bs : List Byte) : bytesNat (b :: bs) = b.toNat * 256 ^ bs.length + bytesNat bs := by
  rw [bytesNat, List.foldl_cons, bytesNat_from, Nat.zero_mul, Nat.zero_add]

theorem bytesNat_natBytes (w n : Nat) : bytesNat (natBytes w n) = n % 256 ^ w := by
  induction w with
  | zero => rw [natBytes, Nat.pow_zero, Nat.mod_one]; rfl
  | succ w ih =>
    have hmod : n % (256 ^ w * 256) = n % 256 ^ w + 256 ^ w * (n / 256 ^ w % 256) := Nat.mod_mul
    have hbyte : (BitVec.ofNat 8 (n / 256 ^ w)).toNat = n / 256 ^ w % 256 := BitVec.toNat_ofNat ..
    rw [natBytes, bytesNat_cons, natBytes_length, ih, hbyte, Nat.pow_succ, hmod]
    ring

theorem bytesNat_ones (w : Nat) : bytesNat (List.replicate w (0xFF : Byte)) = 256 ^ w - 1 := by
  induction w with
  | zero => rfl
  | succ w ih =>
    have hpos : 0 < 256 ^ w := by positivity
    rw [List.replicate_succ, bytesNat_cons, ih, List.length_replicate, Nat.pow_succ]
    have h : (0xFF : Byte).toNat = 255 := rfl
    rw [h]
    omega

/-! ## What a reader takes from the front of its bytes -/

/-- The reader takes exactly `bytes` from the front, as `a`. -/
def Reads {α : Type} (r : Reader α) (bytes : List Byte) (a : α) : Prop := ∀ rest, r (bytes ++ rest) = some (a, rest)

namespace Reads

variable {α β : Type} {r : Reader α} {bytes bytes' : List Byte} {a : α}

theorem pure (a : α) : Reads (Pure.pure a) [] a := fun _ => rfl

theorem bind {f : α → Reader β} {b : β} (h : Reads r bytes a) (hf : Reads (f a) bytes' b) :
    Reads (r >>= f) (bytes ++ bytes') b := by
  intro rest
  show (r (bytes ++ bytes' ++ rest)).bind (fun p => f p.1 p.2) = _
  rw [List.append_assoc, h]
  exact hf rest

/-- The last part of a reader, which ends with its result. -/
theorem last {f : α → β} (h : Reads r bytes a) : Reads (r >>= fun a => Pure.pure (f a)) bytes (f a) := by
  have := h.bind (f := fun a => Pure.pure (f a)) (pure (f a))
  rwa [List.append_nil] at this

theorem ends {f : α → β} {b : β} (h : Reads r bytes a) (e : f a = b) :
    Reads (r >>= fun a => Pure.pure (f a)) bytes b := e ▸ h.last

theorem num {w n : Nat} (h : n < 256 ^ w) : Reads (readNum w) (natBytes w n) n := by
  intro rest
  have hl := natBytes_length w n
  rw [readNum, if_neg (by rw [List.length_append]; omega), List.take_left' hl, List.drop_left' hl, bytesNat_natBytes,
    Nat.mod_eq_of_lt h]

theorem opt_some {w n : Nat} (h : n + 1 < 256 ^ w) : Reads (readOpt w) (natBytes w n) (some n) := by
  have := (num (w := w) (n := n) (by omega)).last (f := fun n => if n = 256 ^ w - 1 then none else some n)
  rwa [if_neg (by omega)] at this

theorem opt_none (w : Nat) : Reads (readOpt w) (List.replicate w 0xFF) none := by
  have hread : Reads (readNum w) (List.replicate w 0xFF) (256 ^ w - 1) := by
    intro rest
    have hl := List.length_replicate (n := w) (a := (0xFF : Byte))
    rw [readNum, if_neg (by rw [List.length_append]; omega), List.take_left' hl, List.drop_left' hl, bytesNat_ones]
  have := hread.last (f := fun n => if n = 256 ^ w - 1 then none else some n)
  rwa [if_pos rfl] at this

theorem cueNo {n : CueNo} (h : cueNoOk n = true) : Reads readCueNo (natBytes 2 n.whole ++ natBytes 1 n.point) n := by
  simp only [cueNoOk, Bool.and_eq_true, decide_eq_true_eq] at h
  obtain ⟨⟨-, h₁⟩, h₂⟩ := h
  exact (num (by omega)).bind ((num (by omega)).last)

theorem text {chars : List Byte} (h : chars.length < 256) :
    Reads readText (natBytes 1 chars.length ++ chars) chars := by
  refine (num (by omega)).bind fun rest => ?_
  rw [if_neg (by rw [List.length_append]; omega), List.take_left, List.drop_left]

theorem many {f : β → List Byte} {g : β → α} {l : List β} (h : ∀ x ∈ l, Reads r (f x) (g x)) :
    Reads (readMany r l.length) (l.flatMap f) (l.map g) := by
  induction l with
  | nil => exact pure _
  | cons x l ih =>
    rw [List.flatMap_cons, List.map_cons]
    exact (h x List.mem_cons_self).bind ((ih fun y hy => h y (List.mem_cons_of_mem x hy)).last)

theorem list {f : β → List Byte} {g : β → α} {l : List β} (hl : l.length < 256) (h : ∀ x ∈ l, Reads r (f x) (g x)) :
    Reads (readList r) (natBytes 1 l.length ++ l.flatMap f) (l.map g) :=
  (num (by omega)).bind (many h)

/-- A part of a record, behind its presence bit. -/
theorem part {f : β → List Byte} {g : β → α} {o : Option β} {there : Bool} (ht : there = o.isSome)
    (h : ∀ x, o = some x → Reads r (f x) (g x)) : Reads (readIf there r) ((o.map f).getD []) (o.map g) := by
  subst ht
  cases o with
  | none => exact pure _
  | some x => exact (h x rfl).last

end Reads

/-! ## The parts of a cue record -/

theorem presence_bits (a b c d e : Bool) :
    let n := a.toNat + 2 * b.toNat + 4 * c.toNat + 8 * d.toNat + 16 * e.toNat
    n < 32 ∧ n.testBit 0 = a ∧ n.testBit 1 = b ∧ n.testBit 2 = c ∧ n.testBit 3 = d ∧ n.testBit 4 = e := by
  revert a b c d e
  decide

/-- A tempo record as its bytes carry it. -/
def rawTempoOf (r : TempoRecord) : RawTempo :=
  { mode := modePlace r.mode, bpm10 := r.bpm10, meter := r.meter, band := r.band, countIn := r.countIn }

/-- A click action as its bytes carry it. -/
def rawClickOf (a : ClickAction) : RawClick := { channel := a.channel, on := a.on.toNat, sub := a.sub.getD 0 }

/-- The kind, the word and the beat of a trigger's bytes (R187). -/
def triggerParts : Trigger → Nat × Nat × Nat
  | .manual => (0, 0, 0)
  | .atBar bar beat => (1, bar, beat)
  | .follow delay => (2, delay, 0)

/-- A cue record as its bytes carry it. -/
def rawCueOf (c : Cue) : RawCue :=
  { number := c.number, kind := (triggerParts c.trigger).1, word := (triggerParts c.trigger).2.1
    beat := (triggerParts c.trigger).2.2, presence := presenceOf c
    tempo := c.tempo.map rawTempoOf, ramp := c.tempo.bind (·.ramp), barSet := c.barSet, vamp := c.vamp
    caption := c.caption, patches := c.patches, clicks := c.clicks.map rawClickOf }

theorem readTrigger_parts (t : Trigger) :
    readTrigger (triggerParts t).1 (triggerParts t).2.1 (triggerParts t).2.2 = some t := by cases t <;> rfl

theorem readTempo_raw (r : TempoRecord) : readTempo (rawTempoOf r) r.ramp = some r := by
  have h : readMode (modePlace r.mode) = some r.mode := by cases r.mode <;> rfl
  rw [readTempo, rawTempoOf, h]
  rfl

theorem readClick_raw {a : ClickAction} (h : clickOk a = true) : readClick (rawClickOf a) = some a := by
  obtain ⟨channel, on, sub⟩ := a
  have hon : readFlag on.toNat = some on := by cases on <;> rfl
  cases sub with
  | none => simp [readClick, rawClickOf, hon]
  | some k =>
    have hk : k ≠ 0 := by
      simp only [clickOk, Option.map_some, Option.getD_some, Bool.and_eq_true, decide_eq_true_eq] at h
      omega
    simp [readClick, rawClickOf, hon, hk]

theorem mapM_readClick {l : List ClickAction} (h : l.all clickOk = true) :
    (l.map rawClickOf).mapM readClick = some l := by
  induction l with
  | nil => rfl
  | cons a l ih =>
    rw [List.all_cons, Bool.and_eq_true] at h
    simp [readClick_raw h.1, ih h.2]

theorem insertBy_first {α : Type} (key : α → Int) (x : α) {l : List α} (h : ∀ y ∈ l, key x < key y) :
    insertBy key x l = x :: l := by
  cases l with
  | nil => rfl
  | cons y ys => rw [insertBy, if_pos (h y List.mem_cons_self)]

/-- Sorting leaves a list in strictly increasing order as it is. -/
theorem sortBy_self {α : Type} (key : α → Int) {l : List α} (h : l.Pairwise fun a b => key a < key b) :
    sortBy key l = l := by
  induction l with
  | nil => rfl
  | cons x xs ih =>
    obtain ⟨hx, hxs⟩ := List.pairwise_cons.mp h
    rw [sortBy, ih hxs, insertBy_first key x hx]

theorem orderedCue_self {c : Cue} (hp : c.patches.Pairwise fun a b => a.station < b.station)
    (hk : c.clicks.Pairwise fun a b => a.channel < b.channel) : orderedCue c = c := by
  rw [orderedCue, sortBy_self _ (hp.imp Int.ofNat_lt.mpr), sortBy_self _ (hk.imp Int.ofNat_lt.mpr)]

theorem presenceOf_lt (c : Cue) : presenceOf c < 32 :=
  (presence_bits c.tempo.isSome (c.tempo.bind (·.ramp)).isSome c.barSet.isSome c.vamp.isSome c.caption.isSome).1

/-- The record that a valid cue's bytes spell is read as the cue. -/
theorem readCue_raw {c : Cue} (h : cueOk c = true) (hp : c.patches.Pairwise fun a b => a.station < b.station)
    (hk : c.clicks.Pairwise fun a b => a.channel < b.channel) : readCue (rawCueOf c) = some c := by
  have hclicks : c.clicks.all clickOk = true := by
    simp only [cueOk, Bool.and_eq_true] at h
    exact h.2
  have hcond : ¬(32 ≤ (rawCueOf c).presence ∨ ((rawCueOf c).ramp.isSome = true ∧ (rawCueOf c).tempo.isNone = true)) := by
    rintro (h32 | ⟨hr, ht⟩)
    · exact absurd h32 (Nat.not_le.mpr (presenceOf_lt c))
    · cases hc : c.tempo <;> simp [rawCueOf, hc] at hr ht
  rw [readCue, if_neg hcond]
  simp only [rawCueOf, readTrigger_parts, mapM_readClick hclicks]
  obtain ⟨number, trigger, tempo, barSet, vamp, caption, patches, clicks⟩ := c
  cases tempo with
  | none => exact (if_pos h).trans (congrArg some (orderedCue_self hp hk))
  | some r =>
    simp only [Option.map_some, Option.bind_some, readTempo_raw]
    exact (if_pos h).trans (congrArg some (orderedCue_self hp hk))

/-! ## The bytes of a cue record -/

/-- The bytes of a tempo record before its ramp. -/
def tempoBytes (r : TempoRecord) : List Byte :=
  natBytes 1 (modePlace r.mode) ++ (natBytes 2 r.bpm10 ++ (natBytes 1 r.meter ++ (natBytes 1 r.band ++ natBytes 1 r.countIn)))

def rampBytes (r : Ramp) : List Byte := natBytes 2 r.target ++ natBytes 1 r.bars

def vampBytes (v : VampBars) : List Byte := natBytes 2 v.first ++ natBytes 2 v.last

def captionBytes (chars : List Byte) : List Byte := natBytes 1 chars.length ++ chars

def patchBytes (p : PatchAction) : List Byte := natBytes 1 p.station ++ natBytes 2 p.patch

def clickBytes (a : ClickAction) : List Byte :=
  natBytes 1 a.channel ++ (natBytes 1 a.on.toNat ++ natBytes 1 (a.sub.getD 0))

theorem flatMap_part {α : Type} (f : α → List Item) (o : Option α) :
    ((o.map f).getD []).flatMap Item.bytes = (o.map fun x => (f x).flatMap Item.bytes).getD [] := by
  cases o <;> rfl

theorem flatMap_list {α : Type} (f : α → List Item) (l : List α) :
    (listItems f l).flatMap Item.bytes = natBytes 1 l.length ++ l.flatMap fun x => (f x).flatMap Item.bytes := by
  rw [listItems, List.flatMap_cons, List.flatMap_assoc]
  rfl

theorem tempoItems_bytes (r : TempoRecord) :
    (tempoItems r).flatMap Item.bytes = tempoBytes r ++ (r.ramp.map rampBytes).getD [] := by
  rw [tempoItems, List.flatMap_append]
  cases r.ramp <;> simp [tempoBytes, rampBytes, Item.bytes]

theorem tempoParts_bytes (o : Option TempoRecord) :
    ((o.map tempoItems).getD []).flatMap Item.bytes
      = (o.map tempoBytes).getD [] ++ ((o.bind (·.ramp)).map rampBytes).getD [] := by
  cases o with
  | none => rfl
  | some r => exact tempoItems_bytes r

theorem triggerItems_bytes (t : Trigger) :
    (triggerItems t).flatMap Item.bytes = natBytes 1 (triggerParts t).1 ++ (natBytes 2 (triggerParts t).2.1
      ++ natBytes 1 (triggerParts t).2.2) := by
  cases t <;> simp [triggerItems, triggerParts, Item.bytes]

/-- The bytes of a cue record, part after part, as they are read. -/
theorem cueItems_bytes (c : Cue) : (cueItems c).flatMap Item.bytes =
    (natBytes 2 c.number.whole ++ natBytes 1 c.number.point) ++ (natBytes 1 (triggerParts c.trigger).1
      ++ (natBytes 2 (triggerParts c.trigger).2.1 ++ (natBytes 1 (triggerParts c.trigger).2.2
      ++ (natBytes 1 (presenceOf c) ++ ((c.tempo.map tempoBytes).getD []
      ++ (((c.tempo.bind (·.ramp)).map rampBytes).getD [] ++ ((c.barSet.map (natBytes 2)).getD []
      ++ ((c.vamp.map vampBytes).getD [] ++ ((c.caption.map captionBytes).getD []
      ++ ((natBytes 1 c.patches.length ++ c.patches.flatMap patchBytes)
      ++ (natBytes 1 c.clicks.length ++ c.clicks.flatMap clickBytes))))))))))) := by
  have hflag : ∀ b : Bool, (Item.flag b).bytes = natBytes 1 b.toNat := by decide
  have hnum : ∀ w n, (Item.num w n).bytes = natBytes w n := fun _ _ => rfl
  have hcue : (Item.cue (some c.number)).bytes = natBytes 2 c.number.whole ++ natBytes 1 c.number.point := rfl
  have htext : ∀ x, (Item.text x).bytes = captionBytes x := fun _ => rfl
  rw [cueItems]
  simp only [List.flatMap_append, List.flatMap_cons, List.flatMap_nil, flatMap_list, tempoParts_bytes,
    triggerItems_bytes]
  simp only [flatMap_part, List.flatMap_cons, List.flatMap_nil, hflag, hnum, hcue, htext, List.append_nil,
    List.append_assoc]
  rfl

theorem reads_tempo {r : TempoRecord} (h : tempoOk r = true) : Reads readTempoPart (tempoBytes r) (rawTempoOf r) := by
  simp only [tempoOk, Bool.and_eq_true, decide_eq_true_eq] at h
  obtain ⟨⟨⟨⟨⟨⟨-, hbpm⟩, -⟩, hmeter⟩, hband⟩, hcount⟩, -⟩ := h
  have hmode : modePlace r.mode < 256 := by cases r.mode <;> decide
  exact (Reads.num (by omega)).bind ((Reads.num (by omega)).bind ((Reads.num (by omega)).bind
    ((Reads.num (by omega)).bind ((Reads.num (by omega)).last))))

theorem reads_ramp {r : Ramp} (h : rampOk r = true) : Reads readRampPart (rampBytes r) r := by
  simp only [rampOk, Bool.and_eq_true, decide_eq_true_eq] at h
  exact (Reads.num (by omega)).bind ((Reads.num (by omega)).last)

theorem reads_vamp {v : VampBars} (h : vampOk v = true) : Reads readVampPart (vampBytes v) v := by
  simp only [vampOk, barOk, Bool.and_eq_true, decide_eq_true_eq] at h
  exact (Reads.num (by omega)).bind ((Reads.num (by omega)).last)

theorem reads_patch {p : PatchAction} (h : stationOk p.station = true ∧ patchOk p.patch = true) :
    Reads readPatchPart (patchBytes p) p := by
  simp only [stationOk, patchOk, Bool.and_eq_true, decide_eq_true_eq] at h
  exact (Reads.num (by omega)).bind ((Reads.num (by omega)).last)

theorem reads_click {a : ClickAction} (h : clickOk a = true) : Reads readClickPart (clickBytes a) (rawClickOf a) := by
  simp only [clickOk, Bool.and_eq_true, decide_eq_true_eq] at h
  obtain ⟨⟨-, hchannel⟩, hsub⟩ := h
  have hon : a.on.toNat < 256 := by cases a.on <;> decide
  have hpart : a.sub.getD 0 < 256 := by
    cases hs : a.sub with
    | none => decide
    | some k =>
      rw [hs] at hsub
      simp only [Option.map_some, Option.getD_some, Bool.and_eq_true, decide_eq_true_eq] at hsub ⊢
      omega
  exact (Reads.num (by omega)).bind ((Reads.num (by omega)).bind ((Reads.num (by omega)).last))

theorem triggerParts_lt {t : Trigger} (h : triggerOk t = true) :
    (triggerParts t).1 < 256 ∧ (triggerParts t).2.1 < 65536 ∧ (triggerParts t).2.2 < 256 := by
  cases t <;> simp only [triggerOk, Bool.and_eq_true, decide_eq_true_eq] at h <;> simp only [triggerParts] <;> omega

/-- The bytes of a valid cue are read as its record. -/
theorem reads_cueRecord {c : Cue} (h : cueOk c = true) :
    Reads readCueRecord ((cueItems c).flatMap Item.bytes) (rawCueOf c) := by
  obtain ⟨h32, b₀, b₁, b₂, b₃, b₄⟩ := presence_bits c.tempo.isSome (c.tempo.bind (·.ramp)).isSome c.barSet.isSome
    c.vamp.isSome c.caption.isSome
  simp only [cueOk, Bool.and_eq_true, decide_eq_true_eq] at h
  obtain ⟨⟨⟨⟨⟨⟨⟨⟨⟨⟨⟨hnumber, htrigger⟩, htempo⟩, hbar⟩, hvamp⟩, hcaption⟩, hpatches⟩, -⟩, hpatch⟩, hclicks⟩, -⟩, hclick⟩ := h
  obtain ⟨hkind, hword, hbeat⟩ := triggerParts_lt htrigger
  have tempoRead : ∀ r, c.tempo = some r → tempoOk r = true := fun r hr => by rwa [hr] at htempo
  rw [cueItems_bytes]
  refine (Reads.cueNo hnumber).bind ((Reads.num hkind).bind ((Reads.num hword).bind ((Reads.num hbeat).bind
    ((Reads.num (Nat.lt_of_lt_of_le h32 (by decide))).bind ?_))))
  refine (Reads.part b₀ fun r hr => reads_tempo (tempoRead r hr)).bind ((Reads.part (g := id) b₁ fun r hr => ?_).bind
    ((Reads.part (g := id) b₂ fun b hb => Reads.num ?_).bind ((Reads.part (g := id) b₃ fun v hv => reads_vamp ?_).bind
    ((Reads.part (g := id) b₄ fun x hx => Reads.text ?_).bind
    ((Reads.list (g := id) (by omega) fun p hp => reads_patch ?_).bind
    ((Reads.list (by omega) fun a ha => reads_click (List.all_eq_true.mp hclick a ha)).ends ?_))))))
  · cases ht : c.tempo with
    | none => rw [ht] at hr; cases hr
    | some t =>
      rw [ht, Option.bind_some] at hr
      have hok := tempoRead t ht
      simp only [tempoOk, hr, Bool.and_eq_true] at hok
      exact reads_ramp hok.2
  · rw [hb] at hbar
    simp only [Option.map_some, Option.getD_some, barOk, Bool.and_eq_true, decide_eq_true_eq] at hbar
    rw [id]
    omega
  · rwa [hv] at hvamp
  · rw [hx] at hcaption
    simp only [Option.map_some, Option.getD_some, captionOk, Bool.and_eq_true, decide_eq_true_eq] at hcaption
    rw [id]
    omega
  · have := List.all_eq_true.mp hpatch p hp
    rwa [Bool.and_eq_true] at this
  · simp only [Option.map_id, List.map_id, id]
    rfl

/-- Settles O58: every part of the record reads back as it was laid out, one behind the other. -/
theorem cueRecordReadsBack : Obligations.CueRecordReadsBack := by
  unfold Obligations.CueRecordReadsBack
  refine ⟨fun c rest h hp hk => ⟨rawCueOf c, reads_cueRecord h rest, readCue_raw h hp hk⟩,
    fun w n h => Reads.num h, fun w v rest h hw => ?_⟩
  cases v with
  | none => exact Reads.opt_none w rest
  | some n => exact Reads.opt_some (h n rfl) rest

end Sys2Proof.Proofs

namespace Sys2Proof.Proofs

open Sys2Proof Sys2Proof.Machine

/-! ## Errors of the line -/

theorem linkError_eq (c : LinkCount) (s : State) :
    linkError c s = raise (.linkError c) { s with link := s.link.count c } := rfl

theorem arrive_queued {f : Frame} {s : State} (h : s.link.queue.length < 4) :
    arrive f s = { s with link := { s.link with queue := s.link.queue ++ [f] } } := if_pos h

theorem arrive_overflows {f : Frame} {s : State} (h : 4 ≤ s.link.queue.length) :
    arrive f s = linkError .overflow s := if_neg (Nat.not_lt.mpr h)

theorem receiveFrame_broken {f : Frame} {s : State} (h : s.link.inBreak = true) : receiveFrame f s = s := if_pos h

theorem receiveFrame_arrives {f : Frame} {s : State} (h : s.link.inBreak = false) (hl : f.payload.length ≤ 240) :
    receiveFrame f s = arrive f (s.setLink fun l => { l with got := none, lastByte := s.now }) := by
  have hn : ¬ s.link.inBreak = true := by rw [h]; decide
  exact (if_neg hn).trans (if_pos hl)

theorem gapDue_receiving {s : State} {g : List Byte} (h : s.link.got = some g) :
    gapDue s = some (s.link.lastByte + bitTimes 52 s.link.rate.baud) := by
  rw [gapDue, h]
  rfl

theorem declareBreak_first {s : State} (h : s.link.inBreak = false) :
    declareBreak s = linkError .break_ (s.setLink fun l => { l with got := none, queue := [], inBreak := true }) := by
  rw [declareBreak, if_neg (by rw [h]; decide)]

theorem declareBreak_again {s : State} (h : s.link.inBreak = true) : declareBreak s = s := if_pos h

/-! ## What a framer takes in a row -/

section Framers

variable {ε : Type} {take : Option (List Byte) → Byte → Framed ε}

theorem feed_nil (fuel : Nat) (got : Option (List Byte)) : feed take fuel got [] = (got, []) := by
  cases fuel <;> rfl

theorem feed_goes {fuel : Nat} {got got' : Option (List Byte)} {b : Byte} (bs : List Byte)
    (h : take got b = .goes got') : feed take (fuel + 1) got (b :: bs) = feed take fuel got' bs := by
  rw [feed, h]

theorem feed_comes {fuel : Nat} {got : Option (List Byte)} {b : Byte} {e : ε} {again : List Byte} (bs : List Byte)
    (h : take got b = .comes e again) : feed take (fuel + 1) got (b :: bs)
      = ((feed take fuel none (again ++ bs)).1, e :: (feed take fuel none (again ++ bs)).2) := by
  rw [feed, h]

/-- Bytes that a hunting framer passes over. -/
theorem feed_passes {pre : List Byte} (fuel : Nat) (bs : List Byte) (h : ∀ x ∈ pre, take none x = .goes none) :
    feed take (fuel + pre.length) none (pre ++ bs) = feed take fuel none bs := by
  induction pre with
  | nil => rfl
  | cons x pre ih =>
    rw [List.cons_append, List.length_cons, ← Nat.add_assoc, feed_goes _ (h x List.mem_cons_self),
      ih fun y hy => h y (List.mem_cons_of_mem x hy)]

/-- Bytes that a framer gathers behind those it has. -/
theorem feed_gathers {new : List Byte} (fuel : Nat) (bs g : List Byte)
    (h : ∀ pre x post, new = pre ++ x :: post → take (some (g ++ pre)) x = .goes (some (g ++ pre ++ [x]))) :
    feed take (fuel + new.length) (some g) (new ++ bs) = feed take fuel (some (g ++ new)) bs := by
  induction new generalizing g with
  | nil => rw [List.append_nil]; rfl
  | cons x new ih =>
    have hx := h [] x new rfl
    rw [List.append_nil] at hx
    rw [List.cons_append, List.length_cons, ← Nat.add_assoc, feed_goes _ hx, ih]
    · rw [List.append_assoc]
      rfl
    · intro pre y post e
      have := h (x :: pre) y post (by rw [e]; rfl)
      rwa [List.append_assoc, List.append_assoc] at *

end Framers

/-! ## The framer of the Show Link, byte by byte -/

theorem takeOne_hunting (b : Byte) : takeOne none b = .goes (if b = 0x7E then some [] else none) := rfl

theorem takeOne_passes {b : Byte} (h : b ≠ 0x7E) : takeOne none b = .goes none := by rw [takeOne_hunting, if_neg h]

/-- A frame whose length is allowed goes on until it has its payload and its CRC. -/
theorem frameStep_goes {g : List Byte} (h : g.length < 2 ∨ bytesNat (g.take 2) ≤ 240 ∧ g.length < bytesNat (g.take 2) + 6) :
    frameStep g = .goes (some g) := by
  unfold frameStep
  dsimp only
  rcases h with h | ⟨h₁, h₂⟩
  · rw [if_pos h]
  · by_cases h2 : g.length < 2
    · rw [if_pos h2]
    · exact (if_neg h2).trans ((if_neg (Nat.not_lt.mpr h₁)).trans (if_pos h₂))

theorem frameStep_tooLong {g : List Byte} (h2 : 2 ≤ g.length) (h : 240 < bytesNat (g.take 2)) :
    frameStep g = .comes .lengthDiscard g := by
  unfold frameStep
  dsimp only
  rw [if_neg (Nat.not_lt.mpr h2)]
  exact if_pos h

/-- The last byte of a frame brings the test of its CRC. -/
theorem frameStep_ends {g : List Byte} {len : Nat} (hlen : bytesNat (g.take 2) = len) (h240 : len ≤ 240)
    (hg : g.length = len + 6) :
    frameStep g = if (crc (g.take (len + 4))).toNat = bytesNat (g.drop (len + 4)) then
        .comes (.complete { tag := g.getD 2 0, kind := g.getD 3 0, payload := (g.drop 4).take len }) []
      else .comes .crcDiscard g := by
  unfold frameStep
  dsimp only
  rw [hlen, if_neg (by omega)]
  exact (if_neg (Nat.not_lt.mpr h240)).trans (if_neg (by omega))

theorem bytesNat_two (h b : Byte) : bytesNat [h, b] = h.toNat * 256 + b.toNat := by
  simp [bytesNat]

theorem feedByte_hunting (b : Byte) : feedByte none b = (if b = 0x7E then some [] else none, []) := rfl

/-- A length above 240 is a discard, whose bytes are examined again. -/
theorem feedByte_tooLong {h b : Byte} (hlen : 240 < h.toNat * 256 + b.toNat) (hh : h ≠ 0x7E) :
    feedByte (some [h]) b = (if b = 0x7E then some [] else none, [.lengthDiscard]) := by
  have step : takeOne (some [h]) b = .comes .lengthDiscard [h, b] :=
    frameStep_tooLong (g := [h, b]) (le_refl 2) (by rw [show [h, b].take 2 = [h, b] from rfl, bytesNat_two]; exact hlen)
  have again : feed takeOne (13 + 1 + 1) none [h, b] = (if b = 0x7E then some [] else none, []) := by
    rw [feed_goes _ (takeOne_passes hh), feed_goes _ (takeOne_hunting b), feed_nil]
  exact (feed_comes (fuel := 15) [] step).trans (by rw [List.append_nil, again])

/-- Fuel enough for the bytes of a failed frame. -/
theorem feedFuel_enough (n : Nat) : ∃ k, feedFuel (n + 1) = k + 1 + n + 1 + 1 := by
  refine ⟨(n + 3) * (n + 3) - n - 3, ?_⟩
  have : n + 3 ≤ (n + 3) * (n + 3) := Nat.le_mul_of_pos_left _ (by omega)
  show (n + 3) * (n + 3) = _
  omega

/-- A frame that starts within bytes examined again gathers the bytes after it. -/
theorem feed_restarts {new : List Byte} (fuel : Nat) (h6 : new.length < 6)
    (h2 : 2 ≤ new.length → bytesNat (new.take 2) ≤ 240) :
    feed takeOne (fuel + new.length) (some []) new = (some new, []) := by
  have := feed_gathers (take := takeOne) (new := new) fuel [] [] ?_
  · rwa [List.append_nil, feed_nil] at this
  · intro pre x post e
    refine frameStep_goes ?_
    rw [List.nil_append]
    by_cases hs : (pre ++ [x]).length < 2
    · exact .inl hs
    · have hp : new = (pre ++ [x]) ++ post := by rw [e]; simp
      have hle : (pre ++ [x]).length ≤ new.length := by rw [hp, List.length_append (bs := post)]; omega
      have htake : (pre ++ [x]).take 2 = new.take 2 := by
        have : (pre ++ [x] ++ post).take 2 = (pre ++ [x]).take 2 := List.take_append_of_le_length (Nat.not_lt.mp hs)
        rw [hp, this]
      rw [htake]
      exact .inr ⟨h2 (by omega), by omega⟩

/-- A CRC that differs is a discard, whose bytes are examined again from the first length byte (R176). -/
theorem feedByte_badCrc {g pre new : List Byte} {b : Byte} {len : Nat} (hlen : len = bytesNat (g.take 2)) (h240 : len ≤ 240)
    (hg : g.length = len + 5) (hcrc : (crc (g.take (len + 4))).toNat ≠ bytesNat (g.drop (len + 4) ++ [b]))
    (hpre : ∀ x ∈ pre, x ≠ 0x7E)
    (h : g ++ [b] = pre ∨ g ++ [b] = pre ++ 0x7E :: new ∧ new.length < 6 ∧ (2 ≤ new.length → bytesNat (new.take 2) ≤ 240)) :
    feedByte (some g) b = (if g ++ [b] = pre then none else some new, [.crcDiscard]) := by
  have hstep : takeOne (some g) b = .comes .crcDiscard (g ++ [b]) := by
    have htake : ∀ n, n ≤ len + 4 → (g ++ [b]).take n = g.take n := fun n hn =>
      List.take_append_of_le_length (by omega)
    have hdrop : (g ++ [b]).drop (len + 4) = g.drop (len + 4) ++ [b] := List.drop_append_of_le_length (by omega)
    refine (frameStep_ends (len := len) ?_ h240 (by rw [List.length_append, hg]; rfl)).trans (if_neg ?_)
    · rw [htake 2 (by omega), hlen]
    · rw [htake _ le_rfl, hdrop]
      exact hcrc
  have hpass : ∀ x ∈ pre, takeOne none x = .goes none := fun x hx => takeOne_passes (hpre x hx)
  have again : ∀ fuel, feed takeOne (fuel + 1 + (g ++ [b]).length) none (g ++ [b])
      = (if g ++ [b] = pre then none else some new, []) := by
    intro fuel
    by_cases hall : g ++ [b] = pre
    · rw [if_pos hall, hall]
      have := feed_passes (take := takeOne) (fuel + 1) [] hpass
      rwa [List.append_nil, feed_nil] at this
    · rw [if_neg hall]
      obtain ⟨e, h6, h2⟩ := h.resolve_left hall
      have hfuel : fuel + 1 + (g ++ [b]).length = (fuel + 1 + new.length + 1) + pre.length := by
        rw [e, List.length_append, List.length_cons]
        omega
      rw [hfuel, e, feed_passes _ _ hpass, feed_goes _ (takeOne_hunting 0x7E), if_pos rfl, feed_restarts _ h6 h2]
  obtain ⟨k, hk⟩ := feedFuel_enough g.length
  have hk' : feedFuel ((some g |>.map List.length).getD 0 + 1) = k + 1 + (g ++ [b]).length + 1 := by
    rw [List.length_append]
    exact hk
  rw [feedByte, hk', feed_comes [] hstep, List.append_nil, again]

/-! ## A byte on the Show Link -/

theorem receiveByte_broken {b : Byte} {s : State} (h : s.link.inBreak = true) : receiveByte b s = s := if_pos h

theorem receiveByte_fed {b : Byte} {s : State} {got : Option (List Byte)} {events : List FrameEvent}
    (h : s.link.inBreak = false) (hf : feedByte s.link.got b = (got, events)) :
    receiveByte b s = events.foldl takeFrameEvent (s.setLink fun l => { l with got := got, lastByte := s.now }) := by
  rw [receiveByte, if_neg (by rw [h]; decide), hf]

/-- Settles O56: the frame rows by their effects, and the framer by what it takes in a row. -/
theorem linkEvents : Obligations.LinkEvents := by
  unfold Obligations.LinkEvents
  refine ⟨fun s t tag kind payload hp => ⟨?_, fun hb hl => ⟨?_, ?_⟩, ?_, ?_, ?_, event_on t hp⟩,
    fun s t b hp => ⟨?_, ?_, ?_, ?_⟩⟩
  · exact fun hb => (event_on t hp).trans (congrArg _ (receiveFrame_broken (s := s.goTo t) hb))
  · intro hq
    refine (event_on t hp).trans (congrArg _ ?_)
    rw [receiveFrame_arrives (s := s.goTo t) hb hl, arrive_queued (by exact hq)]
    rfl
  · intro hq
    refine (event_on t hp).trans (congrArg _ ?_)
    rw [receiveFrame_arrives (s := s.goTo t) hb hl, arrive_overflows (by exact hq)]
    rfl
  · exact fun g hg => selfTimed_due hp (gapDue_receiving hg)
  · intro hb
    exact (event_on t hp).trans (congrArg _ (declareBreak_first (s := s.goTo t) hb))
  · intro hb
    exact (event_on t hp).trans (congrArg _ (declareBreak_again (s := s.goTo t) hb))
  · exact fun hb => (event_on t hp).trans (congrArg _ (receiveByte_broken (s := s.goTo t) hb))
  · intro hb hg
    have e := receiveByte_fed (s := s.goTo t) hb ((congrArg (feedByte · b) hg).trans (feedByte_hunting b))
    exact (event_on t hp).trans (congrArg _ e)
  · intro h hb hg hlen hh
    have e := receiveByte_fed (s := s.goTo t) hb ((congrArg (feedByte · b) hg).trans (feedByte_tooLong hlen hh))
    exact (event_on t hp).trans (congrArg _ e)
  · intro g len hb hg hlen h240 hgl hcrc pre new hpre h
    have e := receiveByte_fed (s := s.goTo t) hb
      ((congrArg (feedByte · b) hg).trans (feedByte_badCrc hlen h240 hgl hcrc hpre h))
    exact (event_on t hp).trans (congrArg _ e)

end Sys2Proof.Proofs

namespace Sys2Proof.Proofs

open Sys2Proof Sys2Proof.Machine

/-! ## A run of the part, command by command -/

theorem run_front {s u : State} {c : Instr} {rest : List Instr} (n : Nat) (h : exec c { s with pending := rest } = .next u) :
    Host.Core.run Sys2Proof.core (n + 1) { s with pending := c :: rest } = Host.Core.run Sys2Proof.core n u := by
  have e : Sys2Proof.core.step { s with pending := c :: rest } = .next u := h
  simp only [Host.Core.run, e]

/-! ## A frame on the Show Link, byte by byte (R175) -/

/-- The part with some bytes of a frame received, the last of them at show time `t`. -/
def framing (t : Nat) (g : List Byte) (s : State) : State :=
  { s.goTo t with link := { s.link with got := some g, lastByte := max s.now t } }

theorem feedByte_goes {g : List Byte} {b : Byte} (h : frameStep (g ++ [b]) = .goes (some (g ++ [b]))) :
    feedByte (some g) b = (some (g ++ [b]), []) :=
  (feed_goes (take := takeOne) [] (show takeOne (some g) b = _ from h)).trans (feed_nil _ _)

theorem feedByte_completes {g : List Byte} {b : Byte} {e : FrameEvent} (h : frameStep (g ++ [b]) = .comes e []) :
    feedByte (some g) b = (none, [e]) := by
  refine (feed_comes (take := takeOne) [] (show takeOne (some g) b = _ from h)).trans ?_
  rw [List.append_nil, feed_nil]

/-- A byte that starts or goes on with a frame. -/
theorem exec_receivedByte_goes {s : State} {t : Nat} {b : Byte} {g : List Byte} (hp : s.powered = true)
    (hb : s.link.inBreak = false) (h : feedByte s.link.got b = (some g, [])) :
    exec (.receivedByte t b) s = .next (framing t g s) :=
  (event_on t hp).trans (congrArg _ (receiveByte_fed (s := s.goTo t) hb h))

theorem framing_again (t : Nat) (g g' : List Byte) (s : State) : framing t g' (framing t g s) = framing t g' s := by
  have h : max (max s.now t) t = max s.now t := by omega
  unfold framing State.goTo
  simp only [h]

/-- Bytes that go on with a frame are gathered one by one. -/
theorem run_gathers {s : State} {t : Nat} (m : Nat) (rest : List Instr) (new : List Byte) (g : List Byte)
    (hp : s.powered = true) (hb : s.link.inBreak = false)
    (h : ∀ pre x post, new = pre ++ x :: post → frameStep (g ++ pre ++ [x]) = .goes (some (g ++ pre ++ [x]))) :
    Host.Core.run Sys2Proof.core (m + new.length)
        { framing t g s with pending := new.map (Instr.receivedByte t) ++ rest }
      = Host.Core.run Sys2Proof.core m { framing t (g ++ new) s with pending := rest } := by
  induction new generalizing g with
  | nil => rw [List.append_nil]; rfl
  | cons x new ih =>
    have hx := h [] x new rfl
    rw [List.append_nil] at hx
    have step : exec (.receivedByte t x) { framing t g s with pending := new.map (Instr.receivedByte t) ++ rest }
        = .next { framing t (g ++ [x]) s with pending := new.map (Instr.receivedByte t) ++ rest } := by
      refine (exec_receivedByte_goes (s := { framing t g s with pending := _ }) hp hb (feedByte_goes hx)).trans ?_
      exact congrArg (fun u : State => Host.Outcome.next { u with pending := new.map (Instr.receivedByte t) ++ rest })
        (framing_again t g (g ++ [x]) s)
    rw [List.length_cons, ← Nat.add_assoc, List.map_cons, List.cons_append, run_front _ step, ih]
    · rw [List.append_assoc]
      rfl
    · intro pre y post e
      have := h (x :: pre) y post (by rw [e]; rfl)
      simpa using this

/-- The bytes of a frame between its start byte and its CRC. -/
def coveredBytes (tag kind : Byte) (payload : List Byte) : List Byte :=
  natBytes 2 payload.length ++ [tag, kind] ++ payload

theorem coveredBytes_length (tag kind : Byte) (payload : List Byte) :
    (coveredBytes tag kind payload).length = payload.length + 4 := by
  simp [coveredBytes]
  omega

theorem natBytes_two (n : Nat) : natBytes 2 n = [BitVec.ofNat 8 (n / 256), BitVec.ofNat 8 n] := by
  simp [natBytes]

theorem coveredBytes_head {tag kind : Byte} {payload : List Byte} (h : payload.length ≤ 240) (more : List Byte) :
    bytesNat ((coveredBytes tag kind payload ++ more).take 2) = payload.length := by
  have e : (coveredBytes tag kind payload ++ more).take 2 = natBytes 2 payload.length := by
    simp [coveredBytes, natBytes_two]
  rw [e, bytesNat_natBytes, Nat.mod_eq_of_lt (by omega)]

/-- Before its last byte a frame goes on. -/
theorem frameStep_covered {tag kind : Byte} {payload body pre post : List Byte} {hi x : Byte} (h : payload.length ≤ 240)
    (hbody : body = coveredBytes tag kind payload ++ [hi]) (e : body = pre ++ x :: post) :
    frameStep (pre ++ [x]) = .goes (some (pre ++ [x])) := by
  have hsplit : body = pre ++ [x] ++ post := by rw [e]; simp
  have hlen : body.length = payload.length + 5 := by rw [hbody, List.length_append, coveredBytes_length]; rfl
  have hle : (pre ++ [x]).length + post.length = body.length := by rw [hsplit, ← List.length_append]
  refine frameStep_goes ?_
  by_cases h2 : (pre ++ [x]).length < 2
  · exact .inl h2
  · have htake : (pre ++ [x]).take 2 = body.take 2 := by
      have : (pre ++ [x] ++ post).take 2 = (pre ++ [x]).take 2 := List.take_append_of_le_length (Nat.not_lt.mp h2)
      rw [hsplit, this]
    rw [htake, hbody, coveredBytes_head h]
    exact .inr ⟨h, by omega⟩

/-- The last byte of a frame whose CRC is right completes it. -/
theorem frameStep_whole {tag kind : Byte} {payload : List Byte} (h : payload.length ≤ 240) :
    frameStep (coveredBytes tag kind payload ++ natBytes 2 (crc (coveredBytes tag kind payload)).toNat)
      = .comes (.complete { tag := tag, kind := kind, payload := payload }) [] := by
  have hc := coveredBytes_length tag kind payload
  have hparts : ∀ more, (coveredBytes tag kind payload ++ more).getD 2 0 = tag
      ∧ (coveredBytes tag kind payload ++ more).getD 3 0 = kind
      ∧ ((coveredBytes tag kind payload ++ more).drop 4).take payload.length = payload := by
    intro more
    simp [coveredBytes, natBytes_two]
  obtain ⟨htag, hkind, hpayload⟩ := hparts (natBytes 2 (crc (coveredBytes tag kind payload)).toNat)
  rw [frameStep_ends (coveredBytes_head h _) h (by rw [List.length_append, hc, natBytes_length]), htag, hkind, hpayload,
    ← hc, List.take_left, List.drop_left, bytesNat_natBytes, if_pos]
  exact (Nat.mod_eq_of_lt (crc (coveredBytes tag kind payload)).isLt).symm

/-- A frame that arrives byte by byte on a quiet link stands last in the queue (R175, R179). -/
theorem run_frame {s : State} (t : Nat) (tag kind : Byte) {payload : List Byte} (hp : s.powered = true)
    (hb : s.link.inBreak = false) (hg : s.link.got = none) (hq : s.link.queue.length < 4) (hl : payload.length ≤ 240) :
    Host.Core.run Sys2Proof.core (frameBytes tag kind payload).length
        { s with pending := (frameBytes tag kind payload).map (Instr.receivedByte t) }
      = .next { s.goTo t with
          pending := []
          link := { s.link with
            lastByte := max s.now t
            queue := s.link.queue ++ [{ tag := tag, kind := kind, payload := payload }] } } := by
  obtain ⟨hi, lo, hcrc⟩ : ∃ hi lo, natBytes 2 (crc (coveredBytes tag kind payload)).toNat = [hi, lo] :=
    ⟨_, _, natBytes_two _⟩
  have hwhole := frameStep_whole (tag := tag) (kind := kind) hl
  rw [hcrc] at hwhole
  generalize hbody : coveredBytes tag kind payload ++ [hi] = body
  have hframe : frameBytes tag kind payload = 0x7E :: (body ++ [lo]) := by
    show 0x7E :: (coveredBytes tag kind payload ++ natBytes 2 (crc (coveredBytes tag kind payload)).toNat) = _
    rw [hcrc, ← hbody]
    simp
  have hlast : frameStep (body ++ [lo]) = .comes (.complete { tag := tag, kind := kind, payload := payload }) [] := by
    rw [← hwhole, ← hbody]
    simp
  have start : ∀ rest, exec (.receivedByte t 0x7E) { s with pending := rest }
      = .next { framing t [] s with pending := rest } := fun rest =>
    exec_receivedByte_goes (s := { s with pending := rest }) hp hb (by rw [hg]; rfl)
  have final : exec (.receivedByte t lo) { framing t body s with pending := [] } = .next { s.goTo t with
      pending := []
      link := { s.link with
        lastByte := max s.now t
        queue := s.link.queue ++ [{ tag := tag, kind := kind, payload := payload }] } } := by
    have hmax : max (max s.now t) t = max s.now t := by omega
    refine (event_on t (s := { framing t body s with pending := [] }) hp).trans (congrArg _ ?_)
    rw [receiveByte_fed (s := ({ framing t body s with pending := [] } : State).goTo t) hb (feedByte_completes hlast)]
    refine (arrive_queued (by exact hq)).trans ?_
    simp only [framing, State.goTo, State.setLink, hmax, hg]
  have gathered := run_gathers (s := s) (t := t) 1 [.receivedByte t lo] body [] hp hb
    fun pre x post e => by simpa using frameStep_covered hl hbody.symm e
  rw [hframe, List.length_cons, List.map_cons, run_front _ (start _), List.length_append, List.map_append, Nat.add_comm]
  refine gathered.trans ((run_front 0 ?_).trans rfl)
  exact final

/-! ## The frames of the Station Links (R188) -/

theorem byteSum_append (xs : List Byte) (y : Byte) : byteSum (xs ++ [y]) = byteSum xs + y := by
  rw [byteSum, List.foldl_append]
  rfl

/-- The check byte makes the sum of a frame 0. -/
theorem byteSum_rigFrame (type : Byte) (body : List Byte) : byteSum (rigFrame type body).tail = 0 := by
  show byteSum (type :: body ++ [-byteSum (type :: body)]) = 0
  rw [byteSum_append]
  exact BitVec.add_right_neg _

theorem natBytes_one (n : Nat) : natBytes 1 n = [BitVec.ofNat 8 n] := by
  simp [natBytes]

theorem rigTake_hunting (b : Byte) : rigTake none b = .goes (if b = 0xA5 then some [] else none) := rfl

theorem rigTake_started : rigTake none 0xA5 = .goes (some []) := rfl

theorem readRigFrame_isSome (type : Byte) (body : Nat) :
    (readRigFrame type body).isSome = true ↔ type ∈ [(0x81 : Byte), 0x82, 0x83, 0x84] := by
  unfold readRigFrame
  split_ifs <;> simp_all

/-- A type that the rig sends goes on with its frame. -/
theorem rigTake_type {type : Byte} (h : type ∈ [(0x81 : Byte), 0x82, 0x83, 0x84]) :
    rigTake (some []) type = .goes (some [type]) := if_pos ((readRigFrame_isSome type 0).mpr h)

theorem rigTake_otherType {type : Byte} (h : type ∉ [(0x81 : Byte), 0x82, 0x83, 0x84]) :
    rigTake (some []) type = .comes .failed [type] := if_neg (mt (readRigFrame_isSome type 0).mp h)

theorem rigTake_body (type body : Byte) : rigTake (some [type]) body = .goes (some [type, body]) := rfl

/-- The check byte ends a frame: whole where the sum is right, and failed otherwise. -/
theorem rigTake_check {type body check : Byte} {f : RigFrame} (hf : readRigFrame type body.toNat = some f) :
    rigTake (some [type, body]) check = if byteSum [type, body, check] = 0 then .comes (.complete f) []
      else .comes .failed [type, body, check] := by
  show rigStep [type, body, check] = _
  simp only [rigStep, hf]

/-- A whole frame of the rig. -/
theorem rigFeed_whole {type body check : Byte} {f : RigFrame} (hf : readRigFrame type body.toNat = some f)
    (hsum : byteSum [type, body, check] = 0) : rigFeed none [0xA5, type, body, check] = (none, [.complete f]) := by
  have htype : type ∈ [(0x81 : Byte), 0x82, 0x83, 0x84] := (readRigFrame_isSome type body.toNat).mp (by rw [hf]; rfl)
  show feed rigTake (32 + 1 + 1 + 1 + 1) none _ = _
  rw [feed_goes _ rigTake_started, feed_goes _ (rigTake_type htype), feed_goes _ (rigTake_body type body),
    feed_comes _ ((rigTake_check hf).trans (if_pos hsum)), List.append_nil, feed_nil]

/-- Frames that the rig begins are none of its types. -/
theorem rigType_ne_start {type : Byte} (h : type ∈ [(0x81 : Byte), 0x82, 0x83, 0x84]) : type ≠ 0xA5 := by
  revert type
  decide

theorem rigTake_passes {b : Byte} (h : b ≠ 0xA5) : rigTake none b = .goes none := by
  rw [rigTake_hunting, if_neg h]

theorem rigFeed_badType {type : Byte} (h : type ∉ [(0x81 : Byte), 0x82, 0x83, 0x84]) :
    rigFeed (some []) [type] = (if type = 0xA5 then some [] else none, [.failed]) := by
  show feed rigTake (7 + 1 + 1) _ _ = _
  rw [feed_comes _ (rigTake_otherType h), List.append_nil, feed_goes _ (rigTake_hunting type), feed_nil]

theorem rigFeed_badSum {type body check : Byte} (htype : type ∈ [(0x81 : Byte), 0x82, 0x83, 0x84])
    (hsum : byteSum [type, body, check] ≠ 0) (hbody : body ≠ 0xA5) :
    rigFeed (some [type, body]) [check] = (if check = 0xA5 then some [] else none, [.failed]) := by
  obtain ⟨f, hf⟩ := Option.isSome_iff_exists.mp ((readRigFrame_isSome type body.toNat).mpr htype)
  show feed rigTake (21 + 1 + 1 + 1 + 1) _ _ = _
  rw [feed_comes _ ((rigTake_check hf).trans (if_neg hsum)), List.append_nil,
    feed_goes _ (rigTake_passes (rigType_ne_start htype)), feed_goes _ (rigTake_passes hbody),
    feed_goes _ (rigTake_hunting check), feed_nil]

/-- A gap fails the frame in reception, and one that begins among its bytes with it. -/
theorem rigGap_body {type : Byte} (htype : type ∈ [(0x81 : Byte), 0x82, 0x83, 0x84]) (body : Byte) :
    rigGap (some [type, body]) = if body = 0xA5 then [.failed, .failed] else [.failed] := by
  have e : rigFeed none [type, body] = (if body = 0xA5 then some [] else none, []) := by
    show feed rigTake (14 + 1 + 1) _ _ = _
    rw [feed_goes _ (rigTake_passes (rigType_ne_start htype)), feed_goes _ (rigTake_hunting body), feed_nil]
  show RigEvent.failed :: (rigFeed none [type, body]).2 ++ rigGapIn 2 (rigFeed none [type, body]).1 = _
  rw [e]
  by_cases hb : body = 0xA5
  · rw [if_pos hb, if_pos hb]
    rfl
  · rw [if_neg hb, if_neg hb]
    rfl

theorem rigGap_type {type : Byte} (htype : type ∈ [(0x81 : Byte), 0x82, 0x83, 0x84]) :
    rigGap (some [type]) = [.failed] := by
  have e : rigFeed none [type] = (none, []) := by
    show feed rigTake (8 + 1) _ _ = _
    rw [feed_goes _ (rigTake_passes (rigType_ne_start htype)), feed_nil]
  show RigEvent.failed :: (rigFeed none [type]).2 ++ rigGapIn 1 (rigFeed none [type]).1 = _
  rw [e]
  rfl

end Sys2Proof.Proofs

namespace Sys2Proof.Proofs

open Sys2Proof Sys2Proof.Machine

/-! ## The bits of a line (R174) -/

theorem byteBits_length (b : Byte) : (byteBits b).length = 10 := by simp [byteBits]

theorem lineBits_get {bytes : List Byte} {j k : Nat} {b : Byte} (h : bytes[j]? = some b) (hk : k < 10) :
    (lineBits bytes)[10 * j + k]? = (byteBits b)[k]? := by
  rw [lineBits, flatMap_get_uniform byteBits_length bytes j hk, h]
  rfl

/-- Bit `k` of some bytes is on the line for its bit time, and the line rests at mark behind the last. -/
theorem lineLevel_bit {baud t start k : Nat} {bytes : List Byte} (hs : start ≤ t) (h₁ : k * 1000000 ≤ (t - start) * baud)
    (h₂ : (t - start) * baud < (k + 1) * 1000000) :
    (k < 10 * bytes.length → some (lineLevel baud t (some (bytes, start))) = (lineBits bytes)[k]?)
      ∧ (10 * bytes.length ≤ k → lineLevel baud t (some (bytes, start)) = true) := by
  have hk : (t - start) * baud / 1000000 = k := Nat.div_eq_of_lt_le h₁ h₂
  have e : lineLevel baud t (some (bytes, start)) = (lineBits bytes).getD k true := by
    rw [← hk]
    exact if_neg (Nat.not_lt.mpr hs)
  rw [e, List.getD_eq_getElem?_getD]
  refine ⟨fun hlt => ?_, fun hle => ?_⟩
  · rw [List.getElem?_eq_getElem (by rw [lineBits_length]; exact hlt)]
    rfl
  · rw [List.getElem?_eq_none (by rw [lineBits_length]; exact hle)]
    rfl

theorem ltxd_rests {s : State} (t : Nat) (h : s.link.sending = none) : ltxd s t = true := by
  rw [ltxd, h]
  rfl

theorem txLevel_rests {st : Station} (t : Nat) (h : st.sending = none) : st.txLevel t = true := by
  rw [Station.txLevel, h]
  rfl

/-! ## What LRXD brings (R178) -/

/-- The data bits of a byte. -/
def dataBits (b : Byte) : List Bool := (List.range 8).map b.getLsbD

theorem byteBits_eq (b : Byte) : byteBits b = false :: dataBits b ++ [true] := rfl

theorem dataBits_length (b : Byte) : (dataBits b).length = 8 := by simp [dataBits]

theorem bitsNat_dataBits : ∀ b : Byte, BitVec.ofNat 8 (bitsNat (dataBits b)) = b := by decide

/-- Bits within a byte are gathered. -/
theorem readLevels_gathers (levels bits : List Bool) (h : bits.length + levels.length ≤ 8) :
    readLevels (.inByte bits) levels = (.inByte (bits ++ levels), []) := by
  induction levels generalizing bits with
  | nil => simp [readLevels]
  | cons x xs ih =>
    rw [List.length_cons] at h
    have step : (LineRx.inByte bits).take x = (.inByte (bits ++ [x]), []) := if_pos (by omega)
    rw [readLevels, step, ih (bits ++ [x]) (by rw [List.length_append, List.length_singleton]; omega)]
    simp

/-- A start bit and the data bits of a byte are in reception. -/
theorem readLevels_data (b : Byte) : readLevels .atMark (false :: dataBits b) = (.inByte (dataBits b), []) := by
  have := readLevels_gathers (dataBits b) [] (by rw [dataBits_length]; decide)
  rw [readLevels]
  exact congrArg (fun r : LineRx × List LineEvent => (r.1, [] ++ r.2)) this

theorem readLevels_byte (b : Byte) : readLevels .atMark (byteBits b) = (.atMark, [.byte b]) := by
  have stop : (LineRx.inByte (dataBits b)).take true = (.atMark, [.byte b]) := by
    rw [LineRx.take, if_neg (by rw [dataBits_length]; decide), bitsNat_dataBits]
    rfl
  rw [byteBits_eq, readLevels_append, readLevels_data, readLevels, stop]
  rfl

theorem readLevels_items (items : List (Nat × Byte)) :
    readLevels .atMark (items.flatMap fun x => List.replicate x.1 true ++ byteBits x.2)
      = (.atMark, items.map fun x => .byte x.2) := by
  induction items with
  | nil => rfl
  | cons x xs ih =>
    rw [List.flatMap_cons, readLevels_append, readLevels_append, readLevels_idle, readLevels_byte, ih]
    rfl

/-- A stop bit at space changes nothing of its byte. -/
theorem readLevels_badStop : ∀ b : Byte, readLevels .atMark ((byteBits b).take 9 ++ [false, true]) = (.atMark, [.byte b]) := by
  decide

theorem readLevels_break (n : Nat) : readLevels .inBreak (List.replicate n false) = (.inBreak, []) := by
  induction n with
  | zero => rfl
  | succ n ih =>
    rw [List.replicate_succ, readLevels]
    exact congrArg (fun r : LineRx × List LineEvent => (r.1, [] ++ r.2)) ih

/-- The line at space for 20 bit times is a break. -/
theorem readLevels_long {n : Nat} (h : 20 ≤ n) :
    readLevels .atMark (List.replicate n false ++ [true]) = (.atMark, [.break_, .toMark]) := by
  obtain ⟨m, rfl⟩ := Nat.exists_eq_add_of_le h
  have first : readLevels .atMark (List.replicate 20 false) = (.inBreak, [.break_]) := by decide
  rw [List.replicate_add, List.append_assoc, readLevels_append, first, readLevels_append, readLevels_break]
  rfl

theorem readLevels_short {n : Nat} (h₁ : 10 ≤ n) (h₂ : n < 20) :
    readLevels .atMark (List.replicate n false ++ [true]) = (.atMark, [.byte 0]) := by
  interval_cases n <;> decide

/-! ## What SRXn brings (R188) -/

/-- The place of a receiver goes through some levels without the end of a byte. -/
def Passes : SrxPlace → List Bool → SrxPlace → Prop
  | p, [], q => p = q
  | p, x :: xs, q => (p.take x).2 = none ∧ Passes (p.take x).1 xs q

theorem Passes.append {p q r : SrxPlace} {xs ys : List Bool} (h : Passes p xs q) (h' : Passes q ys r) :
    Passes p (xs ++ ys) r := by
  induction xs generalizing p with
  | nil => cases h; exact h'
  | cons x xs ih => exact ⟨h.1, ih h.2⟩

theorem passes_idle (n : Nat) : Passes .atMark (List.replicate n true) .atMark := by
  induction n with
  | zero => rfl
  | succ n ih => exact ⟨rfl, ih⟩

theorem passes_bits (xs bits : List Bool) (h : bits.length + xs.length ≤ 8) :
    Passes (.inByte bits) xs (.inByte (bits ++ xs)) := by
  induction xs generalizing bits with
  | nil => rw [List.append_nil]; rfl
  | cons x xs ih =>
    rw [List.length_cons] at h
    have step : (SrxPlace.inByte bits).take x = (.inByte (bits ++ [x]), none) := if_pos (by omega)
    have := ih (bits ++ [x]) (by rw [List.length_append, List.length_singleton]; omega)
    rw [List.append_assoc] at this
    rw [Passes, step]
    exact ⟨rfl, this⟩

/-- An idle line and a byte up to its stop bit bring no byte. -/
theorem passes_data (n : Nat) (b : Byte) :
    Passes .atMark (List.replicate n true ++ false :: dataBits b) (.inByte (dataBits b)) :=
  (passes_idle n).append ⟨rfl, passes_bits (dataBits b) [] (by rw [dataBits_length]; decide)⟩

/-- Without a byte before, levels that end none bring nothing. -/
theorem readSrx_passes_unheard {p q : SrxPlace} {xs : List Bool} (k : Nat) (h : Passes p xs q) :
    readSrx k { place := p, quiet := none } xs = ({ place := q, quiet := none }, []) := by
  induction xs generalizing k p with
  | nil => cases h; rfl
  | cons x xs ih =>
    have step : SrxRx.take { place := p, quiet := none } x = ({ place := (p.take x).1, quiet := none }, none) := by
      simp only [SrxRx.take, h.1]
    rw [readSrx, step]
    exact congrArg (fun r : SrxRx × List (Nat × SrxEvent) => (r.1, [] ++ r.2)) (ih (k + 1) h.2)

/-- Behind a byte, levels that end none bring the silence at the 52nd bit time. -/
theorem readSrx_passes {p q : SrxPlace} {xs : List Bool} (k n : Nat) (h : Passes p xs q) (hn : n < 52) :
    readSrx k { place := p, quiet := some n } xs
      = if n + xs.length < 52 then ({ place := q, quiet := some (n + xs.length) }, [])
        else ({ place := q, quiet := none }, [(k + (52 - n), .silence)]) := by
  induction xs generalizing k n p with
  | nil =>
    cases h
    rw [if_pos (by simpa using hn)]
    rfl
  | cons x xs ih =>
    rw [readSrx, List.length_cons]
    by_cases h52 : n + 1 < 52
    · have step : SrxRx.take { place := p, quiet := some n } x = ({ place := (p.take x).1, quiet := some (n + 1) }, none) := by
        simp only [SrxRx.take, h.1, if_pos h52]
      have hi := ih (k + 1) (n + 1) h.2 h52
      rw [step]
      dsimp only
      rw [hi]
      by_cases hl : n + 1 + xs.length < 52
      · rw [if_pos hl, if_pos (by omega)]
        simp [Nat.add_right_comm, Nat.add_assoc]
      · rw [if_neg hl, if_neg (by omega), show k + 1 + (52 - (n + 1)) = k + (52 - n) by omega]
        rfl
    · have step : SrxRx.take { place := p, quiet := some n } x
          = ({ place := (p.take x).1, quiet := none }, some .silence) := by
        simp only [SrxRx.take, h.1, if_neg h52]
      rw [step, if_neg (by omega)]
      dsimp only
      rw [readSrx_passes_unheard (k + 1) h.2, show 52 - n = 1 by omega]
      rfl

/-- The stop bit of a byte brings it, whatever its level. -/
theorem srxTake_stop (b : Byte) (quiet : Option Nat) (level : Bool) :
    SrxRx.take { place := .inByte (dataBits b), quiet := quiet } level
      = ({ place := if level then .atMark else .atSpace, quiet := some 0 }, some (.byte b)) := by
  have step : (SrxPlace.inByte (dataBits b)).take level = (if level then .atMark else .atSpace, some b) := by
    rw [SrxPlace.take, if_neg (by rw [dataBits_length]; decide), bitsNat_dataBits]
  simp only [SrxRx.take, step]

end Sys2Proof.Proofs

namespace Sys2Proof.Proofs

open Sys2Proof Sys2Proof.Machine

/-! ## Bytes on SRXn and the silence behind them (R188) -/

/-- An idle line and a byte before it, read as one stretch and the stop bit. -/
theorem idle_byte_split (n : Nat) (b : Byte) (levels : List Bool) :
    List.replicate n true ++ byteBits b ++ levels = (List.replicate n true ++ false :: dataBits b) ++ true :: levels := by
  rw [byteBits_eq]
  simp

theorem idle_data_length (n : Nat) (b : Byte) : (List.replicate n true ++ false :: dataBits b).length = n + 9 := by
  rw [List.length_append, List.length_replicate, List.length_cons, dataBits_length]

theorem readSrx_firstByte (k n : Nat) (b : Byte) (levels : List Bool) :
    readSrx k .idle (List.replicate n true ++ byteBits b ++ levels)
      = ((readSrx (k + n + 10) .afterByte levels).1,
        (k + n + 10, .byte b) :: (readSrx (k + n + 10) .afterByte levels).2) := by
  have hpass : readSrx k .idle (List.replicate n true ++ false :: dataBits b)
      = ({ place := .inByte (dataBits b), quiet := none }, []) := readSrx_passes_unheard k (passes_data n b)
  rw [idle_byte_split, readSrx_append, hpass, idle_data_length, readSrx, srxTake_stop]
  rfl

theorem readSrx_nextByte (k n : Nat) (b : Byte) (levels : List Bool) :
    readSrx k .afterByte (List.replicate n true ++ byteBits b ++ levels)
      = ((readSrx (k + n + 10) .afterByte levels).1,
        (if 43 ≤ n then [(k + 52, .silence)] else []) ++ (k + n + 10, .byte b)
          :: (readSrx (k + n + 10) .afterByte levels).2) := by
  have hpass : readSrx k .afterByte (List.replicate n true ++ false :: dataBits b)
      = if 0 + (List.replicate n true ++ false :: dataBits b).length < 52 then _ else _ :=
    readSrx_passes k 0 (passes_data n b) (by decide)
  rw [idle_data_length] at hpass
  rw [idle_byte_split, readSrx_append, hpass, idle_data_length]
  by_cases h : 43 ≤ n
  · rw [if_neg (by omega), if_pos h, readSrx, srxTake_stop]
    rfl
  · rw [if_pos (by omega), if_neg h, readSrx, srxTake_stop]
    rfl

/-- A stop bit at space ends its byte like another. -/
theorem readSrx_badStop (k : Nat) (b : Byte) :
    (readSrx k .afterByte ((byteBits b).take 9 ++ [false, true])).2 = [(k + 10, .byte b)] := by
  have hpass : readSrx k .afterByte ([] ++ false :: dataBits b) = if 0 + ([] ++ false :: dataBits b).length < 52 then _ else _ :=
    readSrx_passes k 0 (passes_data 0 b) (by decide)
  have hlen : ([] ++ false :: dataBits b).length = 9 := idle_data_length 0 b
  have htake : (byteBits b).take 9 = [] ++ false :: dataBits b :=
    List.take_left' (l₁ := false :: dataBits b) (l₂ := [true]) hlen
  rw [hlen, if_pos (by decide)] at hpass
  rw [htake, readSrx_append, hpass, hlen, readSrx, srxTake_stop]
  rfl

/-! ## A frame of the rig, bit by bit -/

/-- Four bytes back to back are brought one by one. -/
theorem readSrx_frame (a b c d : Byte) :
    (readSrx 0 .idle (lineBits [a, b, c, d])).2 = [(10, .byte a), (20, .byte b), (30, .byte c), (40, .byte d)] := by
  have e : lineBits [a, b, c, d] = List.replicate 0 true ++ byteBits a ++ (List.replicate 0 true ++ byteBits b
      ++ (List.replicate 0 true ++ byteBits c ++ (List.replicate 0 true ++ byteBits d ++ []))) := by
    simp [lineBits]
  rw [e, readSrx_firstByte]
  dsimp only
  rw [readSrx_nextByte]
  dsimp only
  rw [readSrx_nextByte]
  dsimp only
  rw [readSrx_nextByte]
  rfl

theorem srxCommands_frame (i : Fin 6) (start : Nat) (a b c d : Byte) :
    srxCommands i start (lineBits [a, b, c, d])
      = [.stationFrameBad (start + 44) { station := i, bytes := [a] },
        .stationFrameBad (start + 87) { station := i, bytes := [b] },
        .stationFrameBad (start + 131) { station := i, bytes := [c] },
        .stationFrameBad (start + 174) { station := i, bytes := [d] }] := by
  rw [srxCommands, readSrx_frame]
  simp [srxCommand, bitTimes, ceilDiv, Config.stationBaud]

/-- A frame that the rig sends is its start byte, its type, its body and the check byte of their sum. -/
theorem rigFrame_parts {n : Nat} {f : RigFrame} (hn : n < 256) (h : f ∈ [.hello n, .loaded n, .loadFailed n, .selected n]) :
    ∃ type body check, f.bytes = [0xA5, type, body, check] ∧ readRigFrame type body.toNat = some f
      ∧ byteSum [type, body, check] = 0 := by
  have hbody : (BitVec.ofNat 8 n).toNat = n := Nat.mod_eq_of_lt hn
  have parts : ∀ type : Byte, ∃ check, rigFrame type (natBytes 1 n) = [0xA5, type, BitVec.ofNat 8 n, check]
      ∧ byteSum [type, BitVec.ofNat 8 n, check] = 0 := by
    intro type
    have hsum := byteSum_rigFrame type (natBytes 1 n)
    rw [natBytes_one] at hsum ⊢
    exact ⟨_, rfl, hsum⟩
  simp only [List.mem_cons, List.not_mem_nil, or_false] at h
  rcases h with rfl | rfl | rfl | rfl
  · obtain ⟨check, e, hs⟩ := parts 0x81
    exact ⟨_, _, check, e, by rw [hbody]; rfl, hs⟩
  · obtain ⟨check, e, hs⟩ := parts 0x82
    exact ⟨_, _, check, e, by rw [hbody]; rfl, hs⟩
  · obtain ⟨check, e, hs⟩ := parts 0x83
    exact ⟨_, _, check, e, by rw [hbody]; rfl, hs⟩
  · obtain ⟨check, e, hs⟩ := parts 0x84
    exact ⟨_, _, check, e, by rw [hbody]; rfl, hs⟩

theorem exec_rigFrame (f : RigFrame) (t : Nat) (i : Fin 6) (s : State) :
    exec (f.command t i) s = event t (unlessLoading (frameComes i f)) s := by cases f <;> rfl

theorem exec_stationFrameBad (t : Nat) (x : RigBytes) (s : State) :
    exec (.stationFrameBad t x) s = event t (unlessLoading (bytesCome x)) s := rfl

theorem event_off {f : State → State} {s : State} (t : Nat) (h : s.powered = false) : event t f s = .next s := by
  simp [event, whenPowered, h]

/-- The receiver of station `i` with some bytes of a frame, the last of them received at show time `t`. -/
def receiving (i : Fin 6) (t : Nat) (g : List Byte) (s : State) : State :=
  (s.goTo t).setStation i fun st => { st with receiver := some { bytes := g, last := max s.now t } }

theorem takeBytes_goes {i : Fin 6} {b : Byte} {g : List Byte} {s : State}
    (h : rigFeed ((s.station i).receiver.map (·.bytes)) [b] = (some g, [])) :
    takeBytes i [b] s = s.setStation i fun st => { st with receiver := some { bytes := g, last := s.now } } := by
  rw [takeBytes, h]
  rfl

theorem bytesCome_one {i : Fin 6} {b : Byte} {s : State} (h : GapHeld (s.station i) 1 s.now) :
    bytesCome { station := i, bytes := [b] } s = takeBytes i [b] s := by
  show takeBytes i [b] (passGap i 1 s) = _
  rw [passGap_held h]

theorem receiving_receiver {i : Fin 6} {s : State} (h : s.stations.length = 6) (t : Nat) (g : List Byte) :
    ((receiving i t g s).station i).receiver = some { bytes := g, last := max s.now t } := by
  rw [receiving, station_setStation_same (s := s.goTo t) i _ h]

/-- Bytes that follow one another within 52 bit times leave no gap. -/
theorem receiving_gapHeld {i : Fin 6} {s : State} (h : s.stations.length = 6) {t t' : Nat} (g : List Byte)
    (ht : t' ≤ t + 44) : GapHeld (((receiving i t g s).goTo t').station i) 1 ((receiving i t g s).goTo t').now := by
  intro r hr
  cases (receiving_receiver h t g).symm.trans hr
  have : max (max s.now t) t' - max s.now t ≤ 44 := by omega
  show (max (max s.now t) t' - max s.now t) * 230400 ≤ _
  omega

theorem rigFeed_goes {got : Option (List Byte)} {b : Byte} {g : List Byte} (h : rigTake got b = .goes (some g)) :
    rigFeed got [b] = (some g, []) := by
  have hfuel : feedFuel ((got.map List.length).getD 0 + [b].length) = feedFuel ((got.map List.length).getD 0 + [b].length) - 1 + 1 := by
    have : 0 < feedFuel ((got.map List.length).getD 0 + [b].length) := Nat.mul_pos (by omega) (by omega)
    omega
  rw [rigFeed, hfuel, feed_goes _ h, feed_nil]

theorem exec_stationFrameBad_served {s : State} (t : Nat) (x : RigBytes) (hp : s.powered = true) (hl : s.loading = false) :
    exec (.stationFrameBad t x) s = .next (bytesCome x (s.goTo t)) :=
  (event_on t hp).trans (congrArg _ (unlessLoading_served hl))

/-- The start byte of a frame, on a station whose receiver hunts. -/
theorem exec_startByte {s : State} {i : Fin 6} (t : Nat) (hp : s.powered = true) (hl : s.loading = false)
    (hr : (s.station i).receiver = none) :
    exec (.stationFrameBad t { station := i, bytes := [0xA5] }) s = .next (receiving i t [] s) := by
  have hheld : GapHeld ((s.goTo t).station i) 1 (s.goTo t).now := fun r h => by
    cases hr.symm.trans h
  rw [exec_stationFrameBad_served t _ hp hl, bytesCome_one hheld, takeBytes_goes (g := [])]
  · rfl
  · show rigFeed ((s.station i).receiver.map (·.bytes)) [0xA5] = _
    rw [hr]
    exact rigFeed_goes rigTake_started

theorem receiving_again {i : Fin 6} {s : State} {t t' : Nat} (ht : t ≤ t') (g g' : List Byte) :
    ((receiving i t g s).goTo t').setStation i
        (fun st => { st with receiver := some { bytes := g', last := ((receiving i t g s).goTo t').now } })
      = receiving i t' g' s := by
  have hmax : max (max s.now t) t' = max s.now t' := by omega
  have e : (receiving i t g s).goTo t' = (s.goTo t').setStation i fun st =>
      { st with receiver := some { bytes := g, last := max s.now t } } := by
    show { (receiving i t g s) with now := max (max s.now t) t' } = _
    rw [hmax]
    rfl
  rw [e, setStation_setStation]
  rfl

/-- A byte that goes on with a frame, within its gap. -/
theorem exec_nextByte {s : State} {i : Fin 6} {t t' : Nat} {g g' : List Byte} {b : Byte} (hp : s.powered = true)
    (hl : s.loading = false) (hlen : s.stations.length = 6) (h₁ : t ≤ t') (h₂ : t' ≤ t + 44)
    (h : rigTake (some g) b = .goes (some g')) :
    exec (.stationFrameBad t' { station := i, bytes := [b] }) (receiving i t g s) = .next (receiving i t' g' s) := by
  rw [exec_stationFrameBad_served (s := receiving i t g s) t' _ hp hl, bytesCome_one (receiving_gapHeld hlen g h₂),
    takeBytes_goes (g := g'), receiving_again h₁]
  show rigFeed (((receiving i t g s).station i).receiver.map (·.bytes)) [b] = _
  rw [receiving_receiver hlen]
  exact rigFeed_goes h

/-- The check byte of a whole frame, within its gap. -/
theorem exec_checkByte {s : State} {i : Fin 6} {t t' : Nat} {g : List Byte} {b : Byte} {f : RigFrame} (hp : s.powered = true)
    (hl : s.loading = false) (hlen : s.stations.length = 6) (hr : (s.station i).receiver = none) (h₁ : t ≤ t')
    (h₂ : t' ≤ t + 44) (h : rigFeed (some g) [b] = (none, [.complete f])) :
    exec (.stationFrameBad t' { station := i, bytes := [b] }) (receiving i t g s) = exec (f.command t' i) s := by
  have hmax : max (max s.now t) t' = max s.now t' := by omega
  have hunts : ((receiving i t g s).goTo t').setStation i (fun st => { st with receiver := none })
      = (s.goTo t').setStation i fun st => { st with receiver := none } := by
    have e : (receiving i t g s).goTo t' = (s.goTo t').setStation i fun st =>
        { st with receiver := some { bytes := g, last := max s.now t } } := by
      show { (receiving i t g s) with now := max (max s.now t) t' } = _
      rw [hmax]
      rfl
    rw [e, setStation_setStation]
    rfl
  have hheld : GapHeld ((s.goTo t').station i) 4 (s.goTo t').now := fun r h => by
    cases hr.symm.trans h
  have hfeed : takeBytes i [b] ((receiving i t g s).goTo t')
      = takeRigFrame i f (((receiving i t g s).goTo t').setStation i fun st => { st with receiver := none }) := by
    have hgot : rigFeed ((((receiving i t g s).goTo t').station i).receiver.map (·.bytes)) [b] = (none, [.complete f]) := by
      show rigFeed (((receiving i t g s).station i).receiver.map (·.bytes)) [b] = _
      rw [receiving_receiver hlen]
      exact h
    rw [takeBytes, hgot]
    rfl
  rw [exec_stationFrameBad_served (s := receiving i t g s) t' _ hp hl, bytesCome_one (receiving_gapHeld hlen g h₂), hfeed,
    hunts, exec_rigFrame, event_on t' hp, unlessLoading_served (s := s.goTo t') hl,
    frameComes_held f hheld]

theorem rigFeed_check {type body check : Byte} {f : RigFrame} (hf : readRigFrame type body.toNat = some f)
    (hsum : byteSum [type, body, check] = 0) : rigFeed (some [type, body]) [check] = (none, [.complete f]) := by
  show feed rigTake (24 + 1) _ _ = _
  rw [feed_comes _ ((rigTake_check hf).trans (if_pos hsum)), List.append_nil, feed_nil]

theorem goTo_goTo (s : State) {t t' : Nat} (h : t ≤ t') : (s.goTo t).goTo t' = s.goTo t' := by
  have hmax : max (max s.now t) t' = max s.now t' := by omega
  show { s with now := max (max s.now t) t' } = _
  rw [hmax]
  rfl

/-- What a row of the rig's bytes leaves of a part that takes none, without power or during the load. -/
def unheard (t : Nat) (s : State) : State := if s.powered then s.goTo t else s

theorem unheard_kept (t : Nat) (s : State) : (unheard t s).powered = s.powered ∧ (unheard t s).loading = s.loading := by
  unfold unheard
  split <;> exact ⟨rfl, rfl⟩

theorem unheard_unheard (s : State) {t t' : Nat} (h : t ≤ t') : unheard t' (unheard t s) = unheard t' s := by
  by_cases hp : s.powered = true
  · simp only [unheard, hp, if_true, State.goTo_powered, goTo_goTo s h]
  · simp only [unheard, hp, if_false, Bool.false_eq_true]

theorem unheard_pending (t : Nat) (s : State) (p : List Instr) :
    unheard t { s with pending := p } = { unheard t s with pending := p } := by
  by_cases hp : s.powered = true
  · rw [unheard, if_pos (by exact hp), unheard, if_pos hp]
    rfl
  · rw [unheard, if_neg (by exact hp), unheard, if_neg hp]

theorem event_unheard {f : State → State} {s : State} (t : Nat) (h : s.powered = false ∨ s.loading = true) :
    event t (unlessLoading f) s = .next (unheard t s) := by
  by_cases hp : s.powered = true
  · rw [event_on t hp, unlessLoading_loading (s := s.goTo t) (h.resolve_left (by rw [hp]; decide)), unheard, if_pos hp]
  · rw [event_off t (by rwa [Bool.not_eq_true] at hp), unheard, if_neg hp]

/-- Four rows of the rig's bytes on a part that takes none. -/
theorem run_unheard {s : State} (h : s.powered = false ∨ s.loading = true) {t₁ t₂ t₃ t₄ : Nat} (h₁ : t₁ ≤ t₂) (h₂ : t₂ ≤ t₃)
    (h₃ : t₃ ≤ t₄) (a b c d : RigBytes) :
    Host.Core.run Sys2Proof.core 4 { s with pending :=
        [.stationFrameBad t₁ a, .stationFrameBad t₂ b, .stationFrameBad t₃ c, .stationFrameBad t₄ d] }
      = .next (unheard t₄ { s with pending := [] }) := by
  have step : ∀ (t t' : Nat) (x : RigBytes) (p : List Instr), t ≤ t' →
      exec (.stationFrameBad t' x) { unheard t s with pending := p } = .next { unheard t' s with pending := p } := by
    intro t t' x p ht
    obtain ⟨hp, hl⟩ := unheard_kept t s
    rw [exec_stationFrameBad, event_unheard (s := { unheard t s with pending := p }) t' (by rw [← hp, ← hl] at h; exact h),
      unheard_pending, unheard_unheard s ht]
  have first : ∀ p, exec (.stationFrameBad t₁ a) { s with pending := p } = .next { unheard t₁ s with pending := p } := by
    intro p
    rw [exec_stationFrameBad, event_unheard (s := { s with pending := p }) t₁ h, unheard_pending]
  rw [run_front 3 (first _), run_front 2 (step t₁ t₂ b _ h₁), run_front 1 (step t₂ t₃ c _ h₂),
    run_front 0 (step t₃ t₄ d _ h₃)]
  exact congrArg Host.Outcome.next (unheard_pending t₄ s []).symm

/-- Four rows of the bytes of a frame on a part that takes them. -/
theorem run_heard {s : State} {i : Fin 6} {t₁ t₂ t₃ t₄ : Nat} {type body check : Byte} {f : RigFrame} (hp : s.powered = true)
    (hl : s.loading = false) (hlen : s.stations.length = 6) (hr : (s.station i).receiver = none)
    (h₁ : t₁ ≤ t₂ ∧ t₂ ≤ t₁ + 44) (h₂ : t₂ ≤ t₃ ∧ t₃ ≤ t₂ + 44) (h₃ : t₃ ≤ t₄ ∧ t₄ ≤ t₃ + 44)
    (hf : readRigFrame type body.toNat = some f) (hsum : byteSum [type, body, check] = 0) :
    Host.Core.run Sys2Proof.core 4 { s with pending :=
        [.stationFrameBad t₁ { station := i, bytes := [0xA5] }, .stationFrameBad t₂ { station := i, bytes := [type] },
          .stationFrameBad t₃ { station := i, bytes := [body] }, .stationFrameBad t₄ { station := i, bytes := [check] }] }
      = exec (f.command t₄ i) { s with pending := [] } := by
  have htype : type ∈ [(0x81 : Byte), 0x82, 0x83, 0x84] := (readRigFrame_isSome type body.toNat).mp (by rw [hf]; rfl)
  have e₁ : ∀ p, exec (.stationFrameBad t₁ { station := i, bytes := [0xA5] }) { s with pending := p }
      = .next { receiving i t₁ [] s with pending := p } := fun p =>
    exec_startByte (s := { s with pending := p }) t₁ hp hl hr
  have e₂ : ∀ p, exec (.stationFrameBad t₂ { station := i, bytes := [type] }) { receiving i t₁ [] s with pending := p }
      = .next { receiving i t₂ [type] s with pending := p } := fun p =>
    exec_nextByte (s := { s with pending := p }) hp hl hlen h₁.1 h₁.2 (rigTake_type htype)
  have e₃ : ∀ p, exec (.stationFrameBad t₃ { station := i, bytes := [body] }) { receiving i t₂ [type] s with pending := p }
      = .next { receiving i t₃ [type, body] s with pending := p } := fun p =>
    exec_nextByte (s := { s with pending := p }) hp hl hlen h₂.1 h₂.2 (rigTake_body type body)
  have e₄ : exec (.stationFrameBad t₄ { station := i, bytes := [check] })
      { receiving i t₃ [type, body] s with pending := [] } = exec (f.command t₄ i) { s with pending := [] } :=
    exec_checkByte (s := { s with pending := [] }) hp hl hlen hr h₃.1 h₃.2 (rigFeed_check hf hsum)
  obtain ⟨u, hu⟩ := exec_next (f.command t₄ i) { s with pending := [] }
  rw [run_front 3 (e₁ _), run_front 2 (e₂ _), run_front 1 (e₃ _), run_front 0 (e₄.trans hu), hu]
  rfl

/-- A frame that the rig sends bit by bit is taken whole, at the end of its last byte. -/
theorem run_rigFrame {s : State} (i : Fin 6) (start : Nat) {n : Nat} {f : RigFrame} (hlen : s.stations.length = 6)
    (hr : (s.station i).receiver = none) (hn : n < 256) (h : f ∈ [.hello n, .loaded n, .loadFailed n, .selected n]) :
    Host.Core.run Sys2Proof.core 4 { s with pending := srxCommands i start (lineBits f.bytes) }
      = exec (f.command (start + 174) i) { s with pending := [] } := by
  obtain ⟨type, body, check, hbytes, hf, hsum⟩ := rigFrame_parts hn h
  rw [hbytes, srxCommands_frame]
  by_cases hq : s.powered = false ∨ s.loading = true
  · rw [run_unheard hq (by omega) (by omega) (by omega), exec_rigFrame, event_unheard (s := { s with pending := [] }) _ hq]
    rfl
  · obtain ⟨hp, hl⟩ := not_or.mp hq
    exact run_heard (Bool.eq_true_of_not_eq_false hp) (Bool.eq_false_of_not_eq_true hl) hlen hr (by omega) (by omega) (by omega)
      hf hsum

/-- Settles O57: the Show Link's frame by its bytes gathered one by one, the rig's by the receiver's steps, and the lines
by what they bring between the stop bits. -/
theorem everyFrameIsReceived : Obligations.EveryFrameIsReceived := by
  unfold Obligations.EveryFrameIsReceived
  refine ⟨fun s t tag kind payload hp hb hg hq hl => run_frame t tag kind hp hb hg hq hl, fun f => ?_,
    fun type body check hsum => ?_, fun type body check b => ⟨fun h => ?_, fun h => ?_, rigFeed_badSum, fun h =>
      ⟨rfl, rigGap_type h, rigGap_body h body⟩, rfl⟩,
    ⟨fun b => rfl, fun bytes j k b h hk => lineBits_get h hk, fun s st t => ⟨ltxd_rests t, txLevel_rests t,
      fun bytes f start k hs => ⟨fun h h₁ h₂ => ?_, fun h h₁ h₂ => ?_⟩⟩⟩,
    readLevels_items, readLevels_badStop, fun n => ⟨readLevels_short, readLevels_long⟩, ?_,
    fun s i start n f hlen hr hn h => run_rigFrame i start hlen hr hn h⟩
  · cases f with
    | load slot bank program =>
      refine ⟨-byteSum (0x01 :: (natBytes 1 slot ++ natBytes 2 bank ++ natBytes 1 program)), byteSum_rigFrame _ _, ?_⟩
      rw [TxFrame.bytes, natBytes_one, natBytes_two, natBytes_one]
      rfl
    | select slot =>
      refine ⟨-byteSum (0x02 :: natBytes 1 slot), byteSum_rigFrame _ _, ?_⟩
      rw [TxFrame.bytes, natBytes_one]
      rfl
    | silence => exact ⟨_, byteSum_rigFrame _ _, rfl⟩
    | query => exact ⟨_, byteSum_rigFrame _ _, rfl⟩
  · refine ⟨?_, ?_, ?_, ?_⟩ <;> rintro rfl <;> exact rigFeed_whole rfl hsum
  · show feed rigTake (8 + 1) none [b] = _
    rw [feed_goes _ (rigTake_passes h), feed_nil]
  · exact rigFeed_badType (fun hm => h type hm rfl)
  · rw [ltxd, h]
    exact lineLevel_bit hs h₁ h₂
  · rw [Station.txLevel, h]
    exact lineLevel_bit hs h₁ h₂
  · rintro k n b levels _ rfl
    exact ⟨readSrx_firstByte k n b levels, readSrx_nextByte k n b levels, readSrx_badStop k b⟩

end Sys2Proof.Proofs

namespace Sys2Proof.Proofs

open Sys2Proof Sys2Proof.Machine

/-! ## The victim of a LOAD (R121) -/

theorem qualifies_iff (preload : Bool) (st : Station) (k : Nat) : st.qualifies preload k = true ↔ MayGo preload st k := by
  have hne : (st.slot k).st != .loading ↔ (st.slot k).st ≠ .loading := bne_iff_ne
  simp only [Station.qualifies, MayGo, Bool.and_eq_true, Bool.not_eq_true', Bool.and_eq_false_iff, hne, and_assoc]
  cases preload <;> simp

theorem slot_get {st : Station} {j : Nat} (h : j < st.slots.length) : st.slot (j + 1) = st.slots[j] := by
  simp [Station.slot, List.getD_eq_getElem?_getD, h]

/-- The lowest EMPTY slot. -/
theorem findSlot_empty {st : Station} {k : Nat} : (st.findSlot fun sl => sl.st == .empty) = some k ↔
    1 ≤ k ∧ k ≤ st.slots.length ∧ (st.slot k).st = .empty ∧ ∀ j, 1 ≤ j → j < k → (st.slot j).st ≠ .empty := by
  rw [Station.findSlot, Option.map_eq_some_iff]
  simp only [List.findIdx?_eq_some_iff_getElem, beq_iff_eq]
  constructor
  · rintro ⟨j, ⟨hj, hs, hbefore⟩, rfl⟩
    refine ⟨by omega, hj, by rw [slot_get hj]; exact hs, fun i h₁ h₂ => ?_⟩
    obtain ⟨i, rfl⟩ : ∃ m, i = m + 1 := ⟨i - 1, by omega⟩
    rw [slot_get (by omega)]
    exact hbefore i (by omega)
  · rintro ⟨h₁, h₂, hs, hbefore⟩
    obtain ⟨j, rfl⟩ : ∃ m, k = m + 1 := ⟨k - 1, by omega⟩
    refine ⟨j, ⟨h₂, by rw [← slot_get h₂]; exact hs, fun i hi => ?_⟩, rfl⟩
    rw [← slot_get (by omega)]
    exact hbefore (i + 1) (by omega) (by omega)

theorem findSlot_none {st : Station} {f : Slot → Bool} : st.findSlot f = none ↔ ∀ sl ∈ st.slots, f sl = false := by
  rw [Station.findSlot, Option.map_eq_none_iff, List.findIdx?_eq_none_iff]

/-- The search takes the first slot from the pointer upward, wrapping, that it may take. -/
theorem searchOrder_find {preload : Bool} {st : Station} {k : Nat} :
    st.searchOrder.find? (st.qualifies preload) = some k ↔ MayGo preload st k
      ∧ ∃ d, d < st.slots.length ∧ k = (st.victim - 1 + d) % st.slots.length + 1
        ∧ ∀ e, e < d → ¬MayGo preload st ((st.victim - 1 + e) % st.slots.length + 1) := by
  rw [List.find?_eq_some_iff_getElem, qualifies_iff]
  refine and_congr_right fun _ => ?_
  simp only [Station.searchOrder, List.length_map, List.length_range, List.getElem_map, List.getElem_range,
    Bool.not_eq_true', ← Bool.not_eq_true, qualifies_iff]
  constructor
  · rintro ⟨d, hd, hk, hbefore⟩
    exact ⟨d, hd, hk.symm, fun e he => hbefore e he⟩
  · rintro ⟨d, hd, hk, hbefore⟩
    exact ⟨d, hd, hk.symm, fun e he => hbefore e he⟩

theorem chooseVictim_some {preload : Bool} {st : Station} {k v : Nat} :
    st.chooseVictim preload = some (k, v) ↔ VictimIs preload st k v := by
  unfold Station.chooseVictim VictimIs
  cases hf : st.findSlot fun sl => sl.st == .empty with
  | some j =>
    obtain ⟨h₁, h₂, hs, hbefore⟩ := findSlot_empty.mp hf
    have hnot : ¬∀ sl ∈ st.slots, sl.st ≠ .empty := by
      intro h
      refine h (st.slot j) ?_ hs
      obtain ⟨m, rfl⟩ : ∃ m, j = m + 1 := ⟨j - 1, by omega⟩
      rw [slot_get h₂]
      exact List.getElem_mem h₂
    simp only [hnot, false_and, or_false, Option.some.injEq, Prod.mk.injEq]
    constructor
    · rintro ⟨rfl, rfl⟩
      exact ⟨h₁, h₂, hs, hbefore, rfl⟩
    · rintro ⟨a₁, a₂, as, abefore, rfl⟩
      have := findSlot_empty.mpr ⟨a₁, a₂, as, abefore⟩
      rw [hf] at this
      exact ⟨Option.some.inj this, rfl⟩
  | none =>
    have hnone : ∀ sl ∈ st.slots, sl.st ≠ .empty := fun sl hsl => by
      have := findSlot_none.mp hf sl hsl
      rwa [beq_eq_false_iff_ne] at this
    have hno : ¬(1 ≤ k ∧ k ≤ st.slots.length ∧ (st.slot k).st = .empty ∧ (∀ j, 1 ≤ j → j < k → (st.slot j).st ≠ .empty)
        ∧ v = st.victim) := by
      rintro ⟨h₁, h₂, hs, hb, -⟩
      have := findSlot_empty.mpr ⟨h₁, h₂, hs, hb⟩
      rw [hf] at this
      cases this
    have hwrap : ∀ d, d < st.slots.length → k = (st.victim - 1 + d) % st.slots.length + 1 →
        k % st.slots.length + 1 = if k = st.slots.length then 1 else k + 1 := by
      rintro d hd hk
      have hlt : (st.victim - 1 + d) % st.slots.length < st.slots.length := Nat.mod_lt _ (by omega)
      split_ifs with he
      · rw [he, Nat.mod_self]
      · rw [Nat.mod_eq_of_lt (by omega)]
    simp only [hno, false_or, Option.map_eq_some_iff, Prod.mk.injEq, searchOrder_find]
    constructor
    · rintro ⟨_, ⟨hgo, d, hd, hk, hb⟩, rfl, rfl⟩
      exact ⟨hnone, hgo, ⟨d, hd, hk, hb⟩, hwrap d hd hk⟩
    · rintro ⟨-, hgo, ⟨d, hd, hk, hb⟩, rfl⟩
      exact ⟨k, ⟨hgo, d, hd, hk, hb⟩, rfl, hwrap d hd hk⟩

/-- Every residue is reached from any start. -/
theorem exists_add_mod (a : Nat) {m n : Nat} (h : m < n) : ∃ d, d < n ∧ (a + d) % n = m := by
  refine ⟨(m + n - a % n) % n, Nat.mod_lt _ (by omega), ?_⟩
  have ha : a % n < n := Nat.mod_lt _ (by omega)
  have hsum : a + (m + n - a % n) = m + n * (a / n + 1) := by
    have := Nat.div_add_mod a n
    rw [Nat.mul_succ]
    omega
  rw [Nat.add_mod_mod, hsum, Nat.add_mul_mod_self_left, Nat.mod_eq_of_lt h]

theorem chooseVictim_none {preload : Bool} {st : Station} (h : st.chooseVictim preload = none) {k : Nat} (h₁ : 1 ≤ k)
    (h₂ : k ≤ st.slots.length) : (st.slot k).st ≠ .empty ∧ ¬MayGo preload st k := by
  unfold Station.chooseVictim at h
  cases hf : st.findSlot fun sl => sl.st == .empty with
  | some j => rw [hf] at h; cases h
  | none =>
    rw [hf] at h
    obtain ⟨j, rfl⟩ : ∃ m, k = m + 1 := ⟨k - 1, by omega⟩
    constructor
    · rw [slot_get h₂]
      have := findSlot_none.mp hf _ (List.getElem_mem h₂)
      rwa [beq_eq_false_iff_ne] at this
    · obtain ⟨d, hd, he⟩ := exists_add_mod (st.victim - 1) (show j < st.slots.length from h₂)
      have hall := List.find?_eq_none.mp (Option.map_eq_none_iff.mp h) (j + 1)
        (List.mem_map.mpr ⟨d, List.mem_range.mpr hd, by rw [he]⟩)
      rwa [qualifies_iff] at hall

/-! ## The choice of the preload (R122) -/

/-- A candidate as the preload, or none where it is skipped. -/
def leftCandidate (map : List MapEntry) (i : Fin 6) (st : Station) (c : Option CueNo × Option Nat) :
    Option (Option CueNo × Nat) :=
  match c.2 with
  | none => none
  | some p =>
    if (findMap map (i.val + 1) p).isNone || st.failed.contains p || st.slots.any (Slot.holds p)
        || st.loadPlace == some p then none
    else some (c.1, p)

theorem preloadOf_eq (map : List MapEntry) (i : Fin 6) (st : Station) :
    preloadOf map i st = (preloadOrder st).findSome? (leftCandidate map i st) := by
  rw [← Station.candidates_eq]
  rfl

theorem candidateLeft_iff (map : List MapEntry) (i : Fin 6) (st : Station) (p : Nat) : CandidateLeft map i st p ↔
    ((findMap map (i.val + 1) p).isNone || st.failed.contains p || st.slots.any (Slot.holds p)
      || st.loadPlace == some p) = false := by
  simp [CandidateLeft, Option.isSome_iff_ne_none, and_assoc]

theorem leftCandidate_skips {map : List MapEntry} {i : Fin 6} {st : Station} {cue : Option CueNo} {q : Nat}
    (h : ¬CandidateLeft map i st q) : leftCandidate map i st (cue, some q) = none := by
  rw [candidateLeft_iff, Bool.not_eq_false] at h
  exact if_pos h

theorem leftCandidate_takes {map : List MapEntry} {i : Fin 6} {st : Station} {q : Nat} (cue : Option CueNo)
    (h : CandidateLeft map i st q) : leftCandidate map i st (cue, some q) = some (cue, q) := by
  rw [candidateLeft_iff] at h
  exact if_neg (by rw [h]; decide)

theorem leftCandidate_none {map : List MapEntry} {i : Fin 6} {st : Station} {c : Option CueNo × Option Nat} :
    leftCandidate map i st c = none ↔ ∀ q, c.2 = some q → ¬CandidateLeft map i st q := by
  obtain ⟨cue, p⟩ := c
  cases p with
  | none => exact ⟨fun _ _ h => (nomatch h), fun _ => rfl⟩
  | some p =>
    refine ⟨fun h q hq hleft => ?_, fun h => leftCandidate_skips (h p rfl)⟩
    cases hq
    rw [leftCandidate_takes cue hleft] at h
    cases h

theorem leftCandidate_some {map : List MapEntry} {i : Fin 6} {st : Station} {c : Option CueNo × Option Nat}
    {cue : Option CueNo} {p : Nat} :
    leftCandidate map i st c = some (cue, p) ↔ c = (cue, some p) ∧ CandidateLeft map i st p := by
  constructor
  · obtain ⟨cue', q⟩ := c
    intro h
    cases q with
    | none => cases h
    | some q =>
      by_cases hleft : CandidateLeft map i st q
      · rw [leftCandidate_takes cue' hleft] at h
        cases h
        exact ⟨rfl, hleft⟩
      · rw [leftCandidate_skips hleft] at h
        cases h
  · rintro ⟨rfl, hleft⟩
    exact leftCandidate_takes cue hleft

theorem preloadOf_some {map : List MapEntry} {i : Fin 6} {st : Station} {cue : Option CueNo} {p : Nat} :
    preloadOf map i st = some (cue, p) ↔ PreloadIs map i st cue p := by
  rw [preloadOf_eq, List.findSome?_eq_some_iff]
  constructor
  · rintro ⟨before, c, after, e, hc, hb⟩
    obtain ⟨rfl, hleft⟩ := leftCandidate_some.mp hc
    exact ⟨before, after, e, fun c hc => leftCandidate_none.mp (hb c hc), hleft⟩
  · rintro ⟨before, after, e, hb, hleft⟩
    exact ⟨before, (cue, some p), after, e, leftCandidate_some.mpr ⟨rfl, hleft⟩,
      fun c hc => leftCandidate_none.mpr (hb c hc)⟩

theorem preloadOf_none {map : List MapEntry} {i : Fin 6} {st : Station} :
    preloadOf map i st = none ↔ AllSkipped map i st (preloadOrder st) := by
  rw [preloadOf_eq, List.findSome?_eq_none_iff]
  exact forall₂_congr fun c _ => leftCandidate_none

/-! ## What a recompute leaves -/

theorem deferPreload_deferred (i : Fin 6) (cue : Option CueNo) (p : Nat) {s : State} (h : s.stations.length = 6) :
    Deferred i cue p s (deferPreload i (cue, p) s) := by
  refine ⟨fun hp => ?_, fun hp => ?_⟩
  · rw [deferPreload, if_pos hp]
    exact ⟨onlyStation_setStation i s _, station_setStation_same i _ h⟩
  · rw [deferPreload, if_neg (by rw [hp]; decide)]
    have e := station_setStation_same i (fun st => { st with preload := false, pressure := true }) h
    obtain ⟨frame, station, -, attention, -⟩ := stationFault_spec i .pressure cue (some p)
      (s := s.setStation i fun st => { st with preload := false, pressure := true }) (by simp [h])
    refine ⟨(onlyStation_setStation i s _).andFault.trans frame, ?_, attention⟩
    rw [station, e, FaultRecord.take_eq]
    rfl

theorem choosePreload_chosen (i : Fin 6) {s : State} (h : s.stations.length = 6) : PreloadChosen i s (choosePreload i s) := by
  have write : ∀ f : Station → Station, OnlyStation i s (s.setStation i f) ∧ (s.setStation i f).station i = f (s.station i) :=
    fun f => ⟨onlyStation_setStation i s f, station_setStation_same i f h⟩
  refine ⟨fun hskip => ?_, fun cue p hp => ?_⟩
  · have e : choosePreload i s = s.setStation i fun st => { st with preload := false, pressure := false } := by
      simp only [choosePreload, preloadOf_none.mpr hskip]
    rw [e]
    exact write _
  · have hpre := preloadOf_some.mpr hp
    refine ⟨fun hheld => ?_, fun hout hload => ⟨?_, fun hno => ?_⟩⟩
    · have e : choosePreload i s = s.setStation i fun st => { st with preload := false } := by
        simp only [choosePreload, hpre]
        refine if_pos ?_
        simpa [Option.isSome_iff_ne_none] using hheld
      rw [e]
      exact write _
    · rintro ⟨k, v, hv⟩
      have e : choosePreload i s = s.setStation i fun st => { st with preload := true } := by
        simp only [choosePreload, hpre, chooseVictim_some.mpr hv, hout, hload]
        rfl
      rw [e]
      exact write _
    · have hnone : (s.station i).chooseVictim true = none := by
        cases hc : (s.station i).chooseVictim true with
        | none => rfl
        | some kv => exact absurd (chooseVictim_some.mp hc) (hno kv.1 kv.2)
      have e : choosePreload i s = deferPreload i (cue, p) s := by
        simp only [choosePreload, hpre, hnone, hout, hload]
        rfl
      rw [e]
      exact deferPreload_deferred i cue p h

theorem recompute_idle (keep : Bool) {i : Fin 6} {s : State} (h : (s.station i).serves = false) : recompute keep i s = s :=
  if_neg (by rw [h]; decide)

theorem recompute_keeping (i : Fin 6) {s : State} (h : s.stations.length = 6) : RecomputedKeeping i s (recompute true i s) :=
  ⟨recompute_idle true, fun hs => by
    rw [recompute, if_pos hs]
    exact choosePreload_chosen i h⟩

/-- A recompute that clears the failed preloads, after a write of its station. -/
theorem recompute_from (i : Fin 6) {s : State} (h : s.stations.length = 6) :
    RecomputedFrom i (s.station i) s (recompute false i s) := by
  refine ⟨fun hs => ?_, fun hs => ?_⟩
  · rw [recompute_idle false hs]
    exact ⟨.refl i s, rfl⟩
  · rw [recompute, if_pos hs]
    exact ⟨_, onlyStation_setStation i s _, station_setStation_same i _ h, choosePreload_chosen i (by simp [h])⟩

theorem serves_iff (st : Station) : st.serves = true ↔ st.link = .online ∧ st.excluded = false := by
  simp [Station.serves]

/-- Settles O51: the victim by the search's order, the preload by the first candidate left, the recompute by both. -/
theorem preloadRecompute : Obligations.PreloadRecompute := by
  unfold Obligations.PreloadRecompute
  refine ⟨fun s i h => ⟨fun hs keep => recompute_idle keep hs, (recompute_keeping i h).2, recompute_from i h,
      fun cue p => deferPreload_deferred i cue p h, serves_iff _⟩,
    fun map i st => ⟨fun cue p => preloadOf_some.mp, preloadOf_none.mp⟩,
    fun preload st => ⟨fun k v => chooseVictim_some, fun h k => chooseVictim_none h⟩⟩

end Sys2Proof.Proofs

namespace Sys2Proof.Proofs

open Sys2Proof Sys2Proof.Machine

/-! ## One station's record written -/

/-- The state with the record of station `i` written to `st`. -/
def stationAs (i : Fin 6) (st : Station) (s : State) : State := s.setStation i fun _ => st

theorem setStation_as (i : Fin 6) (f : Station → Station) (s : State) :
    s.setStation i f = stationAs i (f (s.station i)) s := setStation_congr rfl

theorem stationAs_as (i : Fin 6) (x y : Station) (s : State) : stationAs i y (stationAs i x s) = stationAs i y s :=
  setStation_setStation s i _ _

theorem stationAs_length (i : Fin 6) (x : Station) (s : State) : (stationAs i x s).stations.length = s.stations.length := by
  simp [stationAs]

section

variable {i : Fin 6} {s : State}

theorem station_as (h : s.stations.length = 6) (x : Station) : (stationAs i x s).station i = x :=
  station_setStation_same i _ h

theorem setStation_stationAs (h : s.stations.length = 6) (x : Station) (f : Station → Station) :
    (stationAs i x s).setStation i f = stationAs i (f x) s := by
  rw [setStation_as, station_as h, stationAs_as]

theorem onlyStation_as (x : Station) : OnlyStation i s (stationAs i x s) := onlyStation_setStation i s _

/-! ## A recompute after a write -/

/-- A recompute that keeps the failed preloads leaves what a station has settled. -/
theorem recompute_settled (h : s.stations.length = 6) (x : Station) :
    ((recompute true i (stationAs i x s)).station i).settled = x.settled := by
  have hx := station_as (i := i) h x
  have r := recompute_spec true i (s := stationAs i x s) (by rw [stationAs_length, h])
  have hst := r.station
  rw [← r.failed rfl, hx] at hst
  exact hst

theorem recompute_frame (h : s.stations.length = 6) (keep : Bool) (x : Station) :
    OnlyStationAndFault i s (recompute keep i (stationAs i x s)) :=
  (onlyStation_as x).andFault.trans (recompute_spec keep i (by rw [stationAs_length, h])).frame

theorem recompute_as_keeping (h : s.stations.length = 6) (x : Station) :
    RecomputedKeeping i (stationAs i x s) (recompute true i (stationAs i x s)) :=
  recompute_keeping i (by rw [stationAs_length, h])

end

/-! ## A frame of the rig is taken -/

/-- A row of a frame, where no frame in reception has had its gap, is taken on a receiver that hunts. -/
theorem exec_rigFrame_held {s : State} {i : Fin 6} (f : RigFrame) (t : Nat) (hs : s.Serving)
    (hg : GapHeld (s.station i) 4 (max s.now t)) :
    exec (f.command t i) s = .next (takeRigFrame i f (stationAs i { s.station i with receiver := none } (s.goTo t))) := by
  rw [exec_rigFrame, event_on t hs.1, unlessLoading_served (s := s.goTo t) hs.2, frameComes_held (s := s.goTo t) f hg,
    setStation_as]
  rfl

theorem protocolError_as {i : Fin 6} {s : State} (h : s.stations.length = 6) (x : Station) :
    protocolError i (stationAs i x s) = stationAs i { x with protoErrors := min 65535 (x.protoErrors + 1) } s :=
  setStation_stationAs h x _

theorem answerLoad_other {i : Fin 6} {s : State} {k : Nat} (f : OutLoad → State → State)
    (h : ∀ o, (s.station i).outLoad = some o → o.slot ≠ k) : answerLoad k f i s = protocolError i s := by
  rw [answerLoad]
  split
  · next o ho => exact if_neg (h o ho)
  · rfl

theorem answerLoad_own {i : Fin 6} {s : State} {o : OutLoad} (f : OutLoad → State → State)
    (h : (s.station i).outLoad = some o) : answerLoad o.slot f i s = f o s := by
  simp only [answerLoad, h, if_true]

/-! ## LOADED (R115, R119) -/

/-- The slot of an answered LOAD. -/
def slotLoaded (sl : Slot) : Slot :=
  if sl.flush then Slot.blank
  else if sl.stale then { st := .resident, patch := none, stale := true, flush := false }
  else { sl with st := .resident }

/-- A station whose outstanding LOAD has been answered. -/
def loadAnswered (k : Nat) (st : Station) : Station := { st.setSlot k slotLoaded with outLoad := none }

/-- A station whose switch in progress has become a cold load. -/
def coldened (st : Station) : Station :=
  { st with
    selectPlace := none
    loadPlace := st.switch.map (·.patch)
    preload := false
    switch := st.switch.map fun w => { w with kind := .cold, stage := .coldHeld } }

/-- The switch in progress waits for slot `k`. -/
def WaitsFor (k : Nat) (st : Station) : Prop := ∃ w, st.switch = some w ∧ w.stage = .loading k

section

variable {i : Fin 6} {s : State} {o : OutLoad} {x : Station}

theorem takeLoaded_unwaited (h : s.stations.length = 6) (hw : ∀ w, x.switch = some w → w.stage ≠ .loading o.slot) :
    takeLoaded i o (stationAs i x s) = recompute true i (stationAs i (loadAnswered o.slot x) s) := by
  have hwaits : ((x.switch.map (·.stage)) == some (.loading o.slot)) = false := by
    cases hsw : x.switch with
    | none => rfl
    | some w => exact beq_eq_false_iff_ne.mpr fun e => hw w hsw (Option.some.inj e)
  unfold takeLoaded
  simp only [station_as h, hwaits, setStation_stationAs h]
  rfl

theorem takeLoaded_selects {w : Switch} (h : s.stations.length = 6) (hw : x.switch = some w) (hs : w.stage = .loading o.slot)
    (hstale : (x.slot o.slot).stale = false) (hflush : (x.slot o.slot).flush = false) :
    takeLoaded i o (stationAs i x s)
      = recompute true i (stationAs i ((loadAnswered o.slot x).queueSelect o.slot w) s) := by
  have hwaits : ((x.switch.map (·.stage)) == some (.loading o.slot)) = true := by
    rw [hw, Option.map_some, hs]
    exact beq_self_eq_true _
  have hsw : (loadAnswered o.slot x).switch = some w := hw
  unfold takeLoaded
  simp only [station_as h, hwaits, setStation_stationAs h, hstale, hflush]
  rw [show (fun sl : Slot => if sl.flush = true then Slot.blank else if sl.stale = true then
    { st := .resident, patch := none, stale := true, flush := false } else { sl with st := .resident }) = slotLoaded from rfl]
  change recompute true i (stationAs i (match (loadAnswered o.slot x).switch with
    | some w => (loadAnswered o.slot x).queueSelect o.slot w
    | none => loadAnswered o.slot x) s) = _
  rw [hsw]

theorem takeLoaded_colds {w : Switch} (h : s.stations.length = 6) (hw : x.switch = some w) (hs : w.stage = .loading o.slot)
    (hmark : (x.slot o.slot).stale = true ∨ (x.slot o.slot).flush = true) :
    takeLoaded i o (stationAs i x s) = recompute true i (stationAs i (coldened (loadAnswered o.slot x)) s) := by
  have hwaits : ((x.switch.map (·.stage)) == some (.loading o.slot)) = true := by
    rw [hw, Option.map_some, hs]
    exact beq_self_eq_true _
  have hm : ((x.slot o.slot).stale || (x.slot o.slot).flush) = true := by simpa using hmark
  unfold takeLoaded
  simp only [station_as h, hwaits, setStation_stationAs h, hm, becomeCold]
  rfl

end

/-- A write of a list's place looks at what stands there. -/
theorem modify_congr {α : Type} {l : List α} {n : Nat} {f g : α → α} (h : ∀ x, l[n]? = some x → f x = g x) :
    l.modify n f = l.modify n g := by
  refine List.ext_getElem? fun k => ?_
  rw [List.getElem?_modify, List.getElem?_modify]
  by_cases hk : n = k
  · subst hk
    cases hx : l[n]? with
    | none => rfl
    | some x => simp [h x hx]
  · simp [hk]

/-- A write of slot `k` that looks at the slot. -/
theorem modify_slot {st : Station} {k : Nat} {f g : Slot → Slot} (h : f (st.slot k) = g (st.slot k)) :
    st.slots.modify (k - 1) f = st.slots.modify (k - 1) g := by
  refine modify_congr fun x hx => ?_
  have : st.slot k = x := by simp [Station.slot, List.getD_eq_getElem?_getD, hx]
  rwa [this] at h

theorem stationAs_self (i : Fin 6) (s : State) : stationAs i (s.station i) s = s := setStation_self rfl

/-! ## Ends of a switch and faults, outside a rebuild -/

/-- A station whose switch `w` has ended. -/
def switchEnded (w : Switch) (o : SwitchEnd) (lateness : Option Nat) (st : Station) : Station :=
  { st with
    switch := none
    lastSwitch := some { cue := w.cue, patch := some w.patch, kind := w.kind, outcome := o, lateness := lateness } }

/-- A station that has had a fault. -/
def faulted (f : StationFault) (st : Station) : Station := { st with faults := st.faults.take f }

section

variable {i : Fin 6} {s : State} {x : Station}

theorem endSwitch_as {w : Switch} (h : s.stations.length = 6) (hr : s.stop.st.rebuilds = false) (hw : x.switch = some w)
    (o : SwitchEnd) (l : Option Nat) : endSwitch i o l (stationAs i x s) = stationAs i (switchEnded w o l x) s := by
  rw [endSwitch_outside (by exact hr), station_as h, hw]
  exact setStation_stationAs h x _

theorem stationFault_as (h : s.stations.length = 6) (kind : FaultKind) (cue : Option CueNo) (patch : Option Nat) :
    stationFault i kind cue patch (stationAs i x s) = raise (.stationFault i kind)
      (stationAs i (faulted { kind := kind, cue := cue, patch := patch, time := s.now } x) s) := by
  rw [stationFault, setStation_stationAs h]
  rfl

theorem faulted_first (kind : FaultKind) (cue : Option CueNo) (patch : Option Nat) (now : Nat)
    (hx : x.faults = (s.station i).faults) :
    (faulted { kind := kind, cue := cue, patch := patch, time := now } x).faults.first
      = faultAfter i kind cue patch s now := by
  rw [faulted, faultRecord_take_first, hx]
  rfl

/-- What a recompute that keeps the failed preloads leaves after a fault. -/
theorem recompute_faulted (h : s.stations.length = 6) (kind : FaultKind) (x : Station) :
    OnlyStationAndFault i s (recompute true i (raise (.stationFault i kind) (stationAs i x s)))
      ∧ ((recompute true i (raise (.stationFault i kind) (stationAs i x s))).station i).settled = x.settled
      ∧ ∀ f, x.faults.first = some f →
        ((recompute true i (raise (.stationFault i kind) (stationAs i x s))).station i).faults.first = some f := by
  have hx : (raise (.stationFault i kind) (stationAs i x s)).station i = x := station_as h x
  have r := recompute_spec true i (s := raise (.stationFault i kind) (stationAs i x s)) (by
    show (stationAs i x s).stations.length = 6
    rw [stationAs_length, h])
  refine ⟨((onlyStation_as x).andFault.trans (onlyStationAndFault_raise i kind _)).trans r.frame, ?_, fun f hf =>
    r.first f (by rw [hx]; exact hf)⟩
  have hst := r.station
  rw [← r.failed rfl, hx] at hst
  exact hst

end

/-! ## LOAD_FAILED and the timeout of a LOAD (R115, R126) -/

/-- A station whose outstanding LOAD has failed. -/
def loadLost (o : OutLoad) (st : Station) : Station :=
  { st.setSlot o.slot fun _ => Slot.blank with
    outLoad := none
    failed := if st.failed.contains o.patch then st.failed else st.failed ++ [o.patch] }

section

variable {i : Fin 6} {s : State} {o : OutLoad} {x : Station} {kind : FaultKind}

theorem failLoad_waited {w : Switch} (h : s.stations.length = 6) (hr : s.stop.st.rebuilds = false) (hw : x.switch = some w)
    (hs : w.stage = .loading o.slot) :
    failLoad i kind o (stationAs i x s) = recompute true i (raise (.stationFault i kind)
      (stationAs i (faulted { kind := kind, cue := w.cue, patch := some o.patch, time := s.now }
        (switchEnded w .missed none (loadLost o x))) s)) := by
  have hwait : x.switch.filter (fun w => w.stage == .loading o.slot) = some w := by
    rw [hw, Option.filter_some, hs, beq_self_eq_true, if_pos rfl]
  have hend := endSwitch_as (x := loadLost o x) (i := i) h hr hw .missed none
  unfold failLoad
  simp only [station_as h, hwait, setStation_stationAs h]
  rw [show { x.setSlot o.slot fun _ => Slot.blank with
      outLoad := none
      failed := if x.failed.contains o.patch then x.failed else x.failed ++ [o.patch] } = loadLost o x from rfl, hend,
    stationFault_as h]

theorem failLoad_unwaited (h : s.stations.length = 6) (hw : ∀ w, x.switch = some w → w.stage ≠ .loading o.slot) :
    failLoad i kind o (stationAs i x s) = recompute true i (raise (.stationFault i kind)
      (stationAs i (faulted { kind := kind, cue := o.cue, patch := some o.patch, time := s.now } (loadLost o x)) s)) := by
  have hwait : x.switch.filter (fun w => w.stage == .loading o.slot) = none := by
    cases hsw : x.switch with
    | none => rfl
    | some w => rw [Option.filter_some, beq_eq_false_iff_ne.mpr (hw w hsw), if_neg Bool.false_ne_true]
  unfold failLoad
  simp only [station_as h, hwait, setStation_stationAs h]
  exact congrArg _ (stationFault_as h kind o.cue (some o.patch))

end

/-! ## The slots of an answered LOAD -/

theorem loadAnswered_clean {st : Station} {k : Nat} (hstale : (st.slot k).stale = false) (hflush : (st.slot k).flush = false) :
    (loadAnswered k st).slots = st.slots.modify (k - 1) fun sl => { sl with st := .resident } :=
  modify_slot (by simp [slotLoaded, hstale, hflush])

theorem loadAnswered_marked {st : Station} {k : Nat} (h : (st.slot k).stale = true ∨ (st.slot k).flush = true) :
    (loadAnswered k st).slots = st.slots.modify (k - 1) fun _ => if (st.slot k).flush = true then Slot.blank
      else { st := .resident, patch := none, stale := true, flush := false } := by
  refine modify_slot ?_
  unfold slotLoaded
  by_cases hf : (st.slot k).flush = true
  · rw [if_pos hf, if_pos hf]
  · rw [if_neg hf, if_neg hf, if_pos (h.resolve_right hf)]

/-- What a settled record shows of a station. -/
theorem settled_parts {x y : Station} (h : x.settled = y.settled) :
    x.slots = y.slots ∧ x.outLoad = y.outLoad ∧ x.receiver = y.receiver ∧ x.failed = y.failed ∧ x.switch = y.switch
      ∧ x.lastSwitch = y.lastSwitch ∧ x.selected = y.selected ∧ x.outSelect = y.outSelect ∧ x.hostPins = y.hostPins := by
  have p : ∀ {α : Type} (f : Station → α), _ := fun f => congrArg f h
  exact ⟨p (·.slots), p (·.outLoad), p (·.receiver), p (·.failed), p (·.switch), p (·.lastSwitch), p (·.selected),
    p (·.outSelect), p (·.hostPins)⟩

/-- LOADED leaves a record of one of three kinds, with a preload chosen again. -/
theorem takeLoaded_cases {i : Fin 6} {s : State} (o : OutLoad) (x : Station) (h : s.stations.length = 6) :
    ∃ y, takeLoaded i o (stationAs i x s) = recompute true i (stationAs i y s) ∧ y.slots = (loadAnswered o.slot x).slots
      ∧ ((∀ w, x.switch = some w → w.stage ≠ .loading o.slot) → y = loadAnswered o.slot x)
      ∧ ∀ w, x.switch = some w → w.stage = .loading o.slot →
        ((x.slot o.slot).stale = false → (x.slot o.slot).flush = false →
          y = (loadAnswered o.slot x).queueSelect o.slot w)
        ∧ ((x.slot o.slot).stale = true ∨ (x.slot o.slot).flush = true → y = coldened (loadAnswered o.slot x)) := by
  by_cases hw : ∃ w, x.switch = some w ∧ w.stage = .loading o.slot
  · obtain ⟨w, hw, hs⟩ := hw
    by_cases hm : (x.slot o.slot).stale = true ∨ (x.slot o.slot).flush = true
    · refine ⟨_, takeLoaded_colds h hw hs hm, rfl, fun hno => absurd hs (hno w hw), fun v _ _ => ⟨fun h₁ h₂ => ?_, fun _ => rfl⟩⟩
      rw [h₁, h₂] at hm
      exact absurd hm (by decide)
    · rw [not_or, Bool.not_eq_true, Bool.not_eq_true] at hm
      refine ⟨_, takeLoaded_selects h hw hs hm.1 hm.2, ?_, fun hno => absurd hs (hno w hw), fun v hv _ =>
        ⟨fun _ _ => ?_, fun hm' => ?_⟩⟩
      · unfold Station.queueSelect
        split <;> rfl
      · cases hw.symm.trans hv
        rfl
      · rw [hm.1, hm.2] at hm'
        exact absurd hm' (by decide)
  · have hno : ∀ w, x.switch = some w → w.stage ≠ .loading o.slot := fun w h₁ h₂ => hw ⟨w, h₁, h₂⟩
    exact ⟨_, takeLoaded_unwaited h hno, rfl, fun _ => rfl, fun w h₁ h₂ => absurd h₂ (hno w h₁)⟩

theorem queueSelect_held {k : Nat} {w : Switch} {st : Station} (h : st.outSelect.map (·.slot) ≠ some k) :
    st.queueSelect k w = { st with selectPlace := some k, switch := some { w with stage := .selectHeld k } } := if_neg h

theorem queueSelect_waits {k : Nat} {w : Switch} {st : Station} (h : st.outSelect.map (·.slot) = some k) :
    st.queueSelect k w = { st with switch := some { w with stage := .selecting k } } := if_pos h

/-- The record of a station whose outstanding LOAD failed, once its fault and its switch's end are in it. -/
theorem failLoad_cases {i : Fin 6} {s : State} (kind : FaultKind) (o : OutLoad) (x : Station) (h : s.stations.length = 6)
    (hr : s.stop.st.rebuilds = false) :
    ∃ y, failLoad i kind o (stationAs i x s) = recompute true i (raise (.stationFault i kind) (stationAs i y s))
      ∧ (∀ w, x.switch = some w → w.stage = .loading o.slot →
        y = faulted { kind := kind, cue := w.cue, patch := some o.patch, time := s.now }
          (switchEnded w .missed none (loadLost o x)))
      ∧ ((∀ w, x.switch = some w → w.stage ≠ .loading o.slot) →
        y = faulted { kind := kind, cue := o.cue, patch := some o.patch, time := s.now } (loadLost o x)) := by
  by_cases hw : ∃ w, x.switch = some w ∧ w.stage = .loading o.slot
  · obtain ⟨w, hw, hs⟩ := hw
    refine ⟨_, failLoad_waited h hr hw hs, fun v hv _ => ?_, fun hno => absurd hs (hno w hw)⟩
    cases hw.symm.trans hv
    rfl
  · have hno : ∀ w, x.switch = some w → w.stage ≠ .loading o.slot := fun w h₁ h₂ => hw ⟨w, h₁, h₂⟩
    exact ⟨_, failLoad_unwaited h hno, fun w h₁ h₂ => absurd h₂ (hno w h₁), fun _ => rfl⟩

theorem coldened_switch {st : Station} {w : Switch} (h : st.switch = some w) : coldened st = { st with
    loadPlace := some w.patch, selectPlace := none, preload := false
    switch := some { w with kind := .cold, stage := .coldHeld } } := by
  rw [coldened, h]
  rfl

theorem faultAfter_some (i : Fin 6) (kind : FaultKind) (cue : Option CueNo) (patch : Option Nat) (s : State) (now : Nat) :
    ∃ f, faultAfter i kind cue patch s now = some f := by
  unfold faultAfter
  split
  · exact ⟨_, rfl⟩
  · exact ⟨_, rfl⟩

theorem exec_loadTimeout {s : State} {i : Fin 6} {o : OutLoad} {d : Nat} (hp : s.powered = true)
    (ho : (s.station i).outLoad = some o) (hd : o.due = some d) :
    exec (.loadTimeout i) s = .next (failLoad i .loadTimeout o (s.goTo d)) := by
  have hdue : loadDue i s = some d := by rw [loadDue, ho]; exact hd
  have htimes : loadTimesOut i (s.goTo d) = failLoad i .loadTimeout o (s.goTo d) := by
    unfold loadTimesOut
    rw [show ((s.goTo d).station i).outLoad = some o from ho]
  exact (selfTimed_due hp hdue).trans (congrArg _ htimes)

theorem takeRigFrame_loaded (i : Fin 6) (k : Nat) (s : State) :
    takeRigFrame i (.loaded k) s = answerLoad k (takeLoaded i) i s := rfl

theorem takeRigFrame_loadFailed (i : Fin 6) (k : Nat) (s : State) :
    takeRigFrame i (.loadFailed k) s = answerLoad k (failLoad i .loadFailed) i s := rfl

/-- Settles O46: what LOADED and a LOAD that fails leave of the station's record, ahead of the preload chosen again. -/
theorem loadsAreAnswered : Obligations.LoadsAreAnswered := by
  unfold Obligations.LoadsAreAnswered
  refine ⟨fun s t k i hs h hg => ⟨fun hother => ?_, fun o ho hk => ?_⟩, fun s t i o hs h hr ho c kind at_ hc => ?_⟩
  · have e₁ := exec_rigFrame_held (.loaded k) t hs hg
    have e₂ := exec_rigFrame_held (.loadFailed k) t hs hg
    have hno : ∀ o, ((stationAs i { s.station i with receiver := none } (s.goTo t)).station i).outLoad = some o →
        o.slot ≠ k := fun o ho => hother o (by rw [station_as (s := s.goTo t) h] at ho; exact ho)
    rw [takeRigFrame_loaded, answerLoad_other _ hno, protocolError_as (s := s.goTo t) h] at e₁
    rw [takeRigFrame_loadFailed, answerLoad_other _ hno, protocolError_as (s := s.goTo t) h] at e₂
    exact ⟨_, _, e₁, onlyStation_as _, e₂, rfl, station_as (s := s.goTo t) h _⟩
  · subst hk
    have e := exec_rigFrame_held (.loaded o.slot) t hs hg
    have hown : ((stationAs i { s.station i with receiver := none } (s.goTo t)).station i).outLoad = some o := by
      rw [station_as (s := s.goTo t) h]
      exact ho
    obtain ⟨y, hy, hslots, hfree, hwaits⟩ := takeLoaded_cases (i := i) (s := s.goTo t) o
      { s.station i with receiver := none } h
    rw [takeRigFrame_loaded, answerLoad_own _ hown, hy] at e
    have hsettled := recompute_settled (i := i) (s := s.goTo t) h y
    have hs' := (settled_parts hsettled).1.trans hslots
    have frame := recompute_frame (i := i) (s := s.goTo t) h true y
    generalize recompute true i (stationAs i y (s.goTo t)) = u at *
    refine ⟨u, _, e, frame, rfl, fun hno => ?_, fun hstale hflush => ⟨?_, fun w hw hst =>
      ⟨fun hout => ?_, fun hout => ?_⟩⟩, fun hm => ⟨?_, fun w hw hst => ?_⟩⟩
    · rw [hs', hsettled, hfree hno]
      rfl
    · rw [hs', loadAnswered_clean (by exact hstale) (by exact hflush)]
    · rw [hs', hsettled, (hwaits w hw hst).1 hstale hflush, queueSelect_held (by exact hout)]
      rfl
    · rw [hs', hsettled, (hwaits w hw hst).1 hstale hflush, queueSelect_waits (by exact hout)]
      rfl
    · rw [hs', loadAnswered_marked (by exact hm)]
      rfl
    · rw [hs', hsettled, (hwaits w hw hst).2 hm, coldened_switch (by exact hw)]
      rfl
  · have hx : ∃ x : Station, x = { s.station i with
          receiver := if c = .loadTimeout i then (s.station i).receiver else none }
        ∧ exec c s = .next (failLoad i kind o (stationAs i x { s with now := at_ })) := by
      rcases hc with ⟨rfl, hg, rfl, rfl⟩ | ⟨rfl, rfl, d, hd, rfl⟩
      · have hown : ((stationAs i { s.station i with receiver := none } (s.goTo t)).station i).outLoad = some o := by
          rw [station_as (s := s.goTo t) h]
          exact ho
        refine ⟨_, rfl, ?_⟩
        rw [if_neg (fun hf => nomatch hf)]
        refine (exec_rigFrame_held (.loadFailed o.slot) t hs hg).trans (congrArg _ ?_)
        rw [takeRigFrame_loadFailed, answerLoad_own _ hown]
        rfl
      · refine ⟨_, rfl, ?_⟩
        rw [if_pos rfl]
        exact (exec_loadTimeout hs.1 ho hd).trans (congrArg (fun m => Host.Outcome.next (failLoad i .loadTimeout o m))
          (stationAs_self i (s.goTo d)).symm)
    obtain ⟨x, hx, e⟩ := hx
    obtain ⟨y, hy, hwaits, hfree⟩ := failLoad_cases (i := i) (s := { s with now := at_ }) kind o x h hr
    rw [hy] at e
    obtain ⟨frame, hsettled, hfirst⟩ := recompute_faulted (i := i) (s := { s with now := at_ }) h kind y
    obtain ⟨hslots, houtLoad, hreceiver, hfailed, hswitch, hlast, hselected, houtSelect, hpins⟩ := settled_parts hsettled
    generalize recompute true i (raise (.stationFault i kind) (stationAs i y { s with now := at_ })) = u at *
    have first : ∀ cue, y.faults.first = faultAfter i kind cue (some o.patch) s at_ →
        (u.station i).faults.first = faultAfter i kind cue (some o.patch) s at_ := by
      intro cue hc
      rw [hc.symm]
      obtain ⟨f, hf⟩ := faultAfter_some i kind cue (some o.patch) s at_
      exact (hfirst f (hc.trans hf)).trans (hc.trans hf).symm
    by_cases hw : ∃ w, x.switch = some w ∧ w.stage = .loading o.slot
    · obtain ⟨w, hw, hst⟩ := hw
      obtain rfl := hwaits w hw hst
      subst hx
      refine ⟨u, e, frame, hslots, houtLoad, hreceiver, hfailed, fun v hv _ => ?_, fun hno => absurd hst (hno w hw), hselected,
        houtSelect, hpins⟩
      cases hw.symm.trans hv
      exact ⟨hswitch, hlast, first _ (faulted_first kind _ _ at_ rfl)⟩
    · have hno : ∀ w, x.switch = some w → w.stage ≠ .loading o.slot := fun w h₁ h₂ => hw ⟨w, h₁, h₂⟩
      obtain rfl := hfree hno
      subst hx
      refine ⟨u, e, frame, hslots, houtLoad, hreceiver, hfailed, fun w hv hst => absurd hst (hno w hv), fun _ => ?_, hselected,
        houtSelect, hpins⟩
      exact ⟨hswitch, hlast, first _ (faulted_first kind _ _ at_ rfl)⟩

end Sys2Proof.Proofs

namespace Sys2Proof.Proofs

open Sys2Proof Sys2Proof.Machine

/-! ## SELECTED (R116, R125) -/

theorem takeRigFrame_selected (i : Fin 6) (k : Nat) (s : State) :
    takeRigFrame i (.selected k) s = answerSelect k i s := rfl

theorem answerSelect_other {i : Fin 6} {s : State} {k : Nat}
    (h : ∀ o, (s.station i).outSelect = some o → o.slot ≠ k) : answerSelect k i s = protocolError i s := by
  rw [answerSelect]
  split
  · next o ho => exact if_neg (h o ho)
  · rfl

theorem answerSelect_own {i : Fin 6} {s : State} {o : OutSelect} (h : (s.station i).outSelect = some o) :
    answerSelect o.slot i s = takeSelected i o.slot s := by
  simp only [answerSelect, h, if_true]

/-- A station whose outstanding SELECT has left the slot selected as given. -/
def selectAnswered (selected : Selected) (st : Station) : Station := { st with selected := selected, outSelect := none }

/-- The switch `w` is late at show time `now` on a station of the part (R125). -/
def SwitchLate (w : Switch) (now : Nat) (st : Station) (s : State) : Prop :=
  st.lateOverride.getD s.seq.settings.lateThreshold * 1000 < (w.fireTime.map (now - ·)).getD 0

theorem switchLate_iff {w : Switch} {now : Nat} {st : Station} {s : State} : SwitchLate w now st s
    ↔ ∃ f, w.fireTime = some f ∧ st.lateOverride.getD s.seq.settings.lateThreshold * 1000 < now - f := by
  unfold SwitchLate
  cases w.fireTime with
  | none => exact ⟨fun h => absurd h (Nat.not_lt_zero _), fun ⟨f, hf, _⟩ => nomatch hf⟩
  | some f => exact ⟨fun h => ⟨f, rfl, h⟩, fun ⟨g, hg, hl⟩ => (Option.some.inj hg) ▸ hl⟩

section

variable {i : Fin 6} {s : State} {x : Station} {k : Nat} {w : Switch}

theorem takeSelected_unserved (h : s.stations.length = 6) (hw : ∀ w, x.switch = some w → w.stage ≠ .selecting k) :
    takeSelected i k (stationAs i x s) = recompute true i (stationAs i (selectAnswered (.slot k) x) s) := by
  have hv : (stationAs i x s).setStation i (fun st => { st with selected := .slot k, outSelect := none })
    = stationAs i (selectAnswered (.slot k) x) s := setStation_stationAs h x _
  have hst := station_as (i := i) h (selectAnswered (.slot k) x)
  unfold takeSelected
  rw [hv]
  generalize stationAs i (selectAnswered (.slot k) x) s = v at hst
  dsimp only
  rw [show v.station i = selectAnswered (.slot k) x from hst]
  congr 1
  split
  · next w hsw => exact if_neg (hw w hsw)
  · rfl

theorem takeSelected_serves (h : s.stations.length = 6) (hw : x.switch = some w) (hs : w.stage = .selecting k) :
    takeSelected i k (stationAs i x s)
      = recompute true i (confirmSwitch i w (stationAs i (selectAnswered (.slot k) x) s)) := by
  have hv : (stationAs i x s).setStation i (fun st => { st with selected := .slot k, outSelect := none })
    = stationAs i (selectAnswered (.slot k) x) s := setStation_stationAs h x _
  have hst := station_as (i := i) h (selectAnswered (.slot k) x)
  unfold takeSelected
  rw [hv]
  generalize stationAs i (selectAnswered (.slot k) x) s = v at hst
  dsimp only
  rw [show (v.station i).switch = some w from (congrArg (·.switch) hst).trans hw]
  exact congrArg _ (if_pos hs)

theorem lateThreshold_as (h : s.stations.length = 6) (x : Station) :
    lateThreshold i (stationAs i x s) = x.lateOverride.getD s.seq.settings.lateThreshold * 1000 := by
  rw [lateThreshold, station_as h]
  rfl

theorem confirmSwitch_inTime (h : s.stations.length = 6) (hr : s.stop.st.rebuilds = false) (hw : x.switch = some w)
    (hlate : ¬SwitchLate w s.now x s) :
    confirmSwitch i w (stationAs i x s) = stationAs i (switchEnded w .done (w.fireTime.map (s.now - ·)) x) s := by
  unfold confirmSwitch
  simp only [lateThreshold_as h]
  rw [if_neg (by rw [decide_eq_true_eq]; exact hlate), endSwitch_as h hr hw]
  rfl

theorem confirmSwitch_late (h : s.stations.length = 6) (hr : s.stop.st.rebuilds = false) (hw : x.switch = some w)
    (hlate : SwitchLate w s.now x s) :
    confirmSwitch i w (stationAs i x s) = raise (.stationFault i .late) (stationAs i
      (faulted { kind := .late, cue := w.cue, patch := some w.patch, time := s.now }
        (switchEnded w .done (w.fireTime.map (s.now - ·)) x)) s) := by
  unfold confirmSwitch
  simp only [lateThreshold_as h]
  rw [if_pos (by rw [decide_eq_true_eq]; exact hlate), endSwitch_as h hr hw, stationFault_as h]
  rfl

/-! ## The timeout of a SELECT (R116, R126) -/

theorem failSelect_unserved (h : s.stations.length = 6) (hw : ∀ w, x.switch = some w → w.stage ≠ .selecting k) :
    failSelect i k (stationAs i x s)
      = recompute true i (stationAs i (selectAnswered (x.selected.timedOut k) x) s) := by
  have hv : (stationAs i x s).setStation i (fun st => { st with selected := st.selected.timedOut k, outSelect := none })
    = stationAs i (selectAnswered (x.selected.timedOut k) x) s := setStation_stationAs h x _
  have hst := station_as (i := i) h (selectAnswered (x.selected.timedOut k) x)
  unfold failSelect
  rw [hv]
  generalize stationAs i (selectAnswered (x.selected.timedOut k) x) s = v at hst
  dsimp only
  rw [show v.station i = selectAnswered (x.selected.timedOut k) x from hst]
  congr 1
  split
  · next w hsw => exact if_neg (hw w hsw)
  · rfl

theorem missSwitch_as (h : s.stations.length = 6) (hr : s.stop.st.rebuilds = false) (hw : x.switch = some w)
    (kind : FaultKind) : missSwitch i kind (stationAs i x s) = raise (.stationFault i kind) (stationAs i
      (faulted { kind := kind, cue := w.cue, patch := some w.patch, time := s.now } (switchEnded w .missed none x)) s) := by
  unfold missSwitch
  simp only [station_as h, hw]
  rw [endSwitch_as h hr hw, stationFault_as h]

theorem failSelect_serves (h : s.stations.length = 6) (hr : s.stop.st.rebuilds = false) (hw : x.switch = some w)
    (hs : w.stage = .selecting k) :
    failSelect i k (stationAs i x s) = recompute true i (raise (.stationFault i .selectTimeout) (stationAs i
      (faulted { kind := .selectTimeout, cue := w.cue, patch := some w.patch, time := s.now }
        (switchEnded w .missed none (selectAnswered (x.selected.timedOut k) x))) s)) := by
  have hv : (stationAs i x s).setStation i (fun st => { st with selected := st.selected.timedOut k, outSelect := none })
    = stationAs i (selectAnswered (x.selected.timedOut k) x) s := setStation_stationAs h x _
  have hst := station_as (i := i) h (selectAnswered (x.selected.timedOut k) x)
  have hmiss := missSwitch_as (i := i) (x := selectAnswered (x.selected.timedOut k) x) h hr hw .selectTimeout
  unfold failSelect
  rw [hv, ← hmiss]
  generalize stationAs i (selectAnswered (x.selected.timedOut k) x) s = v at hst
  dsimp only
  rw [show (v.station i).switch = some w from (congrArg (·.switch) hst).trans hw]
  exact congrArg _ (if_pos hs)

end

theorem exec_selectTimeout {s : State} {i : Fin 6} {o : OutSelect} {d : Nat} (hp : s.powered = true)
    (ho : (s.station i).outSelect = some o) (hd : o.due = some d) :
    exec (.selectTimeout i) s = .next (failSelect i o.slot (s.goTo d)) := by
  have hdue : selectDue i s = some d := by rw [selectDue, ho]; exact hd
  have htimes : selectTimesOut i (s.goTo d) = failSelect i o.slot (s.goTo d) := by
    unfold selectTimesOut
    rw [show ((s.goTo d).station i).outSelect = some o from ho]
  exact (selfTimed_due hp hdue).trans (congrArg _ htimes)

/-- Show time stays where nothing but a station and STATION_FAULT differs. -/
theorem onlyStationAndFault_now {i : Fin 6} {s u : State} (h : OnlyStationAndFault i s u) : u.now = s.now := by
  obtain ⟨-, -, hrest⟩ := h
  have hnow := congrArg (fun m : State => m.now) hrest
  exact hnow

/-- What a settled record shows of a station's places. -/
theorem settled_places {x y : Station} (h : x.settled = y.settled) :
    x.selectPlace = y.selectPlace ∧ x.loadPlace = y.loadPlace := by
  have p : ∀ {α : Type} (f : Station → α), _ := fun f => congrArg f h
  exact ⟨p (·.selectPlace), p (·.loadPlace)⟩

/-- The selection after a timeout, by what was selected before (R116). -/
theorem timedOut_cases (k : Nat) (sel : Selected) : (sel = .none → sel.timedOut k = .unknown [k])
    ∧ (∀ j, sel = .slot j → sel.timedOut k = if j = k then .slot j else .unknown [j, k])
    ∧ ∀ l, sel = .unknown l → sel.timedOut k = .unknown (if l.contains k then l else l ++ [k]) := by
  refine ⟨?_, ?_, ?_⟩
  · rintro rfl
    rfl
  · rintro j rfl
    rfl
  · rintro l rfl
    rfl

/-- Settles O47: the confirmed switch in time or late, and the one that a timeout misses, ahead of the preload chosen
again. -/
theorem selectsAreAnswered : Obligations.SelectsAreAnswered := by
  unfold Obligations.SelectsAreAnswered
  refine ⟨fun s t k i hs h hr hg => ⟨fun hother => ?_, fun o ho hk => ?_⟩, fun s i o d hp h hr ho hd => ?_⟩
  · have e := exec_rigFrame_held (.selected k) t hs hg
    have hno : ∀ o, ((stationAs i { s.station i with receiver := none } (s.goTo t)).station i).outSelect = some o →
        o.slot ≠ k := fun o ho => hother o (by rw [station_as (s := s.goTo t) h] at ho; exact ho)
    rw [takeRigFrame_selected, answerSelect_other hno, protocolError_as (s := s.goTo t) h] at e
    exact ⟨_, e, onlyStation_as _, station_as (s := s.goTo t) h _⟩
  · subst hk
    have e := exec_rigFrame_held (.selected o.slot) t hs hg
    have hown : ((stationAs i { s.station i with receiver := none } (s.goTo t)).station i).outSelect = some o := by
      rw [station_as (s := s.goTo t) h]
      exact ho
    rw [takeRigFrame_selected, answerSelect_own hown] at e
    generalize hx : ({ s.station i with receiver := none } : Station) = x at e
    have hswitch : x.switch = (s.station i).switch := by rw [← hx]
    by_cases hw : ∃ w, x.switch = some w ∧ w.stage = .selecting o.slot
    · obtain ⟨w, hw, hst⟩ := hw
      rw [takeSelected_serves (s := s.goTo t) h hw hst] at e
      have own : ∀ v, (s.station i).switch = some v → v = w := fun v hv =>
        Option.some.inj (hv.symm.trans (hswitch.symm.trans hw))
      have hno : ¬∀ v, (s.station i).switch = some v → v.stage ≠ .selecting o.slot := fun hno =>
        hno w (hswitch.symm.trans hw) hst
      by_cases hlate : SwitchLate w (s.goTo t).now (selectAnswered (.slot o.slot) x) (s.goTo t)
      · obtain ⟨f, hf, hl⟩ := switchLate_iff.mp hlate
        have hl' : (s.station i).lateOverride.getD s.seq.settings.lateThreshold * 1000 < max s.now t - f := by
          rw [← hx] at hl
          exact hl
        rw [confirmSwitch_late (s := s.goTo t) (x := selectAnswered (.slot o.slot) x) h hr hw hlate] at e
        obtain ⟨hframe, hset, hfirst⟩ := recompute_faulted (i := i) (s := s.goTo t) h .late
          (faulted { kind := .late, cue := w.cue, patch := some w.patch, time := (s.goTo t).now }
            (switchEnded w .done (w.fireTime.map ((s.goTo t).now - ·)) (selectAnswered (.slot o.slot) x)))
        refine ⟨_, e, hframe, fun hn => absurd hn hno, fun v hv _ => ?_⟩
        obtain rfl := own v hv
        refine ⟨hset.trans (by rw [← hx]; rfl), fun g _ _ => ?_, fun hin => absurd (hin f hf) (Nat.not_le_of_lt hl')⟩
        obtain ⟨g, hg⟩ := faultAfter_some i .late v.cue (some v.patch) s (max s.now t)
        rw [hg]
        refine hfirst g ((faulted_first (s := s) .late v.cue (some v.patch) (max s.now t) ?_).trans hg)
        rw [← hx]
        rfl
      · rw [confirmSwitch_inTime (s := s.goTo t) (x := selectAnswered (.slot o.slot) x) h hr hw hlate] at e
        refine ⟨_, e, (recompute_frame (s := s.goTo t) h true _), fun hn => absurd hn hno, fun v hv _ => ?_⟩
        obtain rfl := own v hv
        refine ⟨(recompute_settled (s := s.goTo t) h _).trans (by rw [← hx]; rfl), fun f hf hl => ?_, fun _ =>
          ⟨_, onlyStation_as _, recompute_as_keeping (s := s.goTo t) h _, (station_as (s := s.goTo t) h _).trans (by rw [← hx]; rfl)⟩⟩
        refine absurd (switchLate_iff.mpr ⟨f, hf, ?_⟩) hlate
        rw [← hx]
        exact hl
    · have hno : ∀ w, x.switch = some w → w.stage ≠ .selecting o.slot := fun w h₁ h₂ => hw ⟨w, h₁, h₂⟩
      rw [takeSelected_unserved (s := s.goTo t) h hno] at e
      refine ⟨_, e, recompute_frame (s := s.goTo t) h true _, fun _ => ⟨(recompute_settled (s := s.goTo t) h _).trans (by rw [← hx]; rfl), _,
        onlyStation_as _, recompute_as_keeping (s := s.goTo t) h _, (station_as (s := s.goTo t) h _).trans (by rw [← hx]; rfl)⟩,
        fun w hv hst => absurd hst (hno w (hswitch.trans hv))⟩
  · have e := exec_selectTimeout hp ho hd
    rw [← stationAs_self i (s.goTo d)] at e
    obtain ⟨hnone, hslot, hunknown⟩ := timedOut_cases o.slot (s.station i).selected
    have selections : ∀ {u : State}, (u.station i).selected = (s.station i).selected.timedOut o.slot →
        ((s.station i).selected = .none → (u.station i).selected = .unknown [o.slot])
        ∧ (∀ j, (s.station i).selected = .slot j →
          (u.station i).selected = if j = o.slot then .slot j else .unknown [j, o.slot])
        ∧ ∀ l, (s.station i).selected = .unknown l →
          (u.station i).selected = .unknown (if l.contains o.slot then l else l ++ [o.slot]) := fun hu =>
      ⟨fun hn => hu.trans (hnone hn), fun j hj => hu.trans (hslot j hj), fun l hl => hu.trans (hunknown l hl)⟩
    by_cases hw : ∃ w, (s.station i).switch = some w ∧ w.stage = .selecting o.slot
    · obtain ⟨w, hw, hst⟩ := hw
      rw [failSelect_serves (s := s.goTo d) (x := (s.goTo d).station i) h hr hw hst] at e
      obtain ⟨frame, hsettled, hfirst⟩ := recompute_faulted (i := i) (s := s.goTo d) h .selectTimeout
        (faulted { kind := .selectTimeout, cue := w.cue, patch := some w.patch, time := (s.goTo d).now }
          (switchEnded w .missed none (selectAnswered (((s.goTo d).station i).selected.timedOut o.slot) ((s.goTo d).station i))))
      have hnow := onlyStationAndFault_now frame
      obtain ⟨hslots, houtLoad, -, -, hswitch, hlast, hselected, houtSelect, -⟩ := settled_parts hsettled
      obtain ⟨hselPlace, hloadPlace⟩ := settled_places hsettled
      obtain ⟨h₁, h₂, h₃⟩ := selections hselected
      refine ⟨_, e, frame, houtSelect, hslots, houtLoad, hloadPlace, hselPlace, h₁, h₂, h₃, fun v hv _ => ?_, fun hno =>
        absurd hst (hno w hw)⟩
      cases hw.symm.trans hv
      refine ⟨hswitch, hlast, ?_⟩
      rw [hnow]
      obtain ⟨f, hf⟩ := faultAfter_some i .selectTimeout w.cue (some w.patch) s (s.goTo d).now
      exact (hfirst f ((faulted_first (s := s) _ _ _ _ rfl).trans hf)).trans hf.symm
    · have hno : ∀ w, (s.station i).switch = some w → w.stage ≠ .selecting o.slot := fun w h₁ h₂ => hw ⟨w, h₁, h₂⟩
      rw [failSelect_unserved (s := s.goTo d) (x := (s.goTo d).station i) h hno] at e
      have hsettled := recompute_settled (i := i) (s := s.goTo d) h
        (selectAnswered (((s.goTo d).station i).selected.timedOut o.slot) ((s.goTo d).station i))
      obtain ⟨hslots, houtLoad, -, -, hswitch, hlast, hselected, houtSelect, -⟩ := settled_parts hsettled
      obtain ⟨hselPlace, hloadPlace⟩ := settled_places hsettled
      obtain ⟨h₁, h₂, h₃⟩ := selections hselected
      exact ⟨_, e, recompute_frame (s := s.goTo d) h true _, houtSelect, hslots, houtLoad, hloadPlace, hselPlace, h₁, h₂, h₃,
        fun w hv hst => absurd hst (hno w hv), fun _ => ⟨hswitch, hlast⟩⟩

end Sys2Proof.Proofs

namespace Sys2Proof.Proofs

open Sys2Proof Sys2Proof.Machine

/-! ## The account beside the stations' records -/

section

variable (i j : Fin 6) (x : Station) (s : State)

theorem evaluateReady_as : evaluateReady (stationAs j x s) = stationAs j x (evaluateReady s) := by
  unfold evaluateReady
  rw [show (stationAs j x s).stop = s.stop from rfl]
  split
  · dsimp only
    split <;> rfl
  · dsimp only
    split <;> rfl
  · rfl

theorem setAccount_as (f : Account → Account) : setAccount i f (stationAs j x s) = stationAs j x (setAccount i f s) := by
  unfold setAccount
  rw [show (stationAs j x s).stop = s.stop from rfl]
  split
  · exact evaluateReady_as j x { s with stop := { s.stop with account := s.stop.account.modify i f } }
  · rfl

theorem reportEnd_as (mark : Bool) (o : SwitchEnd) : reportEnd i mark o (stationAs j x s) = stationAs j x (reportEnd i mark o s) := by
  unfold reportEnd
  split
  · exact setAccount_as i j x s _
  · exact setAccount_as i j x s _
  · rfl

/-- A switch that is not reported leaves the account. -/
theorem reportEnd_unmarked {i : Fin 6} {mark : Bool} {s : State} (o : SwitchEnd) (h : mark = true → s.stop.st.rebuilds = false) :
    reportEnd i mark o s = s := by
  cases mark with
  | false => rfl
  | true => exact reportEnd_outside (h rfl)

theorem reportEnd_station (i j : Fin 6) (mark : Bool) (o : SwitchEnd) (s : State) :
    (reportEnd i mark o s).station j = s.station j := station_congr (stations_reportEnd i mark o s) j

theorem reportEnd_now (i : Fin 6) (mark : Bool) (o : SwitchEnd) (s : State) : (reportEnd i mark o s).now = s.now := by
  obtain ⟨-, -, -, -, -, hnow, -⟩ := (stationsAndAccount_reportEnd i mark o s).rest
  exact hnow

end

/-! ## A switch that starts, as a write of the station's record -/

/-- A station that has been told how its last switch ended. -/
def noted (l : LastSwitch) (st : Station) : Station := { st with lastSwitch := some l }

/-- A station whose switch to `p` has begun WARM, WAIT or COLD (R123). -/
def begun (cue : Option CueNo) (p : Nat) (fireTime : Option Nat) (mark : Bool) (st : Station) : Station :=
  let w : Switch := { patch := p, cue := cue, fireTime := fireTime, kind := .cold, stage := .coldHeld, rebuild := mark }
  match st.findSlot fun sl => sl.holds p && sl.st == .resident, st.findSlot fun sl => sl.holds p with
  | some k, _ => st.queueSelect k { w with kind := .warm }
  | none, some k => { st with switch := some { w with kind := .wait, stage := .loading k } }
  | none, none => { st with loadPlace := some p, preload := false, switch := some w }

section

variable {i : Fin 6} {cue : Option CueNo} {p : Nat} {fireTime : Option Nat} {mark : Bool} {s : State}

theorem beginSwitch_eq : beginSwitch i cue p fireTime mark s = stationAs i (begun cue p fireTime mark (s.station i)) s :=
  setStation_as i (begun cue p fireTime mark) s

theorem quickEnd_eq (l : LastSwitch) :
    quickEnd i l mark s = stationAs i (noted l (s.station i)) (reportEnd i mark l.outcome s) := by
  rw [quickEnd, setStation_as, reportEnd_as]
  rfl

theorem classifySwitch_none : classifySwitch i cue none fireTime mark s = stationAs i
    (noted { cue := cue, patch := none, kind := .none, outcome := .done, lateness := none } (s.station i))
    (reportEnd i mark .done s) := quickEnd_eq _

theorem classifySwitch_unmapped (h : s.stations.length = 6) (hm : findMap s.map (i.val + 1) p = none) :
    classifySwitch i cue (some p) fireTime mark s = raise (.stationFault i .unmapped) (stationAs i
      (faulted { kind := .unmapped, cue := cue, patch := some p, time := s.now }
        (noted { cue := cue, patch := some p, kind := .unmapped, outcome := .missed, lateness := none } (s.station i)))
      (reportEnd i mark .missed s)) := by
  have hlen : (reportEnd i mark .missed s).stations.length = 6 := by rw [stations_reportEnd, h]
  unfold classifySwitch
  simp only [hm, Option.isNone_none, if_true]
  rw [quickEnd_eq, stationFault_as hlen, reportEnd_now]

theorem classifySwitch_hot (hm : (findMap s.map (i.val + 1) p).isSome = true) (hh : (s.station i).isHot p = true) :
    classifySwitch i cue (some p) fireTime mark s = stationAs i
      (noted { cue := cue, patch := some p, kind := .hot, outcome := .done, lateness := fireTime.map fun _ => 0 }
        (s.station i)) (reportEnd i mark .done s) := by
  unfold classifySwitch
  simp only
  rw [if_neg (by rw [Option.isNone_iff_eq_none]; exact Option.isSome_iff_ne_none.mp hm), if_pos hh, quickEnd_eq]

theorem classifySwitch_begins (hm : (findMap s.map (i.val + 1) p).isSome = true) (hh : (s.station i).isHot p = false) :
    classifySwitch i cue (some p) fireTime mark s = stationAs i (begun cue p fireTime mark (s.station i)) s := by
  unfold classifySwitch
  simp only
  rw [if_neg (by rw [Option.isNone_iff_eq_none]; exact Option.isSome_iff_ne_none.mp hm),
    if_neg (by rw [hh]; exact Bool.false_ne_true), beginSwitch_eq]

theorem startSwitch_idle (h : (s.station i).serves = false) (target : Option Nat) :
    startSwitch i cue target fireTime mark s = s := by
  rw [startSwitch, h]
  exact if_neg Bool.false_ne_true

theorem startSwitch_free (h : (s.station i).serves = true) (hw : (s.station i).switch = none) (target : Option Nat) :
    startSwitch i cue target fireTime mark s = classifySwitch i cue target fireTime mark s := by
  rw [startSwitch, if_pos h, hw]

theorem startSwitch_busy {w : Switch} (h : (s.station i).serves = true) (hw : (s.station i).switch = some w)
    (target : Option Nat) : startSwitch i cue target fireTime mark s
      = if target = some w.patch then takeOver i cue fireTime mark w s
        else classifySwitch i cue target fireTime mark (supersede i s) := by
  rw [startSwitch, if_pos h, hw]

/-- A superseded switch is not reported. -/
theorem endSwitch_superseded {w : Switch} (hw : (s.station i).switch = some w) :
    endSwitch i .superseded none s = stationAs i (switchEnded w .superseded none (s.station i)) s := by
  have unreported : ∀ b u, reportEnd i b .superseded u = u := by
    intro b u
    cases b <;> rfl
  unfold endSwitch
  simp only [hw, unreported]
  exact setStation_as i _ s

theorem takeOver_eq {w : Switch} (h : s.stations.length = 6) (hw : (s.station i).switch = some w) :
    takeOver i cue fireTime mark w s = stationAs i { switchEnded w .superseded none (s.station i) with
      switch := some { w with cue := cue, fireTime := fireTime, rebuild := mark } } s := by
  rw [takeOver, endSwitch_superseded hw]
  exact setStation_stationAs h _ _

theorem supersede_eq {w : Switch} (h : s.stations.length = 6) (hw : (s.station i).switch = some w) :
    supersede i s = stationAs i { switchEnded w .superseded none (s.station i) with
      selectPlace := none, loadPlace := none } s := by
  rw [supersede, endSwitch_superseded hw]
  exact setStation_stationAs h _ _

end

/-! ## The record of a switch that has begun (R123) -/

section

variable {cue : Option CueNo} {p : Nat} {fireTime : Option Nat} {mark : Bool} {st : Station} {k : Nat}

theorem begun_warm (h : st.findSlot (fun sl => sl.holds p && sl.st == .resident) = some k) :
    begun cue p fireTime mark st = st.queueSelect k
      { patch := p, cue := cue, fireTime := fireTime, kind := .warm, stage := .coldHeld, rebuild := mark } := by
  unfold begun
  rw [h]

theorem begun_wait (h : st.findSlot (fun sl => sl.holds p && sl.st == .resident) = none)
    (hk : st.findSlot (fun sl => sl.holds p) = some k) : begun cue p fireTime mark st = { st with
      switch := some { patch := p, cue := cue, fireTime := fireTime, kind := .wait, stage := .loading k, rebuild := mark } } := by
  unfold begun
  rw [h, hk]

theorem begun_cold (h : ∀ sl ∈ st.slots, sl.holds p = false) : begun cue p fireTime mark st = { st with
    loadPlace := some p, preload := false
    switch := some { patch := p, cue := cue, fireTime := fireTime, kind := .cold, stage := .coldHeld, rebuild := mark } } := by
  have hnone : st.findSlot (fun sl => sl.holds p) = none := findSlot_none.mpr h
  have hresident : st.findSlot (fun sl => sl.holds p && sl.st == .resident) = none :=
    findSlot_none.mpr fun sl hsl => by rw [h sl hsl, Bool.false_and]
  unfold begun
  rw [hresident, hnone]

theorem isHot_iff : st.isHot p = true ↔ ∃ k, st.selected = .slot k ∧ (st.slot k).holds p = true ∧ st.outSelect = none := by
  unfold Station.isHot
  constructor
  · intro h
    split at h
    · next k hk =>
      rw [Bool.and_eq_true, Option.isNone_iff_eq_none] at h
      exact ⟨k, hk, h⟩
    · exact absurd h Bool.false_ne_true
  · rintro ⟨k, hk, hh, ho⟩
    simp [hk, hh, ho]

end

/-! ## A rebuild and the same outside one -/

/-- Readiness evaluated in a rebuild (R167). -/
theorem evaluateReady_ready {r : ResumePoint} {s : State} (hr : s.stop.st.rebuilds = true) (hres : s.stop.resume = some r)
    (hv : s.video.content.stopState = s.stop.st) :
    AccountTaken r s.stop.account (decide (s.stop.st = .rebuilding)) s (evaluateReady s) := by
  have kept (hst : s.stop.st = if s.stop.account.any Account.blocks then .rebuilding else .ready)
      (hno : ¬(s.stop.st = .rebuilding ∧ s.stop.st = .ready)) :
      AccountTaken r s.stop.account (decide (s.stop.st = .rebuilding)) s s := by
    refine ⟨?_, ?_, (if_neg (by rwa [decide_eq_true_eq])).symm⟩
    · rw [← hst]
    · rw [← hv]
  cases hst : s.stop.st with
  | rebuilding =>
    by_cases hb : s.stop.account.any Account.blocks = true
    · have e : evaluateReady s = s := by
        unfold evaluateReady
        simp only [hst, hres, hb, if_true]
      have stays := kept (by rw [hst, if_pos hb]) (by rw [hst]; exact fun h => nomatch h.2)
      rw [hst] at stays
      rw [e]
      exact stays
    · have e : evaluateReady s = raise (.resumeReady r.cue r.bar) (setStop .ready s) := by
        unfold evaluateReady
        simp only [hst, hres]
        rw [if_neg hb]
      rw [e]
      refine ⟨?_, rfl, ?_⟩
      · rw [if_neg hb]
        rfl
      · rw [if_pos ⟨rfl, rfl⟩]
        exact raise_same (.resumeReady r.cue r.bar) (setStop .ready s)
  | ready =>
    by_cases hb : s.stop.account.any Account.blocks = true
    · have e : evaluateReady s = setStop .rebuilding s := by
        unfold evaluateReady
        simp only [hst, hb, if_true]
      rw [e]
      refine ⟨?_, rfl, (if_neg fun h => nomatch h.2).symm⟩
      rw [if_pos hb]
      rfl
    · have e : evaluateReady s = s := by
        unfold evaluateReady
        simp only [hst]
        rw [if_neg hb]
      have stays := kept (by rw [hst, if_neg hb]) (by rw [hst]; exact fun h => nomatch h.1)
      rw [hst] at stays
      rw [e]
      exact stays
  | run => rw [hst] at hr; exact absurd hr Bool.false_ne_true
  | holding h => rw [hst] at hr; exact absurd hr Bool.false_ne_true
  | held => rw [hst] at hr; exact absurd hr Bool.false_ne_true
  | countIn c => rw [hst] at hr; exact absurd hr Bool.false_ne_true
  | stopped => rw [hst] at hr; exact absurd hr Bool.false_ne_true

/-- An entry written in a rebuild, and readiness evaluated (R167). -/
theorem setAccount_taken {r : ResumePoint} {s : State} (i : Fin 6) (f : Account → Account) (hr : s.stop.st.rebuilds = true)
    (hres : s.stop.resume = some r) (hv : s.video.content.stopState = s.stop.st) :
    AccountTaken r (s.stop.account.modify i.val f) (decide (s.stop.st = .rebuilding)) s (setAccount i f s) := by
  have ready := evaluateReady_ready (s := { s with stop := { s.stop with account := s.stop.account.modify i f } }) hr hres hv
  rw [setAccount, if_pos hr]
  exact ready

theorem alike_as {u v : State} (h : AlikeBesideRebuild u v) (i : Fin 6) (x : Station) :
    AlikeBesideRebuild (stationAs i x u) (stationAs i x v) := by
  obtain ⟨hrest, hattention⟩ := h
  exact ⟨congrArg (stationAs i x) hrest, hattention⟩

theorem alike_now {u v : State} (h : AlikeBesideRebuild u v) : u.now = v.now := by
  have := congrArg (fun m : State => m.now) h.1
  exact this

theorem alike_raise {u v : State} (h : AlikeBesideRebuild u v) (i : Fin 6) (kind : FaultKind) :
    AlikeBesideRebuild (raise (.stationFault i kind) u) (raise (.stationFault i kind) v) := by
  have hnow := alike_now h
  obtain ⟨hrest, hattention⟩ := h
  refine ⟨?_, fun k hk => ?_⟩
  · have := congrArg (fun m : State => { m with attention := (raise (.stationFault i kind) v).attention }) hrest
    exact this
  · by_cases h1 : k = 1
    · subst h1
      have hsame : ∀ m : State, (raise (.stationFault i kind) m).attention[1]?
          = m.attention[1]?.map (Condition.raised (.stationFault i kind) m.now) := raise_same (.stationFault i kind)
      rw [hsame, hsame, hattention 1 hk, hnow]
    · rw [raise_other _ _ h1, raise_other _ _ h1]
      exact hattention k hk

theorem alike_setAccount {u v : State} (h : AlikeBesideRebuild u v) (i : Fin 6) (f : Account → Account) :
    AlikeBesideRebuild (setAccount i f u) v := by
  obtain ⟨hrest, hstop, hvideo, hattention⟩ := setAccount_frame i f u
  obtain ⟨hsame, hconditions⟩ := h
  have hS := congrArg (fun c : StopController => { c with st := v.stop.st, account := v.stop.account }) hstop
  have hV := congrArg (fun x : Video => { x with content := { x.content with stopState := v.video.content.stopState } }) hvideo
  refine ⟨((congrArg (fun m : State => { m with
      stop := { (setAccount i f u).stop with st := v.stop.st, account := v.stop.account }
      video := { (setAccount i f u).video with
        content := { (setAccount i f u).video.content with stopState := v.video.content.stopState } }
      attention := v.attention })
    hrest).trans (congrArg₂ (fun S V => ({ u with stop := S, video := V, attention := v.attention } : State)) hS hV)).trans hsame,
    fun k hk => (hattention k hk).trans (hconditions k hk)⟩

theorem alike_report {u v : State} (h : AlikeBesideRebuild u v) (hv : v.stop.st.rebuilds = false) (i : Fin 6) (mark : Bool)
    (o : SwitchEnd) : AlikeBesideRebuild (reportEnd i mark o u) (reportEnd i mark o v) := by
  rw [reportEnd_outside hv]
  unfold reportEnd
  split
  · exact alike_setAccount h i _
  · exact alike_setAccount h i _
  · exact h

/-- A rebuild and RUN in its place. -/
theorem alike_run (s : State) : AlikeBesideRebuild s (withStop .run s) := ⟨rfl, fun _ _ => rfl⟩

/-- What two states that differ by a rebuild alone share. -/
theorem alike_parts {u v : State} (h : AlikeBesideRebuild u v) : u.stations = v.stations ∧ u.map = v.map ∧ u.now = v.now
    ∧ u.seq = v.seq ∧ u.store = v.store ∧ u.stop.words = v.stop.words := by
  have p : ∀ {α : Type} (f : State → α), _ := fun f => congrArg f h.1
  exact ⟨p (·.stations), p (·.map), p (·.now), p (·.seq), p (·.store), p (·.stop.words)⟩

theorem alike_classify {u v : State} (h : AlikeBesideRebuild u v) (hv : v.stop.st.rebuilds = false)
    (hlen : v.stations.length = 6) (i : Fin 6) (cue : Option CueNo) (target fireTime : Option Nat) (mark : Bool) :
    AlikeBesideRebuild (classifySwitch i cue target fireTime mark u) (classifySwitch i cue target fireTime mark v) := by
  obtain ⟨hstations, hmap, hnow, -, -, -⟩ := alike_parts h
  have hstation := station_congr hstations i
  cases target with
  | none =>
    rw [classifySwitch_none, classifySwitch_none, hstation]
    exact alike_as (alike_report h hv i mark .done) i _
  | some p =>
    by_cases hm : findMap u.map (i.val + 1) p = none
    · rw [classifySwitch_unmapped (by rw [hstations, hlen]) hm, classifySwitch_unmapped hlen (by rw [← hmap, hm]), hstation, hnow]
      exact alike_raise (alike_as (alike_report h hv i mark .missed) i _) i _
    · have hsome := Option.isSome_iff_ne_none.mpr hm
      by_cases hh : (u.station i).isHot p = true
      · rw [classifySwitch_hot hsome hh, classifySwitch_hot (by rw [← hmap, hsome]) (by rw [← hstation, hh]), hstation]
        exact alike_as (alike_report h hv i mark .done) i _
      · rw [Bool.not_eq_true] at hh
        rw [classifySwitch_begins hsome hh, classifySwitch_begins (by rw [← hmap, hsome]) (by rw [← hstation, hh]), hstation]
        exact alike_as h i _

/-- A report of a switch with the rebuild mark, in a rebuild (R167). -/
theorem reportSwitch_taken {r : ResumePoint} {s : State} (i : Fin 6) (b : Bool) (hr : s.stop.st.rebuilds = true)
    (hres : s.stop.resume = some r) (hv : s.video.content.stopState = s.stop.st) :
    AccountTaken r (accountReported i b s) (decide (s.stop.st = .rebuilding)) s (reportSwitch i b s) := by
  have hf : (fun a : Account => match a with
      | .waiting => if b then .satisfied else .failed
      | a => a) = fun a => if a = .waiting then (if b then .satisfied else .failed) else a := by
    funext a
    cases a <;> rfl
  have e : reportSwitch i b s = setAccount i (fun a => if a = .waiting then (if b then .satisfied else .failed) else a) s :=
    congrArg (fun f => setAccount i f s) hf
  rw [e]
  exact setAccount_taken i _ hr hres hv

theorem accountTaken_as {r : ResumePoint} {a : List Account} {leaves : Bool} {s u : State} (h : AccountTaken r a leaves s u)
    (i : Fin 6) (x : Station) : AccountTaken r a leaves s (stationAs i x u) := h

theorem accountTaken_raise {r : ResumePoint} {a : List Account} {leaves : Bool} {s u : State} (h : AccountTaken r a leaves s u)
    (i : Fin 6) (kind : FaultKind) : AccountTaken r a leaves s (raise (.stationFault i kind) u) := by
  obtain ⟨hstop, hvideo, hready⟩ := h
  refine ⟨hstop, hvideo, ?_⟩
  rw [raise_other _ _ (by decide : 2 ≠ 1)]
  exact hready

theorem station_raise (r : CondRecord) (s : State) (i : Fin 6) : (raise r s).station i = s.station i := rfl

/-- Settles O49: each outcome of the classification as a write of the station's record, beside its report. -/
theorem switchesAreClassified : Obligations.SwitchesAreClassified := by
  unfold Obligations.SwitchesAreClassified
  intro s i cue fireTime mark h
  refine ⟨fun hs target => startSwitch_idle hs target, fun hs hw hm => ⟨?_, fun p => ?_⟩, fun w hs hw ended hended => ⟨?_, ?_⟩,
    fun r leaves target hs hw hm hr hres _ hcopies hl => ?_⟩
  · rw [startSwitch_free hs hw, classifySwitch_none, reportEnd_unmarked _ hm]
    exact ⟨_, rfl, onlyStation_as _, station_as h _⟩
  · rw [startSwitch_free hs hw]
    refine ⟨_, rfl, fun hp => ?_, fun hp => ⟨?_, ?_, ?_⟩⟩
    · rw [classifySwitch_unmapped h hp, reportEnd_unmarked _ hm]
      refine ⟨(onlyStation_as _).andFault.trans (onlyStationAndFault_raise i _ _), ?_, ?_, ?_⟩
      all_goals rw [station_raise, station_as h]
      · exact hw
      · rfl
      · exact faulted_first _ _ _ _ rfl
    · by_cases hh : (s.station i).isHot p = true
      · rw [classifySwitch_hot hp hh, reportEnd_unmarked _ hm]
        exact onlyStation_as _
      · rw [classifySwitch_begins hp (Bool.not_eq_true _ ▸ hh)]
        exact onlyStation_as _
    · intro k hk hholds hfree
      rw [classifySwitch_hot hp (isHot_iff.mpr ⟨k, hk, hholds, hfree⟩), reportEnd_unmarked _ hm]
      exact station_as h _
    · intro hh w hw
      rw [classifySwitch_begins hp hh, station_as h, hw]
      refine ⟨fun k hk => ⟨fun ho => ?_, fun ho => ?_⟩, fun k hnone hk => begun_wait hnone hk, fun hnone => begun_cold hnone⟩
      · rw [begun_warm hk, queueSelect_held ho]
      · rw [begun_warm hk, queueSelect_waits ho]
  · rw [startSwitch_busy hs hw, if_pos rfl, takeOver_eq h hw, hended]
    exact ⟨_, rfl, onlyStation_as _, station_as h _⟩
  · intro target hne
    refine ⟨supersede i s, ?_, ?_, ?_⟩
    · rw [supersede_eq h hw]
      exact onlyStation_as _
    · rw [supersede_eq h hw, station_as h, hended]
      rfl
    · have hsup := station_as (i := i) h { switchEnded w .superseded none (s.station i) with selectPlace := none, loadPlace := none }
      rw [← supersede_eq h hw] at hsup
      rw [startSwitch_busy hs hw, if_neg hne, startSwitch_free (by rw [hsup]; exact hs) (by rw [hsup]; rfl)]
  · subst hm hl
    obtain ⟨-, -, hoverlay, -⟩ := hcopies
    rw [startSwitch_free hs hw, startSwitch_free (s := withStop .run s) hs hw]
    have alike := alike_classify (alike_run s) rfl h i cue target fireTime true
    refine ⟨_, _, rfl, rfl, alike, fun ht => ?_, fun p ht => ⟨fun hp => ?_, fun hp => ⟨fun hh => ?_, fun hh => ?_⟩⟩⟩
    all_goals subst ht
    · rw [classifySwitch_none]
      exact accountTaken_as (reportSwitch_taken i true hr hres hoverlay) i _
    · rw [classifySwitch_unmapped h hp]
      exact accountTaken_raise (accountTaken_as (reportSwitch_taken i false hr hres hoverlay) i _) i _
    · rw [classifySwitch_hot hp hh]
      exact accountTaken_as (reportSwitch_taken i true hr hres hoverlay) i _
    · rw [classifySwitch_begins hp hh]
      exact ⟨rfl, rfl, rfl⟩

end Sys2Proof.Proofs

namespace Sys2Proof.Proofs

open Sys2Proof Sys2Proof.Machine

/-! ## The words of a station -/

theorem words_setWords {s : State} (h : s.stop.words.length = 6) (i : Fin 6) (f : StationWords → StationWords) :
    (setWords i f s).words i = f (s.words i) := by
  have hi : i.val < s.stop.words.length := by omega
  simp [State.words, setWords, List.getD_eq_getElem?_getD, List.getElem?_eq_getElem hi]

/-! ## The end of a switch, reported or not -/

/-- The station's switch carries the rebuild mark. -/
def markOf (st : Station) : Bool := (st.switch.map (·.rebuild)).getD false

/-- A station whose switch, if it has one, has ended. -/
def switchLeft (o : SwitchEnd) (st : Station) : Station :=
  match st.switch with
  | some w => switchEnded w o none st
  | none => st

section

variable {i : Fin 6} {s : State} {x : Station}

theorem switchLeft_some {o : SwitchEnd} {w : Switch} (h : x.switch = some w) : switchLeft o x = switchEnded w o none x := by
  rw [switchLeft, h]

theorem switchLeft_none {o : SwitchEnd} (h : x.switch = none) : switchLeft o x = x := by
  rw [switchLeft, h]

/-- What is left of a switch that has ended with this station. -/
theorem switchLeft_eq (o : SwitchEnd) (x : Station) : switchLeft o x = { x with
    switch := none
    lastSwitch := match x.switch with
      | some w => some { cue := w.cue, patch := some w.patch, kind := w.kind, outcome := o, lateness := none }
      | none => x.lastSwitch } := by
  cases hw : x.switch with
  | none =>
    rw [switchLeft_none hw]
    cases x
    cases hw
    rfl
  | some w => exact switchLeft_some hw

theorem endSwitch_left (h : s.stations.length = 6) (o : SwitchEnd) :
    endSwitch i o none (stationAs i x s) = stationAs i (switchLeft o x) (reportEnd i (markOf x) o s) := by
  have hx := station_as (i := i) h x
  unfold endSwitch markOf
  generalize hv : stationAs i x s = v at hx
  rw [hx]
  cases hw : x.switch with
  | none =>
    rw [switchLeft_none hw, ← hv]
    rfl
  | some w =>
    rw [switchLeft_some hw, ← reportEnd_as]
    simp only [Option.map_some, Option.getD_some]
    rw [← hv, setStation_stationAs h]
    rfl

theorem missSwitch_left {w : Switch} (h : s.stations.length = 6) (hw : x.switch = some w) (kind : FaultKind) :
    missSwitch i kind (stationAs i x s) = raise (.stationFault i kind) (stationAs i
      (faulted { kind := kind, cue := w.cue, patch := some w.patch, time := s.now } (switchEnded w .missed none x))
      (reportEnd i w.rebuild .missed s)) := by
  unfold missSwitch
  simp only [station_as h, hw]
  rw [endSwitch_left h, switchLeft_some hw, stationFault_as (by rw [stations_reportEnd, h]), reportEnd_now, markOf, hw]
  rfl

theorem missSwitch_none (h : s.stations.length = 6) (hw : x.switch = none) (kind : FaultKind) :
    missSwitch i kind (stationAs i x s) = stationAs i x s := by
  unfold missSwitch
  rw [station_as h, hw]

end

/-! ## PRESENT (R109, R110) -/

/-- A station that has gone OFFLINE. -/
def departed (st : Station) : Station :=
  switchLeft .missed { st.emptied with present := false, link := .offline, silence := false, pressure := false }

/-- A station that goes OFFLINE while it is not excluded. -/
def departedFault (now : Nat) (st : Station) : StationFault :=
  { kind := .offline, cue := st.switch.bind (·.cue), patch := st.switch.map (·.patch), time := now }

theorem departed_eq (st : Station) : departed st = { st.emptied with
    present := false, link := .offline, silence := false, pressure := false, switch := none
    lastSwitch := match st.switch with
      | some w => some { cue := w.cue, patch := some w.patch, kind := w.kind, outcome := .missed, lateness := none }
      | none => st.lastSwitch } := switchLeft_eq _ _

/-- What a station that has gone OFFLINE shows, with or without its fault. -/
theorem departed_shows {st y : Station} (hy : y = departed st ∨ ∃ f, y = faulted f (departed st)) :
    y.link = .offline ∧ y.present = false ∧ y.slots = st.slots.map (fun _ => Slot.blank) ∧ y.selected = .none
      ∧ y.outLoad = none ∧ y.outSelect = none ∧ y.selectPlace = none ∧ y.loadPlace = none ∧ y.silence = false
      ∧ y.switch = none ∧ y.pressure = false ∧ y.hostPins = st.hostPins
      ∧ (∀ w, st.switch = some w → y.lastSwitch = some
          { cue := w.cue, patch := some w.patch, kind := w.kind, outcome := .missed, lateness := none })
      ∧ (st.switch = none → y.lastSwitch = st.lastSwitch) := by
  have last : ∀ o : Option LastSwitch, o = (match st.switch with
      | some w => some { cue := w.cue, patch := some w.patch, kind := w.kind, outcome := .missed, lateness := none }
      | none => st.lastSwitch) →
      (∀ w, st.switch = some w → o = some
        { cue := w.cue, patch := some w.patch, kind := w.kind, outcome := .missed, lateness := none })
      ∧ (st.switch = none → o = st.lastSwitch) := by
    intro o ho
    exact ⟨fun w hw => by rw [ho, hw], fun hw => by rw [ho, hw]⟩
  rw [departed_eq] at hy
  rcases hy with rfl | ⟨f, rfl⟩
  · exact ⟨rfl, rfl, rfl, rfl, rfl, rfl, rfl, rfl, rfl, rfl, rfl, rfl, last _ rfl⟩
  · exact ⟨rfl, rfl, rfl, rfl, rfl, rfl, rfl, rfl, rfl, rfl, rfl, rfl, last _ rfl⟩

section

variable {i : Fin 6} {s : State}

theorem stationOffline_excluded (h : s.stations.length = 6) (hx : (s.station i).excluded = true) :
    stationOffline i s = stationAs i (departed (s.station i)) (reportEnd i (markOf (s.station i)) .missed s) := by
  unfold stationOffline
  simp only [hx, if_true]
  rw [setStation_as, endSwitch_left h]
  rfl

theorem stationOffline_counted (h : s.stations.length = 6) (hx : (s.station i).excluded = false) :
    stationOffline i s = raise (.stationFault i .offline)
      (stationAs i (faulted (departedFault s.now (s.station i)) (departed (s.station i)))
        (reportEnd i (markOf (s.station i)) .missed s)) := by
  unfold stationOffline
  simp only [hx]
  rw [if_neg Bool.false_ne_true, setStation_as, endSwitch_left h, stationFault_as (by rw [stations_reportEnd, h]), reportEnd_now]
  rfl

theorem stationOffline_stop (h : s.stations.length = 6) (hr : s.stop.st.rebuilds = false) :
    (stationOffline i s).stop = s.stop := by
  cases hx : (s.station i).excluded with
  | true => rw [stationOffline_excluded h hx, reportEnd_outside hr]; rfl
  | false => rw [stationOffline_counted h hx, reportEnd_outside hr]; rfl

theorem takeDeparture_outside (h : s.stations.length = 6) (hr : s.stop.st.rebuilds = false) :
    takeDeparture i s = setWords i (fun w => { w with online := false }) (stationOffline i s) := by
  rw [takeDeparture, wordOffline, setAccount_outside]
  exact (congrArg (·.st.rebuilds) (stationOffline_stop h hr)).trans hr

end

theorem exec_presentHeld {s : State} {t held : Nat} (f : State → State) (hp : s.powered = true) (hh : 8000 ≤ held)
    (ht : 8000 ≤ max s.now t) : event t (presentChange held f) s = .next (f (s.goTo t)) := by
  have hheld : (s.goTo t).hasHeld Config.presentDebounce held = true := hasHeld_goTo.mpr ⟨hh, ht⟩
  rw [event_on t hp, presentChange, if_pos hheld]

theorem exec_presentDeasserted {s : State} {t held : Nat} {i : Fin 6} (hp : s.powered = true) (hh : 8000 ≤ held)
    (ht : 8000 ≤ max s.now t) (hpres : (s.station i).present = true) :
    exec (.presentDeasserted t i held) s = .next (takeDeparture i (s.goTo t)) :=
  (exec_presentHeld (presentFalls i) hp hh ht).trans (congrArg _ (if_pos hpres))

/-! ## HELLO (R111) -/

/-- A station that has said HELLO with `n` slots at show time `now`, its switch ended (R111). -/
def helloed (n now : Nat) (st : Station) : Station := { st.sized n with
  switch := none
  lastSwitch := match st.switch with
    | some w => some { cue := w.cue, patch := some w.patch, kind := w.kind, outcome := .missed, lateness := none }
    | none => st.lastSwitch
  faults := match st.switch with
    | some w => recordAfter { kind := .missed, cue := w.cue, patch := some w.patch, time := now } st.faults
    | none => st.faults }

/-- The state beside the station's record once its switch has ended at a HELLO. -/
def helloBeside (i : Fin 6) (st : Station) (s : State) : State :=
  match st.switch with
  | some w => raise (.stationFault i .missed) (reportEnd i w.rebuild .missed s)
  | none => s

section

variable {i : Fin 6} {s : State} {x : Station} {n : Nat}

theorem stationOnline_as (h : s.stations.length = 6) (n : Nat) (x : Station) :
    stationOnline i n (stationAs i x s) = stationAs i (helloed n s.now x) (helloBeside i x s) := by
  rw [stationOnline, setStation_stationAs h, helloBeside]
  cases hw : x.switch with
  | some w =>
    rw [missSwitch_left (w := w) h (show (x.sized n).switch = some w from hw)]
    have hrec : faulted { kind := .missed, cue := w.cue, patch := some w.patch, time := s.now }
        (switchEnded w .missed none (x.sized n)) = helloed n s.now x := by
      unfold helloed faulted switchEnded
      rw [hw, FaultRecord.take_eq]
      rfl
    rw [hrec]
    rfl
  | none =>
    rw [missSwitch_none h (show (x.sized n).switch = none from hw)]
    congr 1
    cases x
    cases hw
    rfl

theorem helloBeside_outside (hr : s.stop.st.rebuilds = false) (x : Station) :
    OnlyStationAndFault i s (helloBeside i x s) ∧ (helloBeside i x s).stop = s.stop
      ∧ (helloBeside i x s).stations = s.stations := by
  unfold helloBeside
  split
  · rw [reportEnd_outside hr]
    exact ⟨onlyStationAndFault_raise i _ _, rfl, rfl⟩
  · exact ⟨OnlyStationAndFault.refl i s, rfl, rfl⟩

/-- What a switch that starts on empty slots, and a preload recompute after it, leave of a station's record. -/
def KeptByResync (x y : Station) : Prop := y = { x with
  lastSwitch := y.lastSwitch, faults := y.faults, loadPlace := y.loadPlace, preload := y.preload, switch := y.switch
  failed := y.failed, pressure := y.pressure }

theorem keptByResync_recompute (h : s.stations.length = 6) (keep : Bool) :
    KeptByResync (s.station i) ((recompute keep i s).station i)
      ∧ ((recompute keep i s).station i).switch = (s.station i).switch
      ∧ ((recompute keep i s).station i).loadPlace = (s.station i).loadPlace
      ∧ ((recompute keep i s).station i).lastSwitch = (s.station i).lastSwitch := by
  have r := (recompute_spec keep i h).station
  generalize (recompute keep i s).station i = y at r
  have p : ∀ {α : Type} (f : Station → α), _ := fun f => congrArg f r
  refine ⟨?_, p (·.switch), p (·.loadPlace), p (·.lastSwitch)⟩
  have whole := congrArg (fun st : Station => { st with
    lastSwitch := y.lastSwitch, faults := y.faults, loadPlace := y.loadPlace, preload := y.preload, switch := y.switch
    failed := y.failed, pressure := y.pressure }) r
  exact whole

/-- A switch that starts, outside a rebuild, on a station whose slots hold nothing. -/
theorem classifySwitch_blank (h : s.stations.length = 6) (hr : s.stop.st.rebuilds = false) (mark : Bool)
    (hslots : ∀ sl ∈ (s.station i).slots, ∀ p, sl.holds p = false) (hsel : (s.station i).selected = .none)
    (cue : Option CueNo) (target fireTime : Option Nat) :
    KeptByResync (s.station i) ((classifySwitch i cue target fireTime mark s).station i)
      ∧ OnlyStationAndFault i s (classifySwitch i cue target fireTime mark s)
      ∧ (classifySwitch i cue target fireTime mark s).stations.length = 6
      ∧ ∀ p, target = some p → (findMap s.map (i.val + 1) p).isSome = true →
        ((classifySwitch i cue target fireTime mark s).station i).loadPlace = some p
        ∧ ((classifySwitch i cue target fireTime mark s).station i).switch = some
          { patch := p, cue := cue, fireTime := fireTime, kind := .cold, stage := .coldHeld, rebuild := mark } := by
  cases target with
  | none =>
    rw [classifySwitch_none, reportEnd_outside hr, station_as h]
    exact ⟨rfl, (onlyStation_as _).andFault, (stationAs_length i _ s).trans h, fun p hp => nomatch hp⟩
  | some p =>
    by_cases hm : findMap s.map (i.val + 1) p = none
    · rw [classifySwitch_unmapped h hm, reportEnd_outside hr, station_raise, station_as h]
      refine ⟨rfl, (onlyStation_as _).andFault.trans (onlyStationAndFault_raise i _ _), (stationAs_length i _ s).trans h,
        fun q hq hsome => ?_⟩
      cases hq
      rw [hm] at hsome
      exact absurd hsome Bool.false_ne_true
    · have hnot : (s.station i).isHot p = false := by
        rw [Bool.eq_false_iff, ne_eq, isHot_iff, hsel]
        exact fun ⟨k, hk, _⟩ => nomatch hk
      rw [classifySwitch_begins (Option.isSome_iff_ne_none.mpr hm) hnot, station_as h, begun_cold fun sl hsl => hslots sl hsl p]
      refine ⟨rfl, (onlyStation_as _).andFault, (stationAs_length i _ s).trans h, fun q hq _ => ?_⟩
      cases hq
      exact ⟨rfl, rfl⟩

theorem keptByResync_trans {x y z : Station} (h : KeptByResync x y) (h' : KeptByResync y z) : KeptByResync x z := by
  unfold KeptByResync at h'
  rw [h] at h'
  exact h'

/-- The resync of a station whose slots hold nothing and that has no switch, outside a rebuild (R129). -/
theorem resync_blank (h : s.stations.length = 6) (hr : s.stop.st.rebuilds = false) (hserves : (s.station i).serves = true)
    (hw : (s.station i).switch = none) (hslots : ∀ sl ∈ (s.station i).slots, ∀ p, sl.holds p = false)
    (hsel : (s.station i).selected = .none) :
    KeptByResync (s.station i) ((resync i s).station i) ∧ OnlyStationAndFault i s (resync i s)
      ∧ ∀ m p, s.seq.current = some m → (trackedPatch s.store.cues m i).map (·.1) = some p →
        (findMap s.map (i.val + 1) p).isSome = true →
        ((resync i s).station i).loadPlace = some p ∧ ((resync i s).station i).switch = some
          { patch := p, cue := some m, fireTime := none, kind := .cold, stage := .coldHeld, rebuild := false } := by
  rw [resync, hr, startSwitch_free hserves hw]
  obtain ⟨hkept, hframe, hlen, hcold⟩ := classifySwitch_blank h hr false hslots hsel s.seq.current
    (s.seq.current.bind fun n => (trackedPatch s.store.cues n i).map (·.1)) none
  obtain ⟨hkept', hswitch, hload, -⟩ := keptByResync_recompute (i := i) hlen false
  refine ⟨keptByResync_trans hkept hkept', hframe.trans (recompute_spec false i hlen).frame, fun m p hm hp hmap => ?_⟩
  obtain ⟨hl, hsw⟩ := hcold p (by rw [hm]; exact hp) hmap
  rw [hswitch, hload, ← hm]
  exact ⟨hl, hsw⟩

end

theorem takeRigFrame_hello (i : Fin 6) (n : Nat) (s : State) : takeRigFrame i (.hello n) s = takeHello i n s := rfl

/-- The state beside a station's record at a HELLO, its word given. -/
def helloWorded (i : Fin 6) (x : Station) (s : State) : State :=
  setWords i (fun w => { w with online := true }) (helloBeside i x s)

/-- A HELLO outside a rebuild (R111). -/
theorem takeHello_as {i : Fin 6} {s : State} {x : Station} {n : Nat} (h : s.stations.length = 6) (hr : s.stop.st.rebuilds = false)
    (hl : x.link ≠ .offline) (h2 : 2 ≤ n) (h8 : n ≤ 8) : takeHello i n (stationAs i x s)
      = (if x.excluded then stationAs i { helloed n s.now x with pressure := false } (helloWorded i x s)
        else resync i (stationAs i { helloed n s.now x with pressure := false } (helloWorded i x s))) := by
  obtain ⟨-, hstop, hstations⟩ := helloBeside_outside (i := i) hr x
  have hlen : (helloWorded i x s).stations.length = 6 := (congrArg List.length hstations).trans h
  have hword : wordOnline i (stationAs i (helloed n s.now x) (helloBeside i x s))
      = stationAs i (helloed n s.now x) (helloWorded i x s) := by
    unfold wordOnline rebuildAgain
    have hquiet : ((stationAs i (helloed n s.now x) (helloWorded i x s)).stop.st.rebuilds = true) = False := by
      rw [show (stationAs i (helloed n s.now x) (helloWorded i x s)).stop.st = s.stop.st from congrArg (·.st) hstop, hr]
      exact eq_false Bool.false_ne_true
    exact (congrArg _ (if_neg (of_eq_false hquiet))).trans (ite_self _)
  rw [takeHello, if_neg, stationOnline_as h, hword]
  · simp only [setStation_stationAs hlen, station_as hlen]
    rfl
  · rw [station_as h]
    exact fun hbad => hbad.elim hl fun hn => hn.elim (Nat.not_lt_of_le h2) (Nat.not_lt_of_le h8)

theorem onlyStationAndFault_stop {i : Fin 6} {s u : State} (h : OnlyStationAndFault i s u) : u.stop = s.stop := by
  obtain ⟨-, -, hrest⟩ := h
  have hstop := congrArg (fun m : State => m.stop) hrest
  exact hstop

/-- A station's write and a fault go past the Stop Controller. -/
theorem onlyStationAndFault_beside {i : Fin 6} {s u : State} (h : OnlyStationAndFault i s u) (c : StopController) :
    OnlyStationAndFault i { s with stop := c } { u with stop := c } := by
  obtain ⟨hother, hconditions, hrest⟩ := h
  have hrest' := congrArg (fun m : State => { m with stop := c }) hrest
  exact ⟨hother, hconditions, hrest'⟩

theorem helloWorded_parts {i : Fin 6} {s : State} (hr : s.stop.st.rebuilds = false) (hwords : s.stop.words.length = 6)
    (x : Station) : OnlyStationAndFault i s { helloWorded i x s with stop := s.stop }
      ∧ (helloWorded i x s).words i = { s.words i with online := true }
      ∧ (helloWorded i x s).stations = s.stations ∧ (helloWorded i x s).stop.st = s.stop.st
      ∧ (helloWorded i x s).seq = s.seq ∧ (helloWorded i x s).store = s.store ∧ (helloWorded i x s).map = s.map := by
  obtain ⟨hframe, hstop, hstations⟩ := helloBeside_outside (i := i) hr x
  have hword := words_setWords (s := helloBeside i x s) (by rw [hstop, hwords]) i (fun w => { w with online := true })
  rw [show (helloBeside i x s).words i = s.words i by unfold State.words; rw [hstop]] at hword
  have p : ∀ {α : Type} (f : State → α), _ := fun f => congrArg f hframe.2.2
  refine ⟨?_, hword, hstations, congrArg (·.st) hstop, p (·.seq), p (·.store), p (·.map)⟩
  show OnlyStationAndFault i s { helloBeside i x s with stop := s.stop }
  rw [← hstop]
  exact hframe

/-! ## STATION RESET (R133) -/

theorem reportEnd_dropped (i : Fin 6) (mark : Bool) (s : State) : reportEnd i mark .dropped s = s := by
  cases mark <;> rfl

theorem resetStation_eq {i : Fin 6} {s : State} (h : s.stations.length = 6) :
    resetStation i s = stationAs i { s.station i with
      slots := (s.station i).slots.map fun _ => Slot.blank
      selected := .none, victim := 1, pressure := false, failed := []
      outLoad := none, outSelect := none, silence := false, selectPlace := none, loadPlace := none
      preload := false, switch := none, queryAt := none
      link := if (s.station i).present then .greeting else .offline
      queryDue := (s.station i).present && !(s.station i).excluded
      lastSwitch := match (s.station i).switch with
        | some w => some { cue := w.cue, patch := some w.patch, kind := w.kind, outcome := .dropped, lateness := none }
        | none => (s.station i).lastSwitch } s := by
  rw [resetStation, setStation_as, endSwitch_left h, reportEnd_dropped, switchLeft_eq]
  congr 1
  generalize s.station i = x
  cases hp : x.present with
  | true =>
    cases x
    cases hp
    rfl
  | false =>
    cases x
    cases hp
    rfl

/-- A request for a station by its number, counted from 1. -/
theorem stationRequest_at (i : Fin 6) (f : Fin 6 → State → State × Answer) (s : State) :
    stationRequest (i.val + 1) f s = f i s := stationRequest_of (by omega) f s

/-- Settles O45: a PRESENT edge, a HELLO and a reset as writes of the station's record, beside its faults and its word. -/
theorem stationsComeAndGo : Obligations.StationsComeAndGo := by
  unfold Obligations.StationsComeAndGo
  refine ⟨fun s t held i hp h hwords => ⟨fun hshort => ?_, fun hh ht hpres => ?_, fun hh ht hpres hr => ?_⟩,
    fun s t n i hs h hwords hg => ⟨fun hbad => ?_, fun hl h2 h8 hr => ?_⟩, fun s t n i hs h hn => ?_⟩
  · have short : (s.goTo t).hasHeld Config.presentDebounce held = false := by
      rw [Bool.eq_false_iff, ne_eq, hasHeld_goTo]
      show ¬(8000 ≤ held ∧ 8000 ≤ _)
      omega
    have kept : ∀ f : State → State, event t (presentChange held f) s = .next (s.goTo t) := fun f => by
      rw [event_on t hp, presentChange, short]
      rfl
    exact ⟨kept _, kept _⟩
  · have e : ∀ f : State → State, event t (presentChange held f) s = .next (f (s.goTo t)) := fun f =>
      exec_presentHeld f hp hh ht
    have hnot : ¬(((s.goTo t).station i).present = true) := by
      show ¬((s.station i).present = true)
      rw [hpres]
      exact Bool.false_ne_true
    refine ⟨(e _).trans (by rw [presentFalls, if_neg hnot]), _, e _, ?_⟩
    rw [presentRises, if_neg hnot]
    cases hl : s.loading with
    | true =>
      rw [if_pos (by exact hl), setStation_as]
      exact ⟨onlyStation_as _, (station_as (s := s.goTo t) h _).trans rfl⟩
    | false =>
      rw [if_neg (by rw [show (s.goTo t).loading = s.loading from rfl, hl]; exact Bool.false_ne_true), setStation_as]
      exact ⟨onlyStation_as _, (station_as (s := s.goTo t) h _).trans rfl⟩
  · refine ⟨?_, _, exec_presentDeasserted hp hh ht hpres, ?_⟩
    · exact (exec_presentHeld (presentRises i) hp hh ht).trans (congrArg _ (if_pos hpres))
    · rw [takeDeparture_outside (s := s.goTo t) h hr]
      have hword := words_setWords (s := stationOffline i (s.goTo t)) (by rw [stationOffline_stop (s := s.goTo t) h hr]; exact hwords)
        i (fun w => { w with online := false })
      rw [show (stationOffline i (s.goTo t)).words i = s.words i by
        unfold State.words; rw [stationOffline_stop (s := s.goTo t) h hr]; rfl] at hword
      cases hx : (s.station i).excluded with
      | true =>
        have hoff := stationOffline_excluded (s := s.goTo t) h hx
        rw [reportEnd_outside (s := s.goTo t) hr] at hoff
        rw [hoff] at hword ⊢
        have hst := station_as (i := i) (s := s.goTo t) h (departed (s.station i))
        obtain ⟨h₁, h₂, h₃, h₄, h₅, h₆, h₇, h₈, h₉, h₁₀, h₁₁, h₁₂, h₁₃, h₁₄⟩ := departed_shows (.inl hst)
        have hfaults : ((stationAs i (departed (s.station i)) (s.goTo t)).station i).faults = (s.station i).faults := by
          rw [hst, departed_eq]
          rfl
        exact ⟨h₁, h₂, h₃, h₄, h₅, h₆, h₇, h₈, h₉, h₁₀, h₁₁, h₁₂, h₁₃, h₁₄, fun _ => ⟨hfaults, rfl⟩,
          fun hno => (nomatch hno), hword, (onlyStation_as (i := i) (s := s.goTo t) (departed (s.station i))).andFault⟩
      | false =>
        have hoff := stationOffline_counted (s := s.goTo t) h hx
        rw [reportEnd_outside (s := s.goTo t) hr] at hoff
        rw [hoff] at hword ⊢
        have hst := station_as (i := i) (s := s.goTo t) h
          (faulted (departedFault (s.goTo t).now (s.station i)) (departed (s.station i)))
        obtain ⟨h₁, h₂, h₃, h₄, h₅, h₆, h₇, h₈, h₉, h₁₀, h₁₁, h₁₂, h₁₃, h₁₄⟩ := departed_shows (.inr ⟨_, hst⟩)
        refine ⟨h₁, h₂, h₃, h₄, h₅, h₆, h₇, h₈, h₉, h₁₀, h₁₁, h₁₂, h₁₃, h₁₄, fun hyes => (nomatch hyes), fun _ => ⟨?_, ?_⟩,
          hword, ?_⟩
        · exact (congrArg (fun y : Station => y.faults.first) hst).trans (faulted_first _ _ _ _ (by rw [departed_eq]; rfl))
        · exact raise_same (.stationFault i .offline) (stationAs i _ (s.goTo t))
        · exact (onlyStation_as (i := i) (s := s.goTo t) _).andFault.trans (onlyStationAndFault_raise i .offline _)
  · have e := exec_rigFrame_held (.hello n) t hs hg
    rw [takeRigFrame_hello, takeHello, if_pos (by rwa [station_as (s := s.goTo t) h]), protocolError_as (s := s.goTo t) h] at e
    exact ⟨_, e, onlyStation_as _, station_as (s := s.goTo t) h _⟩
  · have e := exec_rigFrame_held (.hello n) t hs hg
    rw [takeRigFrame_hello] at e
    generalize hx : ({ s.station i with receiver := none } : Station) = x at e
    have hxl : x.link ≠ .offline := by
      rw [← hx]
      exact hl
    have hreceiver : x.receiver = none := by rw [← hx]
    have hexcluded : x.excluded = (s.station i).excluded := by rw [← hx]
    have hpins : x.hostPins = (s.station i).hostPins := by rw [← hx]
    rw [takeHello_as (s := s.goTo t) h hr hxl h2 h8] at e
    obtain ⟨hframe, hword, hstations, hst, hseq, hstore, hmap⟩ := helloWorded_parts (i := i) (s := s.goTo t) hr hwords x
    have hlen : (helloWorded i x (s.goTo t)).stations.length = 6 := (congrArg List.length hstations).trans h
    generalize helloWorded i x (s.goTo t) = m at *
    generalize hz : ({ helloed n (s.goTo t).now x with pressure := false } : Station) = z at e
    have hz_ := station_as (i := i) (s := m) hlen z
    cases hxx : x.excluded with
    | true =>
      rw [hxx, if_pos rfl] at e
      subst hz
      refine ⟨_, e, ?_⟩
      rw [hz_]
      exact ⟨hreceiver, rfl, rfl, rfl, rfl, rfl, rfl, rfl, hexcluded, hpins, hword, fun _ => ⟨rfl, rfl⟩,
        fun _ _ hno => (nomatch (hexcluded.symm.trans hxx).symm.trans hno), hframe.trans
          (onlyStation_as (i := i) (s := { m with stop := s.stop }) _).andFault⟩
    | false =>
      rw [hxx, if_neg Bool.false_ne_true] at e
      have hzslots : z.slots = List.replicate n Slot.blank := by rw [← hz]; rfl
      have hzsel : z.selected = .none := by rw [← hz]; rfl
      obtain ⟨hkept, hstays, hstarts⟩ := resync_blank (i := i) (s := stationAs i z m) ((stationAs_length i z m).trans hlen)
        ((congrArg StopSt.rebuilds hst).trans hr)
        (by rw [hz_, ← hz]; exact (congrArg (fun b => LinkSt.online == .online && !b) hxx))
        (by rw [hz_, ← hz]; rfl)
        (by
          rw [hz_, hzslots]
          exact fun sl hsl p => by rw [List.eq_of_mem_replicate hsl]; rfl)
        (by rw [hz_, hzsel])
      rw [hz_] at hkept
      have p : ∀ {α : Type} (f : Station → α), _ := fun f => congrArg f hkept
      refine ⟨_, e, (p (·.receiver)).trans (by rw [← hz]; exact hreceiver), (p (·.link)).trans (by rw [← hz]; rfl),
        (p (·.slots)).trans hzslots, (p (·.selected)).trans hzsel, (p (·.victim)).trans (by rw [← hz]; rfl),
        (p (·.outLoad)).trans (by rw [← hz]; rfl), (p (·.outSelect)).trans (by rw [← hz]; rfl),
        (p (·.selectPlace)).trans (by rw [← hz]; rfl), (p (·.excluded)).trans (by rw [← hz]; exact hexcluded),
        (p (·.hostPins)).trans (by rw [← hz]; exact hpins), ?_,
        fun hyes => (nomatch (hexcluded.symm.trans hxx).symm.trans hyes), fun c p _ hc hp hm => ?_, ?_⟩
      · rw [show (resync i (stationAs i z m)).words i = m.words i from
          congrArg (fun c : StopController => c.words.getD i { online := false, excluded := false })
            (onlyStationAndFault_stop (s := stationAs i z m) hstays)]
        exact hword
      · exact hstarts c p ((congrArg (·.current) hseq).trans hc)
          ((congrArg (fun st => (trackedPatch (CueStore.cues st) c i).map (·.1)) hstore).trans hp)
          ((congrArg (fun mp => (findMap mp (i.val + 1) p).isSome) hmap).trans hm)
      · exact (hframe.trans (onlyStation_as (i := i) (s := { m with stop := s.stop }) z).andFault).trans
          (onlyStationAndFault_beside hstays s.stop)
  · subst hn
    have e : exec (.stationReset t (i.val + 1)) s = request t false (stationRequest (i.val + 1) reqStationReset) s := rfl
    have hreset := resetStation_eq (i := i) (s := s.goTo t) h
    refine ⟨_, exec_answered hs e (stationRequest_at i _ _), ?_, ?_⟩
    · rw [hreset]
      exact onlyStation_as _
    · rw [hreset]
      exact station_as (s := s.goTo t) h _

end Sys2Proof.Proofs

namespace Sys2Proof.Proofs

open Sys2Proof Sys2Proof.Machine

/-! ## STATION PIN and UNPIN (R131) -/

/-- The recompute after a write of the station's record that leaves its link and its exclusion. -/
theorem recomputed_after {i : Fin 6} {s : State} (h : s.stations.length = 6) {x : Station}
    (hx : x.serves = (s.station i).serves) : RecomputedFrom i x s (recompute false i (stationAs i x s)) := by
  have hfrom := recompute_from i (s := stationAs i x s) ((stationAs_length i x s).trans h)
  rw [RecomputedFrom, station_as h, hx] at hfrom
  obtain ⟨hidle, hserves⟩ := hfrom
  refine ⟨fun hs => ?_, fun hs => ?_⟩
  · obtain ⟨hframe, hst⟩ := hidle hs
    exact ⟨(onlyStation_as x).trans hframe, hst⟩
  · obtain ⟨w, hframe, hst, hchosen⟩ := hserves hs
    exact ⟨w, (onlyStation_as x).trans hframe, hst, hchosen⟩

/-- A station that has been excluded (R112). -/
def leftOut (st : Station) : Station := { st with
  excluded := true, silence := false, selectPlace := none, loadPlace := none, preload := false
  queryDue := false, queryAt := none, switch := none
  lastSwitch := match st.switch with
    | some w => some { cue := w.cue, patch := some w.patch, kind := w.kind, outcome := .dropped, lateness := none }
    | none => st.lastSwitch }

section

variable {i : Fin 6} {s : State} {p : Nat}

theorem reqStationPin_range (hp : patchOk p = false) : reqStationPin p i s = (s, refuse .range) := by
  rw [reqStationPin, hp]
  rfl

theorem reqStationPin_held (hp : patchOk p = true) (hm : p ∈ (s.station i).hostPins) : reqStationPin p i s = (s, okWith []) := by
  rw [reqStationPin, hp]
  exact (if_neg Bool.false_ne_true).trans (if_pos (List.contains_iff_mem.mpr hm))

theorem reqStationPin_full (hp : patchOk p = true) (hm : p ∉ (s.station i).hostPins) (h2 : 2 ≤ (s.station i).hostPins.length) :
    reqStationPin p i s = (s, refuse .tableFull) := by
  rw [reqStationPin, hp]
  exact (if_neg Bool.false_ne_true).trans ((if_neg fun hc => hm (List.contains_iff_mem.mp hc)).trans (if_pos h2))

theorem reqStationPin_taken (hp : patchOk p = true) (hm : p ∉ (s.station i).hostPins) (h2 : (s.station i).hostPins.length < 2) :
    reqStationPin p i s = (recompute false i
      (stationAs i { s.station i with hostPins := (s.station i).hostPins ++ [p] } s), okWith []) := by
  rw [reqStationPin, hp]
  refine (if_neg Bool.false_ne_true).trans ((if_neg fun hc => hm (List.contains_iff_mem.mp hc)).trans
    ((if_neg (Nat.not_le_of_lt h2)).trans ?_))
  rw [setStation_as]

theorem reqStationUnpin_range (hp : patchOk p = false) : reqStationUnpin p i s = (s, refuse .range) := by
  rw [reqStationUnpin, hp]
  rfl

theorem reqStationUnpin_absent (hp : patchOk p = true) (hm : p ∉ (s.station i).hostPins) :
    reqStationUnpin p i s = (s, refuse .notFound) := by
  have hc : (s.station i).hostPins.contains p = false := by
    rw [Bool.eq_false_iff, ne_eq, List.contains_iff_mem]
    exact hm
  rw [reqStationUnpin, hp, hc]
  rfl

theorem reqStationUnpin_taken (hp : patchOk p = true) (hm : p ∈ (s.station i).hostPins) :
    reqStationUnpin p i s = (recompute false i
      (stationAs i { s.station i with hostPins := (s.station i).hostPins.filter fun q => q != p } s), okWith []) := by
  rw [reqStationUnpin, hp, List.contains_iff_mem.mpr hm, setStation_as]
  rfl

/-! ## STATION FLUSH (R132) -/

theorem flushes_iff (st : Station) (k : Nat) : st.flushes k = true
    ↔ (st.slot k).st = .resident ∧ st.isCurrent k = false ∧ st.isSelectTarget k = false := by
  simp [Station.flushes, and_assoc]

theorem slot_flushed (st : Station) {k : Nat} (h1 : 1 ≤ k) (hk : k ≤ st.slots.length) : st.flushed.slot k
    = if st.flushes k = true then Slot.blank
      else if (st.slot k).st = .loading then { st.slot k with flush := true } else st.slot k := by
  have hlt : k - 1 < st.slots.length := by omega
  simp only [Station.slot, Station.flushed, List.getD_eq_getElem?_getD, List.getElem?_mapIdx,
    List.getElem?_eq_getElem hlt, Option.map_some, Option.getD_some, Nat.sub_add_cancel h1, beq_iff_eq]

theorem reqStationFlush_eq : reqStationFlush i s = (stationAs i (s.station i).flushed s,
    okWith [.num 1 (s.station i).flushCount.1, .flag (s.station i).flushCount.2]) := by
  rw [reqStationFlush, setStation_as]

/-! ## STATION SET (R134) -/

theorem excludeStation_eq (h : s.stations.length = 6) : excludeStation i s = stationAs i (leftOut (s.station i)) s := by
  rw [excludeStation, setStation_as, endSwitch_left h, reportEnd_dropped, switchLeft_eq]
  rfl

end

/-- A station with the late override given. -/
def overridden (l : Option Nat) (st : Station) : Station := { st with lateOverride := l }

theorem overridden_same (st : Station) : overridden st.lateOverride st = st := rfl

/-- What a STATION SET that reads as `e` and `l` makes of the state (R134). -/
def stationWritten (i : Fin 6) (e : Bool) (l : Option Nat) (s : State) : State :=
  changeExcluded i e (stationAs i (overridden l (s.station i)) s)

section

variable {s : State} {t : Nat} {i : Fin 6} {x : RawStationSet} {e : Bool} {l : Option Nat}

theorem exec_stationSet (hs : s.Serving) (he : masked readFlag (s.station i).excluded x.excluded = some e)
    (hl : masked readLateOverride (s.station i).lateOverride x.lateOverride = some l) :
    exec (.stationSet t (i.val + 1) x) s = .next ((stationWritten i e l (s.goTo t)).replied .ok
      [.flag ((stationWritten i e l (s.goTo t)).station i).excluded,
        .opt 2 ((stationWritten i e l (s.goTo t)).station i).lateOverride]) := by
  have hc : exec (.stationSet t (i.val + 1) x) s = request t false (stationRequest (i.val + 1) (reqStationSet x)) s := rfl
  have hf : reqStationSet x i (s.goTo t) = (stationWritten i e l (s.goTo t),
      okWith (stationFields ((stationWritten i e l (s.goTo t)).station i))) := by
    have he' : masked readFlag ((s.goTo t).station i).excluded x.excluded = some e := he
    have hl' : masked readLateOverride ((s.goTo t).station i).lateOverride x.lateOverride = some l := hl
    rw [reqStationSet, he', hl']
    exact congrArg (fun m => (changeExcluded i e m, okWith (stationFields ((changeExcluded i e m).station i))))
      (setStation_as i (overridden l) (s.goTo t))
  exact exec_answered hs hc ((stationRequest_at i _ _).trans hf)

theorem exec_stationSet_range (hs : s.Serving) (h : masked readFlag (s.station i).excluded x.excluded = none
      ∨ masked readLateOverride (s.station i).lateOverride x.lateOverride = none) :
    exec (.stationSet t (i.val + 1) x) s = .next ((s.goTo t).replied .range []) := by
  have hc : exec (.stationSet t (i.val + 1) x) s = request t false (stationRequest (i.val + 1) (reqStationSet x)) s := rfl
  refine exec_refused hs hc ((stationRequest_at i _ _).trans ?_)
  unfold reqStationSet
  dsimp only
  rcases h with h | h
  · rw [show masked readFlag ((s.goTo t).station i).excluded x.excluded = none from h]
  · rw [show masked readLateOverride ((s.goTo t).station i).lateOverride x.lateOverride = none from h]
    cases masked readFlag ((s.goTo t).station i).excluded x.excluded <;> rfl

theorem readFlag_toNat (b : Bool) : readFlag b.toNat = some b := by
  cases b <;> rfl

theorem changeExcluded_same (h : (s.station i).excluded = e) : changeExcluded i e s = s := if_pos h

theorem changeExcluded_out (h : (s.station i).excluded = false) :
    changeExcluded i true s = wordExcluded i (excludeStation i s) := by
  rw [changeExcluded, h]
  rfl

theorem changeExcluded_in (h : (s.station i).excluded = true) : changeExcluded i false s
    = includeStation i (wordIncluded i (stationAs i { s.station i with excluded := false } s)) := by
  rw [changeExcluded, h, setStation_as]
  rfl

theorem stationWritten_kept (i : Fin 6) (e : Bool) (s : State) :
    stationWritten i e (s.station i).lateOverride s = changeExcluded i e s := by
  rw [stationWritten, overridden_same, stationAs_self]

theorem exec_stationSet_kept {n : Nat} (hs : s.Serving) (hn : readFlag n = some e) :
    exec (.stationSet t (i.val + 1) { excluded := some n, lateOverride := none }) s
      = .next ((changeExcluded i e (s.goTo t)).replied .ok [.flag ((changeExcluded i e (s.goTo t)).station i).excluded,
        .opt 2 ((changeExcluded i e (s.goTo t)).station i).lateOverride]) := by
  have h := exec_stationSet (t := t) (x := { excluded := some n, lateOverride := none }) (i := i) hs hn rfl
  have hkept := stationWritten_kept i e (s.goTo t)
  rw [show stationWritten i e (s.station i).lateOverride (s.goTo t) = changeExcluded i e (s.goTo t) from hkept] at h
  exact h

end

/-! ## Exclusion and inclusion (R112) -/

/-- What a switch target leaves of a station's record. -/
def KeptBySwitch (x y : Station) : Prop := y = { x with
  lastSwitch := y.lastSwitch, faults := y.faults, loadPlace := y.loadPlace, selectPlace := y.selectPlace
  preload := y.preload, switch := y.switch }

theorem keptBySwitch_trans {x y z : Station} (h : KeptBySwitch x y) (h' : KeptBySwitch y z) : KeptBySwitch x z := by
  unfold KeptBySwitch at h'
  rw [h] at h'
  exact h'

theorem keptBySwitch_begun (cue : Option CueNo) (p : Nat) (fireTime : Option Nat) (mark : Bool) (st : Station) :
    KeptBySwitch st (begun cue p fireTime mark st) := by
  unfold begun Station.queueSelect
  dsimp only
  split
  · split <;> rfl
  · rfl
  · rfl

section

variable {s : State} {i : Fin 6}

theorem classifySwitch_frame (h : s.stations.length = 6) (hr : s.stop.st.rebuilds = false) (cue : Option CueNo)
    (target fireTime : Option Nat) (mark : Bool) :
    OnlyStationAndFault i s (classifySwitch i cue target fireTime mark s)
      ∧ (classifySwitch i cue target fireTime mark s).stations.length = 6
      ∧ KeptBySwitch (s.station i) ((classifySwitch i cue target fireTime mark s).station i) := by
  have written (x : Station) : OnlyStationAndFault i s (stationAs i x s) ∧ (stationAs i x s).stations.length = 6 :=
    ⟨(onlyStation_as x).andFault, (stationAs_length i x s).trans h⟩
  cases target with
  | none =>
    rw [classifySwitch_none, reportEnd_outside hr, station_as h]
    exact ⟨(written _).1, (written _).2, rfl⟩
  | some p =>
    by_cases hm : findMap s.map (i.val + 1) p = none
    · rw [classifySwitch_unmapped h hm, reportEnd_outside hr, station_raise, station_as h]
      exact ⟨(written _).1.trans (onlyStationAndFault_raise i _ _), (written _).2, rfl⟩
    · have hsome := Option.isSome_iff_ne_none.mpr hm
      by_cases hh : (s.station i).isHot p = true
      · rw [classifySwitch_hot hsome hh, reportEnd_outside hr, station_as h]
        exact ⟨(written _).1, (written _).2, rfl⟩
      · rw [classifySwitch_begins hsome (Bool.not_eq_true _ ▸ hh), station_as h]
        exact ⟨(written _).1, (written _).2, keptBySwitch_begun _ _ _ _ _⟩

theorem startSwitch_frame (h : s.stations.length = 6) (hr : s.stop.st.rebuilds = false) (cue : Option CueNo)
    (target fireTime : Option Nat) (mark : Bool) :
    OnlyStationAndFault i s (startSwitch i cue target fireTime mark s)
      ∧ (startSwitch i cue target fireTime mark s).stations.length = 6
      ∧ KeptBySwitch (s.station i) ((startSwitch i cue target fireTime mark s).station i) := by
  cases hs : (s.station i).serves with
  | false =>
    rw [startSwitch_idle hs]
    exact ⟨OnlyStationAndFault.refl i s, h, rfl⟩
  | true =>
    cases hw : (s.station i).switch with
    | none =>
      rw [startSwitch_free hs hw]
      exact classifySwitch_frame h hr cue target fireTime mark
    | some w =>
      rw [startSwitch_busy hs hw]
      split
      · rw [takeOver_eq h hw, station_as h]
        exact ⟨(onlyStation_as _).andFault, (stationAs_length i _ s).trans h, rfl⟩
      · have hst := station_as (i := i) h { switchEnded w .superseded none (s.station i) with selectPlace := none, loadPlace := none }
        rw [supersede_eq h hw]
        obtain ⟨hframe, hlen, hkept⟩ := classifySwitch_frame (i := i)
          (s := stationAs i { switchEnded w .superseded none (s.station i) with selectPlace := none, loadPlace := none } s)
          ((stationAs_length i _ s).trans h) hr cue target fireTime mark
        refine ⟨(onlyStation_as _).andFault.trans hframe, hlen, ?_⟩
        rw [hst] at hkept
        have hended : KeptBySwitch (s.station i)
          { switchEnded w .superseded none (s.station i) with selectPlace := none, loadPlace := none } := rfl
        exact keptBySwitch_trans hended hkept

theorem wordExcluded_outside (hr : s.stop.st.rebuilds = false) :
    wordExcluded i s = setWords i (fun w => { w with excluded := true }) s := setAccount_outside hr

theorem wordIncluded_outside (hr : s.stop.st.rebuilds = false) :
    wordIncluded i s = setWords i (fun w => { w with excluded := false }) s := by
  have hkept : setAccount i (fun _ => .waiting) (setWords i (fun w => { w with excluded := false }) s)
      = setWords i (fun w => { w with excluded := false }) s := setAccount_outside hr
  unfold wordIncluded
  dsimp only
  rw [hkept]
  exact ite_self _

theorem resync_outside (hr : s.stop.st.rebuilds = false) : resync i s = recompute false i (startSwitch i s.seq.current
    (s.seq.current.bind fun c => (trackedPatch s.store.cues c i).map (·.1)) none false s) := by
  rw [resync, hr]

end

/-- A station that is included again, its word given. -/
def letIn (i : Fin 6) (s : State) : State :=
  stationAs i { s.station i with excluded := false } (setWords i (fun w => { w with excluded := false }) s)

section

variable {s : State} {i : Fin 6}

theorem letIn_length (h : s.stations.length = 6) : (letIn i s).stations.length = 6 := (stationAs_length i _ _).trans h

theorem letIn_parts (h : s.stations.length = 6) (hwords : s.stop.words.length = 6) :
    (letIn i s).station i = { s.station i with excluded := false }
      ∧ (letIn i s).stop = { s.stop with words := s.stop.words.modify i fun w => { w with excluded := false } }
      ∧ (letIn i s).words i = { s.words i with excluded := false }
      ∧ OnlyStation i s { letIn i s with stop := s.stop } :=
  ⟨station_as (s := setWords i (fun w => { w with excluded := false }) s) h _, rfl, words_setWords hwords i _,
    onlyStation_as (s := s) { s.station i with excluded := false }⟩

/-- Entering GREETING where the station is in GREETING. -/
theorem greet_in {st : Station} (h : st.link = .greeting) : Station.greet { st with excluded := false }
    = { st with excluded := false, queryDue := true, queryAt := none } := by
  cases st
  cases h
  rfl

end

/-- Settles O50: the host pins and the recompute after them, the flushed slots, and a station excluded or included again. -/
theorem stationSettings : Obligations.StationSettings := by
  unfold Obligations.StationSettings
  refine ⟨fun s t n hs hn c hc => ?_, fun s t n p i hs h hn => ⟨fun hp => ?_, fun hp hm => ?_, fun hp hm => ?_, ?_⟩,
    fun s t n i hs h hwords hn => ⟨fun x o hx => ?_, fun x e hx => ?_, fun o ho => ?_, fun hx hr => ?_, fun x hx => ?_,
      fun hx hr => ?_⟩⟩
  · rcases hc with ⟨x, rfl⟩ | rfl | ⟨p, rfl | rfl⟩ | rfl | rfl | rfl | rfl
    all_goals exact exec_refused hs rfl (stationRequest_none hn _ _)
  · subst hn
    exact ⟨exec_refused hs rfl ((stationRequest_at i _ _).trans (reqStationPin_range hp)),
      exec_refused hs rfl ((stationRequest_at i _ _).trans (reqStationUnpin_range hp))⟩
  · subst hn
    exact ⟨exec_told hs rfl ((stationRequest_at i _ _).trans (reqStationPin_held hp hm)), _,
      exec_answered hs rfl ((stationRequest_at i _ _).trans (reqStationUnpin_taken hp hm)), recomputed_after (s := s.goTo t) h rfl⟩
  · subst hn
    exact ⟨exec_refused hs rfl ((stationRequest_at i _ _).trans (reqStationUnpin_absent hp hm)), fun h2 =>
      exec_refused hs rfl ((stationRequest_at i _ _).trans (reqStationPin_full hp hm h2)), fun h2 => ⟨_,
      exec_answered hs rfl ((stationRequest_at i _ _).trans (reqStationPin_taken hp hm h2)), recomputed_after (s := s.goTo t) h rfl⟩⟩
  · subst hn
    have hst := station_as (i := i) (s := s.goTo t) h (s.station i).flushed
    refine ⟨_, _, _, exec_answered hs rfl ((stationRequest_at i _ _).trans reqStationFlush_eq), onlyStation_as _, ?_, ?_, ?_, ?_, ?_⟩
    · exact congrArg List.length (List.filter_congr fun j _ => Bool.eq_iff_iff.mpr
        ((flushes_iff _ _).trans decide_eq_true_iff.symm))
    · refine List.any_eq_true.trans ?_
      simp only [beq_iff_eq]
      exact Iff.rfl
    · rw [show (s.goTo t).station i = s.station i from rfl, hst]
      rfl
    · rw [show (s.goTo t).station i = s.station i from rfl, hst]
      exact List.length_mapIdx
    · intro k h1 hk
      rw [show (s.goTo t).station i = s.station i from rfl, hst, slot_flushed _ h1 hk]
      simp only [flushes_iff]
  · subst hn
    exact exec_stationSet_range hs (.inl (Option.eq_none_iff_forall_ne_some.mpr fun b hb =>
      Nat.not_le_of_lt hx (readFlag_some hb)))
  · subst hn
    refine exec_stationSet_range hs (.inr ?_)
    show readLateOverride (some x) = none
    rw [readLateOverride, readRange, if_neg hx]
    rfl
  · subst hn
    have hl : masked readLateOverride (s.station i).lateOverride o = some (written o (s.station i).lateOverride) := by
      refine masked_keeps fun a ha => ?_
      cases a with
      | none => rfl
      | some x => rw [readLateOverride, readRange_in (ho x ha)]; rfl
    have e := exec_stationSet (t := t) (x := { excluded := none, lateOverride := o }) hs rfl hl
    have hst := station_as (i := i) (s := s.goTo t) h (overridden (written o (s.station i).lateOverride) (s.station i))
    have hsame : stationWritten i (s.station i).excluded (written o (s.station i).lateOverride) (s.goTo t)
        = stationAs i (overridden (written o (s.station i).lateOverride) (s.station i)) (s.goTo t) :=
      changeExcluded_same (congrArg (·.excluded) hst)
    rw [hsame, show ((stationAs i (overridden (written o (s.station i).lateOverride) (s.station i)) (s.goTo t)).station i).excluded
      = (s.station i).excluded from congrArg (·.excluded) hst] at e
    exact ⟨_, e, onlyStation_as _, hst⟩
  · subst hn
    have e := exec_stationSet_kept (t := t) (i := i) hs (n := 1) rfl
    rw [changeExcluded_out (s := s.goTo t) hx, excludeStation_eq (s := s.goTo t) h] at e
    rw [wordExcluded_outside (by exact hr)] at e
    have hst := station_as (i := i) (s := s.goTo t) h (leftOut (s.station i))
    have hword := words_setWords (s := stationAs i (leftOut (s.station i)) (s.goTo t)) hwords i (fun w => { w with excluded := true })
    have hset : (setWords i (fun w => { w with excluded := true }) (stationAs i (leftOut (s.station i)) (s.goTo t))).station i
        = leftOut (s.station i) := hst
    rw [show (s.goTo t).station i = s.station i from rfl, hset] at e
    exact ⟨_, e, hset, hword, onlyStation_as (i := i) (s := s.goTo t) (leftOut (s.station i))⟩
  · subst hn
    have e := exec_stationSet_kept (t := t) (i := i) hs (readFlag_toNat x)
    rw [changeExcluded_same (s := s.goTo t) hx] at e
    rw [e, ← hx]
    rfl
  · subst hn
    have e := exec_stationSet_kept (t := t) (i := i) hs (n := 0) rfl
    rw [changeExcluded_in (s := s.goTo t) hx, wordIncluded_outside (by exact hr)] at e
    rw [show setWords i (fun w => { w with excluded := false })
          (stationAs i { (s.goTo t).station i with excluded := false } (s.goTo t)) = letIn i (s.goTo t) from rfl] at e
    obtain ⟨hin, hstop, hword, hframe₀⟩ := letIn_parts (i := i) (s := s.goTo t) h hwords
    have hframe := hframe₀.andFault
    have hst : (letIn i (s.goTo t)).station i = { s.station i with excluded := false } := hin
    have hlen : (letIn i (s.goTo t)).stations.length = 6 := letIn_length h
    have hquiet : (letIn i (s.goTo t)).stop.st.rebuilds = false := hr
    have hseq : (letIn i (s.goTo t)).seq = s.seq ∧ (letIn i (s.goTo t)).store = s.store ∧ (letIn i (s.goTo t)).map = s.map
      ∧ (letIn i (s.goTo t)).now = max s.now t := ⟨rfl, rfl, rfl, rfl⟩
    generalize letIn i (s.goTo t) = w at *
    cases hl : (s.station i).link with
    | offline =>
      have hu : includeStation i w = w := by
        unfold includeStation
        rw [hst, show ({ s.station i with excluded := false } : Station).link = .offline from hl]
      rw [hu, hst] at e
      exact ⟨w, e, hword, congrArg (·.excluded) hst, hframe, fun hno => (nomatch hno), fun _ => hst, fun hno => (nomatch hno),
        fun hno => (nomatch hno)⟩
    | greeting =>
      have hu : includeStation i w = stationAs i { s.station i with excluded := false, queryDue := true, queryAt := none } w := by
        unfold includeStation
        rw [hst, show ({ s.station i with excluded := false } : Station).link = .greeting from hl]
        simp only
        rw [setStation_as, hst, greet_in hl]
      have hst' := station_as (i := i) hlen { s.station i with excluded := false, queryDue := true, queryAt := none }
      rw [hu, hst'] at e
      exact ⟨_, e, hword, congrArg (·.excluded) hst', hframe.trans (onlyStation_as (s := { w with stop := s.stop }) _).andFault,
        fun _ => hst', fun hno => (nomatch hno), fun hno => (nomatch hno), fun hno => (nomatch hno)⟩
    | online =>
      obtain ⟨hseq, hstore, hmap, hnow⟩ := hseq
      have hu : includeStation i w = recompute false i (startSwitch i s.seq.current
          (s.seq.current.bind fun c => (trackedPatch s.store.cues c i).map (·.1)) none false w) := by
        unfold includeStation
        rw [hst, show ({ s.station i with excluded := false } : Station).link = .online from hl]
        simp only
        rw [resync_outside hquiet, hseq, hstore]
      obtain ⟨hframe', hlen', hkept⟩ := startSwitch_frame (i := i) hlen hquiet s.seq.current
        (s.seq.current.bind fun c => (trackedPatch s.store.cues c i).map (·.1)) none false
      rw [hst] at hkept
      obtain ⟨hkept', hswitch, hload, hlast⟩ := keptByResync_recompute (i := i) hlen' false
      have hspec := recompute_spec false i hlen'
      rw [← hu] at hkept' hswitch hload hlast hspec
      have k : ∀ {α : Type} (f : Station → α), _ := fun f => congrArg f hkept
      have k' : ∀ {α : Type} (f : Station → α), _ := fun f => congrArg f hkept'
      have hexcluded : ((includeStation i w).station i).excluded = false := (k' (·.excluded)).trans (k (·.excluded))
      have hoverride : ((includeStation i w).station i).lateOverride = (s.station i).lateOverride :=
        (k' (·.lateOverride)).trans (k (·.lateOverride))
      have hall := hframe'.trans hspec.frame
      have hstays := onlyStationAndFault_stop hall
      rw [hexcluded, hoverride] at e
      refine ⟨_, e, ?_, hexcluded, hframe.trans (onlyStationAndFault_beside hall s.stop), fun hno => (nomatch hno),
        fun hno => (nomatch hno), fun _ => ⟨w, ?_, hstays.symm, hst, hu⟩, fun _ hw => ⟨?_, ?_, ?_, ?_, ?_⟩⟩
      · exact (congrArg (fun c : StopController => c.words.getD i { online := false, excluded := false }) hstays).trans hword
      · exact hframe₀
      · exact (k' (·.slots)).trans (k (·.slots))
      · exact (k' (·.selected)).trans (k (·.selected))
      · exact (k' (·.outLoad)).trans (k (·.outLoad))
      · exact (k' (·.outSelect)).trans (k (·.outSelect))
      · rintro _ rfl
        rw [hswitch, hlast, hload]
        have hfirst := hspec.first
        have hserves : (w.station i).serves = true := by
          rw [hst, serves_iff]
          exact ⟨hl, rfl⟩
        rw [startSwitch_free hserves (by rw [hst]; exact hw)] at hfirst ⊢
        refine ⟨fun ht => ?_, fun p ht => ⟨fun hp => ?_, fun hp hh => ?_, fun hp hslots hh => ?_⟩⟩
        all_goals rw [ht]
        all_goals rw [ht] at hfirst
        · rw [classifySwitch_none, reportEnd_outside hquiet, station_as hlen, hst]
          exact ⟨hw, rfl⟩
        · rw [classifySwitch_unmapped hlen (by rw [hmap]; exact hp), reportEnd_outside hquiet] at hfirst ⊢
          rw [station_raise, station_as hlen, hst] at hfirst ⊢
          refine ⟨hw, rfl, ?_⟩
          obtain ⟨f, hf⟩ := faultAfter_some i .unmapped s.seq.current (some p) s w.now
          rw [← hnow, hf]
          exact hfirst f ((faulted_first (s := s) _ _ _ _ rfl).trans hf)
        · rw [classifySwitch_hot (by rw [hmap]; exact hp) (by rw [hst]; exact hh), reportEnd_outside hquiet, station_as hlen, hst]
          exact ⟨hw, rfl⟩
        · rw [classifySwitch_begins (by rw [hmap]; exact hp) (by rw [hst]; exact hh), station_as hlen,
            begun_cold (by rw [hst]; exact hslots)]
          exact ⟨rfl, rfl⟩

end Sys2Proof.Proofs

namespace Sys2Proof.Proofs

open Sys2Proof Sys2Proof.Machine

/-! ## What a station's link sends first (R114) -/

/-- A place whose frame is held behind an outstanding one has none ready. -/
theorem place_unready {α β : Type} {place : Option α} {out : Option β} (h : place = none ∨ out ≠ none) :
    (place.filter fun _ => out.isNone) = none := by
  rcases h with rfl | h
  · rfl
  · have hsome : out.isNone = false := by
      cases out with
      | none => exact absurd rfl h
      | some x => rfl
    rw [hsome]
    cases place <;> rfl

theorem place_ready {α β : Type} {a : α} {place : Option α} {out : Option β} (h : place = some a) (ho : out = none) :
    (place.filter fun _ => out.isNone) = some a := by
  rw [h, ho]
  rfl

/-- A station that has sent the frame `f` into its link. -/
def sent (f : TxFrame) (now : Nat) (st : Station) : Station := { st with sending := some (f, now) }

/-- A station that has sent a LOAD into slot `k` (R115). -/
def loadSent (e : MapEntry) (cue : Option CueNo) (k v now : Nat) (st : Station) : Station :=
  sent (.load k e.bank e.program) now
    { (st.setSlot k fun _ => { st := .loading, patch := some e.patch, stale := false, flush := false }) with
      victim := v
      outLoad := some { slot := k, patch := e.patch, cue := cue, sent := now, limit := (e.load + 2000) * 1000, due := none } }

section

variable {i : Fin 6} {s : State}

theorem sendFrame_as (h : s.stations.length = 6) (f : TxFrame) (x : Station) :
    sendFrame i f (stationAs i x s) = stationAs i (sent f s.now x) s := setStation_stationAs h x _

theorem sendLoad_as (h : s.stations.length = 6) (e : MapEntry) (cue : Option CueNo) (k v : Nat) (x : Station) :
    sendLoad i e cue k v (stationAs i x s) = stationAs i (loadSent e cue k v s.now x) s := by
  rw [sendLoad, setStation_stationAs h, sendFrame_as h]
  rfl

theorem sendNext_held (h : (s.station i).excluded = true ∨ (s.station i).sending.isSome = true) : sendNext i s = s :=
  if_pos (Bool.or_eq_true_iff.mpr h)

theorem sendNext_silence (h : s.stations.length = 6) (hx : (s.station i).excluded = false) (hsend : (s.station i).sending = none)
    (hsil : (s.station i).silence = true) :
    sendNext i s = stationAs i (sent .silence s.now { s.station i with silence := false }) s := by
  rw [sendNext, hx, hsend, hsil, setStation_as, sendFrame_as h]
  rfl

theorem sendSelect_eq (h : s.stations.length = 6) (k : Nat) : sendSelect i k s = stationAs i (sent (.select k) s.now
    { s.station i with
      selectPlace := none
      outSelect := some { slot := k, sent := s.now, due := none }
      switch := (s.station i).switch.map fun w => if w.stage = .selectHeld k then { w with stage := .selecting k } else w }) s := by
  rw [sendSelect, setStation_as, sendFrame_as h]

theorem sendNext_select {k : Nat} (hx : (s.station i).excluded = false) (hsend : (s.station i).sending = none)
    (hsil : (s.station i).silence = false) (hk : (s.station i).selectPlace = some k) (ho : (s.station i).outSelect = none) :
    sendNext i s = sendSelect i k s := by
  unfold sendNext
  simp only [hx, hsend, hsil, place_ready hk ho]
  rfl

section

variable (hx : (s.station i).excluded = false) (hsend : (s.station i).sending = none)
  (hsil : (s.station i).silence = false) (hsel : (s.station i).selectPlace = none ∨ (s.station i).outSelect ≠ none)

include hx hsend hsil hsel

theorem sendNext_cold {p : Nat} (hp : (s.station i).loadPlace = some p) (ho : (s.station i).outLoad = none) :
    sendNext i s = sendCold i p s := by
  unfold sendNext
  simp only [hx, hsend, hsil, place_unready hsel, place_ready hp ho]
  rfl

theorem sendNext_preload (hp : (s.station i).loadPlace = none) (ho : (s.station i).outLoad = none)
    (hpre : (s.station i).preload = true) : sendNext i s = sendPreload i s := by
  unfold sendNext
  simp only [hx, hsend, hsil, place_unready hsel, place_unready (.inl hp), ho, hpre]
  rfl

omit hx hsend hsil hsel in
theorem preload_unready (hp : (s.station i).outLoad ≠ none ∨ (s.station i).loadPlace = none ∧ (s.station i).preload = false) :
    ((s.station i).loadPlace.filter fun _ => (s.station i).outLoad.isNone) = none
      ∧ ((s.station i).preload && (s.station i).outLoad.isNone) = false := by
  rcases hp with ho | ⟨hl, hp⟩
  · refine ⟨place_unready (.inr ho), ?_⟩
    rw [Option.isNone_eq_false_iff.mpr (Option.isSome_iff_ne_none.mpr ho), Bool.and_false]
  · exact ⟨place_unready (.inl hl), by rw [hp, Bool.false_and]⟩

theorem sendNext_query (h : s.stations.length = 6)
    (hp : (s.station i).outLoad ≠ none ∨ (s.station i).loadPlace = none ∧ (s.station i).preload = false)
    (hl : (s.station i).link = .greeting) (hq : (s.station i).queryDue = true) :
    sendNext i s = stationAs i (sent .query s.now { s.station i with queryDue := false }) s := by
  obtain ⟨hload, hpre⟩ := preload_unready hp
  have e : sendNext i s = sendFrame i .query (s.setStation i fun st => { st with queryDue := false }) := by
    unfold sendNext
    simp only [hx, hsend, hsil, place_unready hsel, hload, hpre, hl, hq]
    rfl
  rw [e, setStation_as, sendFrame_as h]

theorem sendNext_nothing (hp : (s.station i).outLoad ≠ none ∨ (s.station i).loadPlace = none ∧ (s.station i).preload = false)
    (hl : (s.station i).link ≠ .greeting ∨ (s.station i).queryDue = false) : sendNext i s = s := by
  obtain ⟨hload, hpre⟩ := preload_unready hp
  have hq : ((s.station i).link == .greeting && (s.station i).queryDue) = false := by
    rcases hl with hl | hq
    · rw [beq_eq_false_iff_ne.mpr hl, Bool.false_and]
    · rw [hq, Bool.and_false]
  unfold sendNext
  simp only [hx, hsend, hsil, place_unready hsel, hload, hpre, hq]
  rfl

end

end

/-! ## The cold load and the preload (R115, R121, R122) -/

section

variable {i : Fin 6} {s : State}

theorem sendCold_victim {p k v : Nat} {e : MapEntry} (h : s.stations.length = 6) (he : findMap s.map (i.val + 1) p = some e)
    (hv : VictimIs false (s.station i) k v) : sendCold i p s = stationAs i
      { loadSent e ((s.station i).switch.bind (·.cue)) k v s.now { s.station i with loadPlace := none } with
        switch := (s.station i).switch.map fun w => { w with stage := .loading k } } s := by
  unfold sendCold
  simp only [he, chooseVictim_some.mpr hv]
  rw [setStation_as i (fun st => { st with loadPlace := none }) s, sendLoad_as h, setStation_stationAs h]
  rfl

theorem sendCold_misses {p : Nat} (hp : findMap s.map (i.val + 1) p = none ∨ ∀ k v, ¬VictimIs false (s.station i) k v) :
    sendCold i p s = missSwitch i .pressure (stationAs i { s.station i with loadPlace := none } s) := by
  unfold sendCold
  dsimp only
  rw [setStation_as]
  split
  · next e k v he hv =>
    rcases hp with hp | hp
    · exact (nomatch hp.symm.trans he)
    · exact absurd (chooseVictim_some.mp hv) (hp k v)
  · rfl

theorem sendPreload_victim {cue : Option CueNo} {e : MapEntry} {k v : Nat} (h : s.stations.length = 6)
    (hp : PreloadIs s.map i (s.station i) cue e.patch) (he : findMap s.map (i.val + 1) e.patch = some e)
    (hv : VictimIs true (s.station i) k v) : sendPreload i s = stationAs i
      (loadSent e cue k v s.now { s.station i with preload := false, pressure := false }) s := by
  unfold sendPreload
  simp only [preloadOf_some.mpr hp, he, chooseVictim_some.mpr hv]
  rw [setStation_as, sendLoad_as h]

theorem sendPreload_deferred {cue : Option CueNo} {p : Nat} (hp : PreloadIs s.map i (s.station i) cue p)
    (hv : ∀ k v, ¬VictimIs true (s.station i) k v) : sendPreload i s = deferPreload i (cue, p) s := by
  unfold sendPreload
  simp only [preloadOf_some.mpr hp]
  split
  · next e k v _ hk => exact absurd (chooseVictim_some.mp hk) (hv k v)
  · rfl

theorem sendPreload_none (hp : AllSkipped s.map i (s.station i) (preloadOrder (s.station i))) :
    sendPreload i s = stationAs i { s.station i with preload := false, pressure := false } s := by
  unfold sendPreload
  simp only [preloadOf_none.mpr hp]
  exact setStation_as i _ s

end

/-! ## The end of a frame and the QUERY repeat (R111, R114, R116) -/

/-- A station whose frame `f` has ended at show time `now`. -/
def frameEnded (f : TxFrame) (now : Nat) (st : Station) : Station :=
  match f with
  | .load _ _ _ => { st with sending := none, outLoad := st.outLoad.map fun o => { o with due := some (now + o.limit) } }
  | .select _ => { st with sending := none, outSelect := st.outSelect.map fun o => { o with due := some (now + 200000) } }
  | .query => { st with sending := none, queryAt := if st.link = .greeting then some (now + 500000) else none }
  | .silence => { st with sending := none }

theorem frameEnds_eq {i : Fin 6} {s : State} {f : TxFrame} {since : Nat} (h : (s.station i).sending = some (f, since)) :
    frameEnds i s = stationAs i (frameEnded f s.now (s.station i)) s := by
  rw [frameEnds, setStation_as]
  congr 1
  simp only [h]
  cases f <;> rfl

theorem exec_stationSend {s : State} (t : Nat) (i : Fin 6) (hs : s.Serving) :
    exec (.stationSend t i) s = .next (sendNext i (s.goTo t)) :=
  (event_on t hs.1).trans (congrArg _ (unlessLoading_served hs.2))

theorem exec_stationFrameSent {s : State} {i : Fin 6} {f : TxFrame} {since : Nat} (hp : s.powered = true)
    (h : (s.station i).sending = some (f, since)) :
    exec (.stationFrameSent i) s = .next (stationAs i
      (frameEnded f (s.goTo (since + bitTimes (10 * f.bytes.length) 230400)).now (s.station i))
      (s.goTo (since + bitTimes (10 * f.bytes.length) 230400))) := by
  have hdue : frameEndDue i s = some (since + bitTimes (10 * f.bytes.length) 230400) := by
    rw [frameEndDue, h]
    rfl
  exact (selfTimed_due hp hdue).trans (congrArg _ (frameEnds_eq (f := f) (since := since) h))

/-! ## Bytes and gaps (R113, R188) -/

theorem exec_stationFrameGap_served {s : State} (t : Nat) (x : RigBytes) (hp : s.powered = true) (hl : s.loading = false) :
    exec (.stationFrameGap t x) s = .next (gapComes x.station (bytesCome x (s.goTo t))) :=
  (event_on t hp).trans (congrArg _ (unlessLoading_served hl))

theorem gapComes_none {i : Fin 6} {s : State} (h : (s.station i).receiver = none) : gapComes i s = s := by
  rw [gapComes, h]

theorem gapComes_some {i : Fin 6} {r : Reception} {s : State} (h : (s.station i).receiver = some r) :
    gapComes i s = gapFails i r (s.goTo (r.last + 226)) := by
  rw [gapComes, h]
  rfl

/-- Bytes that come read the state behind the gap before them alone. -/
theorem bytesCome_congr {i : Fin 6} {bytes : List Byte} {s u : State}
    (h : passGap i bytes.length s = passGap i bytes.length u) : bytesCome ⟨i, bytes⟩ s = bytesCome ⟨i, bytes⟩ u := by
  cases bytes with
  | nil => exact h
  | cons b bs => exact congrArg (takeBytes i (b :: bs)) h

theorem bytesCome_held {i : Fin 6} {bytes : List Byte} {s : State} (hb : bytes ≠ [])
    (hg : GapHeld (s.station i) bytes.length s.now) :
    bytesCome ⟨i, bytes⟩ s = receiverComes i (rigFeed ((s.station i).receiver.map (·.bytes)) bytes) s := by
  cases bytes with
  | nil => exact absurd rfl hb
  | cons b bs => exact congrArg (takeBytes i (b :: bs)) (passGap_held hg)

theorem receiverComes_quiet (i : Fin 6) (got : Option (List Byte)) (s : State) : receiverComes i (got, []) s
    = stationAs i { s.station i with receiver := got.map fun g => { bytes := g, last := s.now } } s := setStation_as i _ s

theorem goTo_same {s : State} {t : Nat} (h : t ≤ s.now) : s.goTo t = s := by
  rw [State.goTo, max_eq_left h]

/-- Settles O48: what the link sends by the places in their order, and the receiver's frames as they fail or come whole. -/
theorem stationLinkSends : Obligations.StationLinkSends := by
  unfold Obligations.StationLinkSends
  refine ⟨fun s t i hs h => ⟨fun hheld => ?_, fun hx hsend => ⟨fun hsil => ?_, fun k hsil hk ho => ?_, fun hsil hsel =>
    ⟨fun p hp ho => ⟨fun e k v he hv => ?_, fun w hw hr hno => ?_⟩,
      fun hp ho hpre => ⟨fun cue e k v hpl he hv => ?_, fun cue p hpl hv => ?_, fun hskip => ?_⟩,
      fun hp => ⟨fun hl hq => ?_, fun hl => ?_⟩⟩⟩⟩, fun s t i hp h => ⟨fun f since hf => ?_, fun d hl hx hd => ?_,
    fun bytes hl => ?_, fun bytes got hl hg => ⟨fun hb => ?_, fun hb open_ hopen => ?_⟩, fun r n hl hr hgap => ?_⟩⟩
  · rw [exec_stationSend t i hs, sendNext_held (s := s.goTo t) hheld]
  · rw [exec_stationSend t i hs, sendNext_silence (s := s.goTo t) h hx hsend hsil]
    exact ⟨_, rfl, onlyStation_as _, station_as (s := s.goTo t) h _⟩
  · rw [exec_stationSend t i hs, sendNext_select (s := s.goTo t) hx hsend hsil hk ho, sendSelect_eq (s := s.goTo t) h]
    exact ⟨_, rfl, onlyStation_as _, station_as (s := s.goTo t) h _⟩
  · rw [exec_stationSend t i hs, sendNext_cold (s := s.goTo t) hx hsend hsil hsel hp ho, sendCold_victim (s := s.goTo t) h he hv]
    exact ⟨_, rfl, onlyStation_as _, station_as (s := s.goTo t) h _⟩
  · rw [exec_stationSend t i hs, sendNext_cold (s := s.goTo t) hx hsend hsil hsel hp ho, sendCold_misses (s := s.goTo t) hno]
    have hmiss := missSwitch_left (i := i) (s := s.goTo t) (x := { s.station i with loadPlace := none }) (w := w) h hw .pressure
    rw [reportEnd_outside (s := s.goTo t) hr] at hmiss
    refine ⟨_, rfl, ?_⟩
    rw [show missSwitch i .pressure (stationAs i { (s.goTo t).station i with loadPlace := none } (s.goTo t)) = _ from hmiss]
    refine ⟨(onlyStation_as _).andFault.trans (onlyStationAndFault_raise i _ _), ?_, raise_same (.stationFault i .pressure) _⟩
    rw [station_raise, station_as (s := s.goTo t) h, faulted, FaultRecord.take_eq]
    rfl
  · rw [exec_stationSend t i hs, sendNext_preload (s := s.goTo t) hx hsend hsil hsel hp ho hpre,
      sendPreload_victim (s := s.goTo t) h hpl he hv]
    exact ⟨_, rfl, onlyStation_as _, station_as (s := s.goTo t) h _⟩
  · rw [exec_stationSend t i hs, sendNext_preload (s := s.goTo t) hx hsend hsil hsel hp ho hpre,
      sendPreload_deferred (s := s.goTo t) hpl hv]
    exact ⟨_, rfl, deferPreload_deferred i cue p h⟩
  · rw [exec_stationSend t i hs, sendNext_preload (s := s.goTo t) hx hsend hsil hsel hp ho hpre,
      sendPreload_none (s := s.goTo t) hskip]
    exact ⟨_, rfl, onlyStation_as _, station_as (s := s.goTo t) h _⟩
  · rw [exec_stationSend t i hs, sendNext_query (s := s.goTo t) hx hsend hsil hsel h hp hl hq]
    exact ⟨_, rfl, onlyStation_as _, station_as (s := s.goTo t) h _⟩
  · rw [exec_stationSend t i hs, sendNext_nothing (s := s.goTo t) hx hsend hsil hsel hp hl]
  · refine ⟨_, exec_stationFrameSent hp hf, onlyStation_as _, ?_, ?_, ?_, ?_⟩
    · rintro k b p rfl
      exact station_as (s := s.goTo _) h _
    · rintro k rfl
      exact station_as (s := s.goTo _) h _
    · rintro rfl
      exact station_as (s := s.goTo _) h _
    · rintro rfl hl
      rw [station_as (s := s.goTo _) h, frameEnded, if_pos hl]
      rfl
  · have hdue : queryRepeatDue i s = some d := by
      rw [queryRepeatDue]
      exact (if_pos ⟨hl, hx⟩).trans hd
    exact ⟨_, selfTimed_due (f := queryComesDue i) hp hdue, onlyStation_setStation i _ _, station_setStation_same (s := s.goTo d) i _ h⟩
  · exact ⟨(event_on t hp).trans (congrArg _ (unlessLoading_loading hl)), (event_on t hp).trans (congrArg _ (unlessLoading_loading hl))⟩
  · subst hb
    have hcome : bytesCome ⟨i, []⟩ (s.goTo t) = s.goTo t := passGap_held (s := s.goTo t) (n := 0) hg
    refine ⟨?_, fun hnone => ?_, fun r n hr hgap => ?_⟩
    · rw [exec_stationFrameBad_served t _ hp hl, hcome]
    · rw [exec_stationFrameGap_served t _ hp hl, hcome, gapComes_none (s := s.goTo t) hnone]
    · rw [exec_stationFrameGap_served t _ hp hl, hcome, gapComes_some (s := s.goTo t) hr]
      obtain ⟨hframe, hst⟩ := gapFails_failed (s := (s.goTo t).goTo (r.last + 226)) h hgap
      exact ⟨_, rfl, hframe, hst⟩
  · subst hopen
    have hcome : bytesCome ⟨i, bytes⟩ (s.goTo t)
        = receiverComes i (rigFeed ((s.station i).receiver.map (·.bytes)) bytes) (s.goTo t) :=
      bytesCome_held (s := s.goTo t) hb hg
    refine ⟨fun hfeed => ?_, fun n hfeed => ?_, fun f hfeed h4 => ?_⟩
    all_goals rw [hfeed] at hcome
    · rw [receiverComes_quiet] at hcome
      have hst := station_as (i := i) (s := s.goTo t) h
        { s.station i with receiver := got.map fun g => { bytes := g, last := max s.now t } }
      rw [exec_stationFrameBad_served t _ hp hl, exec_stationFrameGap_served t _ hp hl, hcome]
      refine ⟨⟨_, rfl, onlyStation_as _, hst⟩, fun hnone => ?_, fun n hgap => ?_⟩
      · rw [gapComes_none]
        exact (congrArg (·.receiver) hst).trans (by rw [hnone, Option.map_none])
      · cases got with
        | none => exact absurd (congrArg List.length hgap) (by simp [rigGap, rigGapIn])
        | some g =>
          have hfails := gapComes_some (r := { bytes := g, last := max s.now t }) (congrArg (·.receiver) hst)
          obtain ⟨hframe, hgapst⟩ := gapFails_failed (i := i) (r := { bytes := g, last := max s.now t })
            (s := stationAs i { s.station i with receiver := some { bytes := g, last := max s.now t } }
              (s.goTo (max s.now t + 226))) ((stationAs_length i _ _).trans h) hgap
          have hlater : (stationAs i { s.station i with receiver := some { bytes := g, last := max s.now t } } (s.goTo t)).goTo
              (max s.now t + 226) = stationAs i { s.station i with receiver := some { bytes := g, last := max s.now t } }
                (s.goTo (max s.now t + 226)) :=
            congrArg (stationAs i _) (goTo_goTo s (by omega))
          refine ⟨_, (congrArg Host.Outcome.next hfails).trans (congrArg (fun m => Host.Outcome.next (gapFails i _ m)) hlater),
            (onlyStation_as _).trans hframe, ?_⟩
          rw [hgapst, station_as (s := s.goTo _) h]
    · rw [exec_stationFrameBad_served t _ hp hl, hcome]
      obtain ⟨hframe, hst⟩ := receiverComes_failed i got n (s := s.goTo t) h
      exact ⟨_, rfl, hframe, hst⟩
    · rw [exec_stationFrameBad_served t _ hp hl, hcome, exec_rigFrame_held f t ⟨hp, hl⟩ h4]
      exact congrArg (fun m => Host.Outcome.next (takeRigFrame i f m)) (setStation_as i _ (s.goTo t))
  · obtain ⟨hframe, hst⟩ := gapFails_failed (s := s.goTo t) h hgap
    have p : ∀ {α : Type} (f : State → α), _ := fun f => congrArg f hframe.2
    have hmp : (gapFails i r (s.goTo t)).powered = true := (p (·.powered)).trans hp
    have hml : (gapFails i r (s.goTo t)).loading = false := (p (·.loading)).trans hl
    have hmt : (gapFails i r (s.goTo t)).goTo t = gapFails i r (s.goTo t) := by
      have hnow : (gapFails i r (s.goTo t)).now = max s.now t := p (·.now)
      exact goTo_same (by rw [hnow]; exact le_max_right _ _)
    have hnone : ((gapFails i r (s.goTo t)).station i).receiver = none := congrArg (·.receiver) hst
    refine ⟨_, hframe, hst, fun c k hc hpassed => ?_⟩
    have hgone : passGap i k (s.goTo t) = gapFails i r (s.goTo t) := passGap_passed (s := s.goTo t) hr hpassed
    have hstays : passGap i k (gapFails i r (s.goTo t)) = gapFails i r (s.goTo t) :=
      passGap_held fun q hq => (nomatch hnone.symm.trans hq)
    rcases hc with ⟨bytes, rfl, rfl | rfl⟩ | ⟨rfl, f, rfl⟩
    · rw [exec_stationFrameBad_served t _ hp hl, exec_stationFrameBad_served t _ hmp hml, hmt,
        bytesCome_congr (hgone.trans hstays.symm)]
    · rw [exec_stationFrameGap_served t _ hp hl, exec_stationFrameGap_served t _ hmp hml, hmt,
        bytesCome_congr (hgone.trans hstays.symm)]
    · rw [exec_rigFrame, exec_rigFrame, event_on t hp, event_on t hmp, unlessLoading_served (s := s.goTo t) hl,
        unlessLoading_served (by rw [hmt]; exact hml), hmt, frameComes, frameComes, hgone, hstays]

end Sys2Proof.Proofs

namespace Sys2Proof.Proofs

open Sys2Proof Sys2Proof.Machine

/-! ## What a switch target reports, and the switch it leaves (R123, R125, R128) -/

/-- What a switch target with the rebuild mark reports at once. -/
def reportOf (map : List MapEntry) (i : Fin 6) (target : Option Nat) (st : Station) : Option Bool :=
  if st.serves = false then none
  else match target with
    | none => some true
    | some p =>
      if st.switch.map (·.patch) = some p then none
      else if findMap map (i.val + 1) p = none then some false
      else if st.isHot p then some true else none

/-- The state once a report, if there is one, has come to the account. -/
def reported (i : Fin 6) (o : Option Bool) (s : State) : State :=
  match o with
  | none => s
  | some b => reportSwitch i b s

/-- The two states have the same Stop Controller, overlay, time and RESUME_READY. -/
def SameAccount (u v : State) : Prop :=
  u.stop = v.stop ∧ u.video = v.video ∧ u.now = v.now ∧ u.attention[2]? = v.attention[2]?

theorem sameAccount_refl (s : State) : SameAccount s s := ⟨rfl, rfl, rfl, rfl⟩

theorem sameAccount_as {u v : State} (h : SameAccount u v) (i : Fin 6) (x : Station) : SameAccount (stationAs i x u) v := h

theorem sameAccount_raise {u v : State} (h : SameAccount u v) (i : Fin 6) (kind : FaultKind) :
    SameAccount (raise (.stationFault i kind) u) v := by
  obtain ⟨hstop, hvideo, hnow, hready⟩ := h
  exact ⟨hstop, hvideo, hnow, (raise_other _ _ (by decide : 2 ≠ 1)).trans hready⟩

theorem sameAccount_trans {u v w : State} (h : SameAccount u v) (h' : SameAccount v w) : SameAccount u w := by
  obtain ⟨a, b, c, d⟩ := h
  obtain ⟨a', b', c', d'⟩ := h'
  exact ⟨a.trans a', b.trans b', c.trans c', d.trans d'⟩

theorem reported_as (i : Fin 6) (o : Option Bool) (x : Station) (s : State) :
    SameAccount (reported i o (stationAs i x s)) (reported i o s) := by
  cases o with
  | none => exact sameAccount_as (sameAccount_refl s) i x
  | some b =>
    have e : reported i (some b) (stationAs i x s) = stationAs i x (reported i (some b) s) := setAccount_as i i x s _
    rw [e]
    exact sameAccount_as (sameAccount_refl _) i x

theorem reportOf_idle {map : List MapEntry} {i : Fin 6} {target : Option Nat} {st : Station} (h : st.serves = false) :
    reportOf map i target st = none := by
  unfold reportOf
  exact if_pos h

/-- The station's switch, as a switch target to `p` leaves it where it goes on. -/
def SwitchesTo (cue : Option CueNo) (p : Nat) (fireTime : Option Nat) (mark : Bool) (st : Station) : Prop :=
  ∃ w, st.switch = some w ∧ w.patch = p ∧ w.cue = cue ∧ w.fireTime = fireTime ∧ w.rebuild = mark

theorem switchesTo_begun (cue : Option CueNo) (p : Nat) (fireTime : Option Nat) (mark : Bool) (st : Station) :
    SwitchesTo cue p fireTime mark (begun cue p fireTime mark st) := by
  unfold begun Station.queueSelect
  dsimp only
  split
  · split
    · exact ⟨_, rfl, rfl, rfl, rfl, rfl⟩
    · exact ⟨_, rfl, rfl, rfl, rfl, rfl⟩
  · exact ⟨_, rfl, rfl, rfl, rfl, rfl⟩
  · exact ⟨_, rfl, rfl, rfl, rfl, rfl⟩

theorem reported_setStation (i : Fin 6) (o : Option Bool) (f : Station → Station) (s : State) :
    SameAccount (reported i o (s.setStation i f)) (reported i o s) := by
  rw [setStation_as]
  exact reported_as i o _ s

section

variable {i : Fin 6} {cue : Option CueNo} {target fireTime : Option Nat} {s : State}

/-- What a switch target reports where it is classified. -/
def classReport (map : List MapEntry) (i : Fin 6) (target : Option Nat) (st : Station) : Option Bool :=
  match target with
  | none => some true
  | some p => if findMap map (i.val + 1) p = none then some false else if st.isHot p then some true else none

theorem sameAccount_quickEnd (l : LastSwitch) : SameAccount (quickEnd i l true s) (reportEnd i true l.outcome s) := by
  rw [quickEnd_eq]
  exact sameAccount_as (sameAccount_refl _) i _

theorem classifySwitch_account : SameAccount (classifySwitch i cue target fireTime true s)
    (reported i (classReport s.map i target (s.station i)) s) := by
  cases target with
  | none => exact sameAccount_quickEnd _
  | some p =>
    unfold classReport classifySwitch
    dsimp only
    by_cases hm : findMap s.map (i.val + 1) p = none
    · rw [hm, if_pos rfl]
      exact sameAccount_raise (u := (quickEnd i { cue := cue, patch := some p, kind := .unmapped, outcome := .missed, lateness := none }
        true s).setStation i _) (sameAccount_quickEnd _) i _
    · rw [if_neg hm, if_neg (by rw [Option.isNone_iff_eq_none]; exact hm)]
      by_cases hh : (s.station i).isHot p = true
      · rw [if_pos hh, if_pos hh]
        exact sameAccount_quickEnd _
      · rw [if_neg hh, if_neg hh]
        exact sameAccount_refl s

/-- The classification looks at neither the switch in progress nor the two places. -/
theorem classReport_supersede {w : Switch} (hw : (s.station i).switch = some w) :
    classReport (supersede i s).map i target ((supersede i s).station i) = classReport s.map i target (s.station i) := by
  have hst : supersede i s = s.setStation i fun _ =>
      { switchEnded w .superseded none (s.station i) with selectPlace := none, loadPlace := none } := by
    rw [supersede, endSwitch_superseded hw]
    exact setStation_setStation s i _ _
  have hhot : ∀ p, ((supersede i s).station i).isHot p = (s.station i).isHot p := fun p => by
    rw [hst, station_setStation_own]
    split <;> rfl
  have hmap : (supersede i s).map = s.map := by rw [hst]; rfl
  cases target with
  | none => rfl
  | some p =>
    unfold classReport
    simp only [hhot, hmap]

theorem startSwitch_account : SameAccount (startSwitch i cue target fireTime true s)
    (reported i (reportOf s.map i target (s.station i)) s) := by
  cases hs : (s.station i).serves with
  | false =>
    rw [startSwitch_idle hs, reportOf_idle hs]
    exact sameAccount_refl s
  | true =>
    cases hw : (s.station i).switch with
    | none =>
      have hrep : reportOf s.map i target (s.station i) = classReport s.map i target (s.station i) := by
        unfold reportOf
        rw [if_neg (by rw [hs]; exact fun hno => (nomatch hno)), hw]
        cases target with
        | none => rfl
        | some p => exact if_neg fun hno => (nomatch hno)
      rw [startSwitch_free hs hw, hrep]
      exact classifySwitch_account
    | some w =>
      rw [startSwitch_busy hs hw]
      split
      · next ht =>
        have hrep : reportOf s.map i target (s.station i) = none := by
          rw [ht, reportOf, if_neg (by rw [hs]; exact fun hno => (nomatch hno)), if_pos (by rw [hw]; rfl)]
        rw [takeOver, endSwitch_superseded hw, hrep]
        exact sameAccount_refl s
      · next ht =>
        have hrep : reportOf s.map i target (s.station i) = classReport s.map i target (s.station i) := by
          unfold reportOf
          rw [if_neg (by rw [hs]; exact fun hno => (nomatch hno)), hw]
          cases target with
          | none => rfl
          | some p => exact if_neg fun hno => ht hno.symm
        refine sameAccount_trans classifySwitch_account ?_
        rw [classReport_supersede hw, ← hrep, supersede, endSwitch_superseded hw]
        exact sameAccount_trans (reported_setStation i _ _ _) (reported_as i _ _ s)

/-- The switch that a target leaves on a station without one. -/
theorem classifySwitch_switch (h : s.stations.length = 6) (hw : (s.station i).switch = none) :
    (target = none → ((classifySwitch i cue target fireTime true s).station i).switch = none)
      ∧ ∀ p, target = some p →
        ((findMap s.map (i.val + 1) p).isSome = true → (s.station i).isHot p = false →
          SwitchesTo cue p fireTime true ((classifySwitch i cue target fireTime true s).station i))
        ∧ (findMap s.map (i.val + 1) p = none ∨ (s.station i).isHot p = true →
          ((classifySwitch i cue target fireTime true s).station i).switch = none) := by
  have reportLen (o : SwitchEnd) : (reportEnd i true o s).stations.length = 6 := by rw [stations_reportEnd, h]
  cases target with
  | none =>
    rw [classifySwitch_none, station_as (reportLen _)]
    exact ⟨fun _ => hw, fun p hp => (nomatch hp)⟩
  | some p =>
    refine ⟨fun hno => (nomatch hno), fun q hq => ?_⟩
    cases hq
    by_cases hm : findMap s.map (i.val + 1) p = none
    · rw [classifySwitch_unmapped h hm, station_raise, station_as (reportLen _)]
      exact ⟨fun hsome => absurd hm (Option.isSome_iff_ne_none.mp hsome), fun _ => hw⟩
    · have hsome := Option.isSome_iff_ne_none.mpr hm
      by_cases hh : (s.station i).isHot p = true
      · rw [classifySwitch_hot hsome hh, station_as (reportLen _)]
        exact ⟨fun _ hnot => absurd hh (by rw [hnot]; exact Bool.false_ne_true), fun _ => hw⟩
      · have hnot : (s.station i).isHot p = false := Bool.not_eq_true _ ▸ hh
        rw [classifySwitch_begins hsome hnot, station_as h]
        exact ⟨fun _ _ => switchesTo_begun _ _ _ _ _, fun hor => hor.elim (fun hn => absurd hn hm) (fun hy => absurd hy hh)⟩

/-- The switch that a target with the rebuild mark leaves. -/
theorem startSwitch_switch (h : s.stations.length = 6) :
    ((s.station i).serves = false → (startSwitch i cue target fireTime true s).station i = s.station i)
      ∧ ((s.station i).serves = true → target = none →
        ((startSwitch i cue target fireTime true s).station i).switch = none)
      ∧ ∀ p, (s.station i).serves = true → target = some p →
        ((s.station i).switch.map (·.patch) = some p
            ∨ (findMap s.map (i.val + 1) p).isSome = true ∧ (s.station i).isHot p = false →
          SwitchesTo cue p fireTime true ((startSwitch i cue target fireTime true s).station i))
        ∧ ((s.station i).switch.map (·.patch) ≠ some p →
          (findMap s.map (i.val + 1) p = none ∨ (s.station i).isHot p = true) →
          ((startSwitch i cue target fireTime true s).station i).switch = none) := by
  cases hs : (s.station i).serves with
  | false =>
    rw [startSwitch_idle hs]
    exact ⟨fun _ => rfl, fun hno => (nomatch hno), fun p hno => (nomatch hno)⟩
  | true =>
    cases hw : (s.station i).switch with
    | none =>
      obtain ⟨hnone, hsome⟩ := classifySwitch_switch (cue := cue) (target := target) (fireTime := fireTime) h hw
      rw [startSwitch_free hs hw]
      refine ⟨fun hno => (nomatch hno), fun _ => hnone, fun p _ hp => ⟨fun hor => ?_, fun _ => (hsome p hp).2⟩⟩
      obtain ⟨hm, hh⟩ := hor.resolve_left fun hno => (nomatch hno)
      exact (hsome p hp).1 hm hh
    | some w =>
      rw [startSwitch_busy hs hw]
      split
      · next ht =>
        rw [takeOver_eq h hw, station_as h, ht]
        refine ⟨fun hno => (nomatch hno), fun _ hno => (nomatch hno), fun p _ hp => ?_⟩
        cases hp
        exact ⟨fun _ => ⟨_, rfl, rfl, rfl, rfl, rfl⟩, fun hno => absurd rfl hno⟩
      · next ht =>
        generalize hy : ({ switchEnded w .superseded none (s.station i) with selectPlace := none, loadPlace := none } : Station) = y
        have hst := station_as (i := i) h y
        have hhot : ∀ p, y.isHot p = (s.station i).isHot p := fun p => by rw [← hy]; rfl
        obtain ⟨hnone, hsome⟩ := classifySwitch_switch (i := i) (cue := cue) (target := target) (fireTime := fireTime)
          (s := stationAs i y s) ((stationAs_length i y s).trans h) (by rw [hst, ← hy]; rfl)
        rw [hst] at hsome
        rw [supersede_eq h hw, hy]
        refine ⟨fun hno => (nomatch hno), fun _ => hnone, fun p _ hp => ⟨fun hor => ?_, fun hne hor => ?_⟩⟩
        · obtain ⟨hm, hh⟩ := hor.resolve_left fun heq => ht (hp.trans heq.symm)
          exact (hsome p hp).1 hm (by rw [hhot, hh])
        · exact (hsome p hp).2 (hor.imp id fun hh => (hhot p).trans hh)

end

/-! ## What a switch target leaves to another station -/

/-- For station `i` nothing has changed that an order to it reads. -/
def ForOther (i : Fin 6) (s u : State) : Prop := u.station i = s.station i ∧ u.map = s.map ∧ u.store = s.store

theorem forOther_trans {i : Fin 6} {s u v : State} (h : ForOther i s u) (h' : ForOther i u v) : ForOther i s v := by
  obtain ⟨a, b, c⟩ := h
  obtain ⟨a', b', c'⟩ := h'
  exact ⟨a'.trans a, b'.trans b, c'.trans c⟩

theorem forOther_setStation {i j : Fin 6} (h : i ≠ j) (f : Station → Station) (s : State) : ForOther i s (s.setStation j f) :=
  ⟨station_setStation_other s f h, rfl, rfl⟩

theorem forOther_reportEnd (i j : Fin 6) (mark : Bool) (o : SwitchEnd) (s : State) : ForOther i s (reportEnd j mark o s) := by
  obtain ⟨-, hstore, -, -, -, -, hmap, -⟩ := (stationsAndAccount_reportEnd j mark o s).rest
  exact ⟨reportEnd_station j i mark o s, hmap, hstore⟩

theorem forOther_classifySwitch {i j : Fin 6} (h : i ≠ j) (cue : Option CueNo) (target fireTime : Option Nat) (mark : Bool)
    (s : State) : ForOther i s (classifySwitch j cue target fireTime mark s) := by
  have quick (l : LastSwitch) : ForOther i s (quickEnd j l mark s) :=
    forOther_trans (forOther_setStation h _ s) (forOther_reportEnd i j mark l.outcome _)
  unfold classifySwitch
  split
  · exact quick _
  · split
    · exact forOther_trans (quick _) (forOther_setStation h _ _)
    · split
      · exact quick _
      · exact forOther_setStation h _ s

theorem forOther_startSwitch {i j : Fin 6} (h : i ≠ j) (cue : Option CueNo) (target fireTime : Option Nat) (mark : Bool)
    (s : State) : ForOther i s (startSwitch j cue target fireTime mark s) := by
  unfold startSwitch
  split
  · split
    · exact forOther_classifySwitch h _ _ _ _ s
    · next w hw =>
      split
      · rw [takeOver, endSwitch_superseded hw]
        exact forOther_trans (forOther_setStation h _ s) (forOther_setStation h _ _)
      · refine forOther_trans ?_ (forOther_classifySwitch h _ _ _ _ _)
        rw [supersede, endSwitch_superseded hw]
        exact forOther_trans (forOther_setStation h _ s) (forOther_setStation h _ _)
  · exact ⟨rfl, rfl, rfl⟩

end Sys2Proof.Proofs

namespace Sys2Proof.Proofs

open Sys2Proof Sys2Proof.Machine

/-! ## Orders to all six stations, one station followed through them -/

/-- What station `i` has before its own order, and after it, where the orders to the others leave both. -/
theorem eachStation_at {P Q : State → Prop} {f : Fin 6 → State → State} (i : Fin 6)
    (before : ∀ {j m}, i ≠ j → P m → P (f j m)) (own : ∀ {m}, P m → Q (f i m))
    (after : ∀ {j m}, i ≠ j → Q m → Q (f j m)) {s : State} (h : P s) : Q (eachStation f s) := by
  have rest : ∀ (l : List (Fin 6)) (m : State), i ∉ l → Q m → Q (l.foldl (fun s j => f j s) m) := by
    intro l
    induction l with
    | nil => exact fun m _ h => h
    | cons j l ih =>
      intro m hn h
      rw [List.mem_cons, not_or] at hn
      exact ih _ hn.2 (after hn.1 h)
  have go : ∀ l : List (Fin 6), l.Nodup → i ∈ l → ∀ m, P m → Q (l.foldl (fun s j => f j s) m) := by
    intro l
    induction l with
    | nil => exact fun _ hi => absurd hi List.not_mem_nil
    | cons j l ih =>
      intro hnodup hi m hm
      obtain ⟨hj, hl⟩ := List.nodup_cons.mp hnodup
      by_cases e : i = j
      · subst e
        exact rest l _ hj (own hm)
      · exact ih hl ((List.mem_cons.mp hi).resolve_left e) _ (before e hm)
  have mem : ∀ i, i ∈ allStations := by decide
  exact go allStations (by decide) (mem i) s h

/-! ## The account of a rebuild that goes on (R167) -/

/-- From `b` the rebuild for `r` has gone on to `m`: the account has changed, and with it the stop state and its copy in the
overlay; READY has been entered once, or not. -/
def AccountGoes (r : ResumePoint) (b m : State) : Prop :=
  m.stop = { b.stop with st := m.stop.st, account := m.stop.account }
    ∧ m.video = { b.video with content := { b.video.content with stopState := m.stop.st } }
    ∧ m.now = b.now
    ∧ (m.stop.st = .rebuilding ∧ m.attention[2]? = b.attention[2]?
      ∨ m.stop.st = .ready ∧ m.stop.account.any Account.blocks = false
        ∧ m.attention[2]? = b.attention[2]?.map (Condition.raised (.resumeReady r.cue r.bar) b.now))

section

variable {r : ResumePoint} {b m u : State}

theorem accountGoes_refl (hst : b.stop.st = .rebuilding) (hv : b.video.content.stopState = b.stop.st) : AccountGoes r b b :=
  ⟨rfl, by rw [← hv], rfl, .inl ⟨hst, rfl⟩⟩

theorem accountGoes_same (h : AccountGoes r b m) (e : SameAccount u m) : AccountGoes r b u := by
  obtain ⟨hstop, hvideo, hnow, hready⟩ := e
  unfold AccountGoes
  rw [hstop, hvideo, hnow, hready]
  exact h

theorem accountGoes_rebuilds (h : AccountGoes r b m) : m.stop.st.rebuilds = true := by
  obtain ⟨-, -, -, ⟨hst, -⟩ | ⟨hst, -, -⟩⟩ := h
  · rw [hst]; rfl
  · rw [hst]; rfl

/-- An account that does not block has no entry that a report changes. -/
theorem accountReported_quiet {i : Fin 6} {x : Bool} (h : m.stop.account.any Account.blocks = false) :
    accountReported i x m = m.stop.account := by
  unfold accountReported
  refine (modify_congr (g := id) fun a ha => ?_).trans (List.modify_id _ _)
  have hnot := List.any_eq_false.mp h a (List.mem_of_getElem? ha)
  refine if_neg fun hwait => hnot ?_
  rw [hwait]
  rfl

/-- An evaluation of readiness goes on with the rebuild. -/
theorem accountGoes_taken {a : List Account} (h : AccountGoes r b m)
    (ht : AccountTaken r a (decide (m.stop.st = .rebuilding)) m u) (hw : u.stop.words = m.stop.words) (hn : u.now = m.now)
    (hq : m.stop.account.any Account.blocks = false → a = m.stop.account) :
    AccountGoes r b u ∧ u.stop.account = a ∧ u.stop.st = if a.any Account.blocks then .rebuilding else .ready := by
  obtain ⟨hstop, hvideo, hready⟩ := ht
  rw [← hw] at hstop
  have hstop' : u.stop = { m.stop with account := a, st := if a.any Account.blocks then .rebuilding else .ready } := hstop
  have hst : u.stop.st = if a.any Account.blocks then .rebuilding else .ready := congrArg (·.st) hstop'
  have hacc : u.stop.account = a := congrArg (·.account) hstop'
  refine ⟨?_, hacc, hst⟩
  obtain ⟨hbstop, hbvideo, hbnow, hbst⟩ := h
  have hkept : u.stop = { m.stop with st := u.stop.st, account := u.stop.account } := by rw [hstop']
  refine ⟨?_, ?_, hn.trans hbnow, ?_⟩
  · exact hkept.trans (congrArg (fun c : StopController => { c with st := u.stop.st, account := u.stop.account }) hbstop)
  · exact hvideo.trans (congrArg (fun v : Video => { v with content := { v.content with stopState := u.stop.st } }) hbvideo)
  · rcases hbst with ⟨hmst, hmatt⟩ | ⟨hmst, hmquiet, hmatt⟩
    · by_cases hblock : a.any Account.blocks = true
      · rw [if_pos hblock] at hst
        rw [if_neg (by rw [hst]; exact fun hno => (nomatch hno.2))] at hready
        exact .inl ⟨hst, hready.trans hmatt⟩
      · rw [if_neg hblock] at hst
        rw [if_pos ⟨by rw [hmst]; exact decide_eq_true rfl, hst⟩, hn, hbnow, hmatt] at hready
        exact .inr ⟨hst, by rw [hacc]; exact Bool.not_eq_true _ ▸ hblock, hready⟩
    · have hsame := hq hmquiet
      rw [hsame, hmquiet, if_neg Bool.false_ne_true] at hst
      rw [if_neg (by rw [hmst]; exact fun hno => absurd hno.1 (by decide))] at hready
      exact .inr ⟨hst, by rw [hacc, hsame]; exact hmquiet, hready.trans hmatt⟩

/-- What a rebuild keeps of its resume point and its overlay. -/
theorem accountGoes_parts (h : AccountGoes r b m) :
    m.stop.resume = b.stop.resume ∧ m.stop.words = b.stop.words ∧ m.video.content.stopState = m.stop.st := by
  obtain ⟨hstop, hvideo, -, -⟩ := h
  have hshown : m.video.content.stopState = m.stop.st := congrArg (·.content.stopState) hvideo
  exact ⟨congrArg (·.resume) hstop, congrArg (·.words) hstop, hshown⟩

theorem accountGoes_reported (i : Fin 6) (hres : b.stop.resume = some r) (h : AccountGoes r b m) (x : Bool) :
    AccountGoes r b (reportSwitch i x m) ∧ (reportSwitch i x m).stop.account = accountReported i x m := by
  obtain ⟨hresume, -, hshown⟩ := accountGoes_parts h
  obtain ⟨-, -, -, -, -, hnow, -, -, -, -, hwords, -⟩ := (stationsAndAccount_setAccount i (fun a => match a with
    | .waiting => if x then .satisfied else .failed
    | a => a) m).rest
  obtain ⟨hgoes, hacc, -⟩ := accountGoes_taken h (reportSwitch_taken i x (accountGoes_rebuilds h) (hresume.trans hres) hshown)
    hwords hnow accountReported_quiet
  exact ⟨hgoes, hacc⟩

theorem accountGoes_ready (hres : b.stop.resume = some r) (h : AccountGoes r b m) :
    AccountGoes r b (evaluateReady m) ∧ (evaluateReady m).stop.account = m.stop.account
      ∧ (evaluateReady m).stop.st = if m.stop.account.any Account.blocks then .rebuilding else .ready := by
  obtain ⟨hresume, -, hshown⟩ := accountGoes_parts h
  obtain ⟨hrest, hstop, -, -⟩ := evaluateReady_frame m
  have hnow : (evaluateReady m).now = m.now := by
    have := congrArg (fun s : State => s.now) hrest
    exact this
  exact accountGoes_taken h (evaluateReady_ready (accountGoes_rebuilds h) (hresume.trans hres) hshown)
    (by have := congrArg (fun c : StopController => c.words) hstop; exact this) hnow fun _ => rfl

end

end Sys2Proof.Proofs

namespace Sys2Proof.Proofs

open Sys2Proof Sys2Proof.Machine

/-! ## The rebuild order on a station and its entry (R128, R166, R167) -/

/-- An entry after a report, if there is one. -/
def reportedEntry (o : Option Bool) (a : Account) : Account :=
  match o with
  | none => a
  | some b => if a = .waiting then (if b then .satisfied else .failed) else a

/-- What the rebuild order for cue `n` reports at station `i`. -/
def rebuildReport (n : CueNo) (i : Fin 6) (s : State) : Option Bool :=
  reportOf s.map i ((trackedPatch s.store.cues n i).map (·.1)) (s.station i)

section

variable {r : ResumePoint} {b m : State} {n : CueNo} {i j : Fin 6}

theorem stationRebuild_goes (hres : b.stop.resume = some r) (h : AccountGoes r b m) (j : Fin 6) :
    AccountGoes r b (stationRebuild n j m)
      ∧ (stationRebuild n j m).stop.account = m.stop.account.modify j.val (reportedEntry (rebuildReport n j m)) := by
  have hsame := startSwitch_account (i := j) (cue := some n)
    (target := (trackedPatch m.store.cues n j).map (·.1)) (fireTime := none) (s := m)
  have hacc : (stationRebuild n j m).stop.account = (reported j (rebuildReport n j m) m).stop.account := congrArg (·.account) hsame.1
  rw [hacc]
  suffices AccountGoes r b (reported j (rebuildReport n j m) m) ∧ (reported j (rebuildReport n j m) m).stop.account
      = m.stop.account.modify j.val (reportedEntry (rebuildReport n j m)) from ⟨accountGoes_same this.1 hsame, this.2⟩
  cases rebuildReport n j m with
  | none => exact ⟨h, (List.modify_id _ _).symm⟩
  | some x => exact accountGoes_reported j hres h x

theorem rebuildReport_other {s u : State} (h : ForOther i s u) : rebuildReport n i u = rebuildReport n i s := by
  obtain ⟨hstation, hmap, hstore⟩ := h
  rw [rebuildReport, rebuildReport, hstation, hmap, hstore]

/-- After the rebuild orders to all six stations the rebuild has gone on, and each entry is as its own order reports. -/
theorem eachRebuild_goes (hres : b.stop.resume = some r) (h : AccountGoes r b b) (i : Fin 6) :
    AccountGoes r b (eachStation (stationRebuild n) b) ∧ (eachStation (stationRebuild n) b).stop.account[i.val]?
      = b.stop.account[i.val]?.map (reportedEntry (rebuildReport n i b)) := by
  have entry {j : Fin 6} {m : State} (hij : i ≠ j) (hm : AccountGoes r b m) :
      (stationRebuild n j m).stop.account[i.val]? = m.stop.account[i.val]? := by
    rw [(stationRebuild_goes hres hm j).2, List.getElem?_modify_ne _ _ fun heq => hij (Fin.ext heq.symm)]
  refine eachStation_at (P := fun m => ForOther i b m ∧ AccountGoes r b m ∧ m.stop.account[i.val]? = b.stop.account[i.val]?)
    (Q := fun m => AccountGoes r b m
      ∧ m.stop.account[i.val]? = b.stop.account[i.val]?.map (reportedEntry (rebuildReport n i b)))
    i ?_ ?_ ?_ ⟨⟨rfl, rfl, rfl⟩, h, rfl⟩
  · rintro j m hij ⟨hother, hgoes, hentry⟩
    exact ⟨forOther_trans hother (forOther_startSwitch hij _ _ _ _ m), (stationRebuild_goes hres hgoes j).1,
      (entry hij hgoes).trans hentry⟩
  · rintro m ⟨hother, hgoes, hentry⟩
    obtain ⟨hgoes', hacc⟩ := stationRebuild_goes (n := n) hres hgoes i
    refine ⟨hgoes', ?_⟩
    rw [hacc, List.getElem?_modify_eq, hentry, rebuildReport_other hother]
    rfl
  · rintro j m hij ⟨hgoes, hentry⟩
    exact ⟨(stationRebuild_goes hres hgoes j).1, (entry hij hgoes).trans hentry⟩

end

/-! ## A fresh rebuild (R165, R166) -/

/-- The state of a fresh rebuild before the orders to the stations. -/
def rebuildBegun (n : CueNo) (s : State) : State :=
  { s with
    stop := { s.stop with st := .rebuilding, account := s.stop.words.map accountOf }
    clock := { s.clock with
      position := { s.clock.position with cue := some n }
      rebuildRec := (trackedTempo s.store.cues n).map (·.1)
      pendingRec := none, barSet := none, vamp := none, ramp := none }
    channels := (clickTracked n s).channels
    video := { s.video with content := { s.video.content with
      stopState := .rebuilding, cue := some n, caption := captionAt s.store.cues n } } }

theorem freshRebuild_eq {r : ResumePoint} {s : State} (h : s.stop.resume = some r) : freshRebuild s
    = evaluateReady (sequencerRebuild r.cue (eachStation (stationRebuild r.cue) (rebuildBegun r.cue s))) := by
  unfold freshRebuild
  rw [h]
  rfl

/-- The entry of a station after a report, by what its word gives it first. -/
theorem entryAfterRebuild_eq (n : CueNo) (i : Fin 6) (s : State) :
    entryAfterRebuild s n i = reportedEntry (rebuildReport n i s) (accountOf (s.words i)) := by
  unfold entryAfterRebuild rebuildReport accountOf
  cases hword : (s.words i).online && !(s.words i).excluded with
  | false =>
    rw [if_pos rfl, if_neg Bool.false_ne_true]
    cases reportOf s.map i ((trackedPatch s.store.cues n i).map (·.1)) (s.station i) <;> rfl
  | true =>
    rw [if_neg (fun hno => (nomatch hno)), if_pos rfl]
    cases hs : (s.station i).serves with
    | false =>
      rw [if_pos rfl, reportOf_idle hs]
      rfl
    | true =>
      rw [if_neg (fun hno => (nomatch hno))]
      unfold reportOf
      rw [if_neg (by rw [hs]; exact fun hno => (nomatch hno))]
      cases (trackedPatch s.store.cues n i).map (·.1) with
      | none => rfl
      | some p =>
        dsimp only
        split
        · rfl
        · split
          · rfl
          · split <;> rfl

theorem sameFor_stationRebuild {n : CueNo} {s : State} (h : s.stations.length = 6) (i : Fin 6) :
    SameFor i (stationRebuild n i s) (eachStation (stationRebuild n) s) := by
  refine sameFor_eachStation (f := stationRebuild n) i (fun a b hab => ?_) (fun j a hij hlen => ?_) h
  · have e : stationRebuild n i b = startSwitch i (some n) ((trackedPatch a.store.cues n i).map (·.1)) none true b := by
      rw [stationRebuild, hab.store]
    rw [e]
    exact hab.startSwitch (some n) ((trackedPatch a.store.cues n i).map (·.1)) none true
  · exact sameFor_startSwitch_other hij (some n) ((trackedPatch a.store.cues n j).map (·.1)) none true hlen

/-- The Sequencer's and the overlay's part of a fresh rebuild, ahead of the hand-over. -/
def rebuildLed (n : CueNo) (s : State) : State :=
  { s with
    seq := { s.seq with current := some n, pointer := none, latch := none, timer := .idle }
    video := { s.video with content := { s.video.content with standby := none } } }

theorem sequencerRebuild_eq (n : CueNo) (s : State) : sequencerRebuild n s = handOver (rebuildLed n s) := rfl

theorem accountGoes_led {r : ResumePoint} {b v : State} (n : CueNo) (h : AccountGoes r b v) :
    AccountGoes r { b with video := { b.video with content := { b.video.content with standby := none } } }
      (handOver (rebuildLed n v)) := by
  obtain ⟨st, att, he, -, hatt⟩ := handOver_eq (rebuildLed n v)
  rw [he]
  obtain ⟨hstop, hvideo, hnow, hst⟩ := h
  refine ⟨hstop, ?_, hnow, ?_⟩
  · exact congrArg (fun x : Video => { x with content := { x.content with standby := none } }) hvideo
  · have h2 : att[2]? = v.attention[2]? := hatt 2 (by decide)
    exact hst.imp (fun ⟨hr, ha⟩ => ⟨hr, h2.trans ha⟩) fun ⟨hr, hq, ha⟩ => ⟨hr, hq, h2.trans ha⟩

/-- What is left of a state once the parts that a fresh rebuild writes are put back. -/
def putBack (s x : State) : State :=
  { x with stop := s.stop, clock := s.clock, channels := s.channels, seq := s.seq, video := s.video,
           stations := s.stations, attention := s.attention }

theorem retargeted_switch {x y : Station} (h : Retargeted x y) : y.switch = x.switch := by
  have hsw := congrArg (fun st : Station => st.switch) h.1
  exact hsw

/-- A fresh rebuild with a resume point is the one that the obligations state. -/
theorem freshRebuild_rebuilt {r : ResumePoint} {s : State} (h : s.stop.resume = some r) : RebuiltFor r s (freshRebuild s) := by
  rw [freshRebuild_eq h, sequencerRebuild_eq]
  have hb : AccountGoes r (rebuildBegun r.cue s) (rebuildBegun r.cue s) := accountGoes_refl rfl rfl
  have hgoes := fun i => eachRebuild_goes (n := r.cue) (b := rebuildBegun r.cue s) h hb i
  have hframe := stationsAndAccount_eachStation (f := stationRebuild r.cue)
    (fun i s => stationsAndAccount_startSwitch i _ _ _ _ s) (rebuildBegun r.cue s)
  have hstations := fun hlen i => sameFor_stationRebuild (n := r.cue) (s := rebuildBegun r.cue s) hlen i
  generalize eachStation (stationRebuild r.cue) (rebuildBegun r.cue s) = v at *
  obtain ⟨hseq, hstore, hclock, -, hchannels, -, -, -, -, -, -, -⟩ := hframe.rest
  obtain ⟨hg, hacc, hst⟩ := accountGoes_ready (by exact h) (accountGoes_led r.cue (hgoes 0).1)
  have hhanded := fun i => targetsHanded_handOver i (rebuildLed r.cue v)
  have hretargeted := fun i => retargeted_handOver i (rebuildLed r.cue v)
  obtain ⟨hkeeps, -, -, hconditions⟩ := evaluateReady_frame (handOver (rebuildLed r.cue v))
  obtain ⟨st, att, he, hlen, hatt⟩ := handOver_eq (rebuildLed r.cue v)
  rw [he] at hkeeps hhanded hretargeted hconditions hacc hst hg ⊢
  generalize hw : ({ rebuildLed r.cue v with
      seq := { (rebuildLed r.cue v).seq with ahead := lookAhead (rebuildLed r.cue v) }
      stations := st
      attention := att } : State) = w at *
  have p : ∀ {α : Type} (f : State → α), _ := fun f => congrArg f hkeeps
  generalize evaluateReady w = u at *
  have hwseq : w.seq = { s.seq with
      current := some r.cue
      pointer := none
      latch := none
      timer := .idle
      ahead := lookAhead (rebuildLed r.cue v) } := by
    rw [← hw]
    exact congrArg (fun q : Sequencer => { q with
      current := some r.cue, pointer := none, latch := none, timer := .idle, ahead := lookAhead (rebuildLed r.cue v) }) hseq
  have hwaccount : w.stop.account = v.stop.account := by rw [← hw]; rfl
  have huseq : u.seq = w.seq := p (·.seq)
  have hustore : u.store = v.store := (p (·.store)).trans (by rw [← hw]; rfl)
  have hustation (i : Fin 6) : u.station i = w.station i := station_congr (p (·.stations)) i
  obtain ⟨hgstop, hgvideo, -, hgready⟩ := hg
  refine ⟨?_, ?_, ?_, fun hl i => ?_, ?_, ?_, fun hwords i => ?_, fun hl i => ?_, ?_, fun k h1 h2 => ?_, ?_⟩
  · exact (p (·.clock)).trans ((by rw [← hw]; rfl : w.clock = v.clock).trans hclock)
  · exact (p (·.channels)).trans ((by rw [← hw]; rfl : w.channels = v.channels).trans hchannels)
  · have hahead : lookAhead u = lookAhead (rebuildLed r.cue v) := lookAhead_congr hustore (by rw [huseq, hwseq]; rfl)
      (by rw [huseq, hwseq]; rfl) (by rw [huseq, hwseq]; exact (congrArg (·.settings) hseq).symm)
    rw [hahead, huseq, hwseq]
  · obtain ⟨⟨ha, hs⟩, -⟩ := hhanded i (hframe.2.2.2.1.trans hl)
    refine ⟨?_, ?_⟩
    · rw [hustation, ha, huseq, hustore, ← hw]
      rfl
    · rw [hustation, hs, huseq, hustore, ← hw]
      rfl
  · have hst' : u.stop.st = if u.stop.account.any Account.blocks then .rebuilding else .ready := by rw [hacc]; exact hst
    rw [← hst', ← h]
    exact hgstop
  · exact hgvideo
  · have hword : (s.stop.words.map accountOf)[i.val]? = some (accountOf (s.words i)) := by
      have hi : i.val < s.stop.words.length := by omega
      simp [State.words, List.getD_eq_getElem?_getD, List.getElem?_eq_getElem hi]
    rw [hacc, hwaccount, (hgoes i).2, entryAfterRebuild_eq]
    exact congrArg (Option.map _) hword
  · obtain ⟨hidle, hnone, hsome⟩ := startSwitch_switch (i := i) (cue := some r.cue)
      (target := (trackedPatch s.store.cues r.cue i).map (·.1)) (fireTime := none) (s := rebuildBegun r.cue s) hl
    have hswitch : (u.station i).switch = ((stationRebuild r.cue i (rebuildBegun r.cue s)).station i).switch :=
      (congrArg (·.switch) (hustation i)).trans ((retargeted_switch (hretargeted i)).trans
        (congrArg (·.switch) (hstations hl i).station))
    rw [hswitch]
    refine ⟨fun hs => congrArg (·.switch) (hidle hs), fun hs ht => hnone hs ht, fun q hs ht => ?_⟩
    exact hsome q hs ht
  · rcases hgready with ⟨hr, ha⟩ | ⟨hr, -, ha⟩
    · rw [if_neg (by rw [hr]; exact fun hno => (nomatch hno))]
      exact ha
    · rw [if_pos hr]
      exact ha
  · exact (hconditions k h2).trans (((by rw [← hw] : w.attention[k]? = att[k]?).trans (hatt k h1)).trans
      (hframe.2.2.2.2.1 k h1 h2))
  · have h₁ := congrArg (putBack s) hkeeps
    have h₂ : putBack s w = putBack s v := by rw [← hw]; rfl
    have h₃ := congrArg (putBack s) hframe.1
    exact h₁.trans (h₂.trans h₃)

end Sys2Proof.Proofs

namespace Sys2Proof.Proofs

open Sys2Proof Sys2Proof.Machine

/-! ## A rebuild again (R168) -/

/-- The parts that a rebuild taken again leaves, a rebuild going on or not. -/
theorem rebuildAgain_keeps (m : State) : putBack m (rebuildAgain m) = m
    ∧ ∀ k, k ≠ 1 → k ≠ 2 → (rebuildAgain m).attention[k]? = m.attention[k]? := by
  have kept : putBack m m = m ∧ ∀ k, k ≠ 1 → k ≠ 2 → m.attention[k]? = m.attention[k]? := ⟨rfl, fun _ _ _ => rfl⟩
  unfold rebuildAgain
  split
  · cases h : m.stop.resume with
    | none =>
      have e : freshRebuild m = m := by
        unfold freshRebuild
        rw [h]
      rw [e]
      exact kept
    | some r =>
      obtain ⟨-, -, -, -, -, -, -, -, -, hconditions, hrest⟩ := freshRebuild_rebuilt h
      exact ⟨hrest, hconditions⟩
  · exact kept

theorem rebuildAgain_outside {m : State} (h : m.stop.st.rebuilds = false) : rebuildAgain m = m := by
  rw [rebuildAgain, if_neg (by rw [h]; exact Bool.false_ne_true)]

/-- An event of R168 in `s`, by which the blocks have come to `m`. -/
theorem rebuildAgain_rebuilds {s m : State} (hst : m.stop.st.rebuilds = s.stop.st.rebuilds) (hres : m.stop.resume = s.stop.resume) :
    RebuildsAgain s m (rebuildAgain m) := by
  refine ⟨fun h => rebuildAgain_outside (hst.trans h), fun h r hr => ?_⟩
  rw [rebuildAgain, if_pos (hst.trans h)]
  exact freshRebuild_rebuilt (hres.trans hr)

/-! ## The Sequencer's part of a list-changed notice (R105) -/

/-- A pointer to a cue that is gone becomes IMPLICIT. -/
def pointerKept (s : State) : State :=
  s.setSeq fun q => { q with pointer := q.pointer.filter fun n => (findCue s.store.cues n).isSome }

/-- The Sequencer and the overlay behind a list-changed notice, ahead of the hand-over. -/
def noticedBy (before : Option CueNo) (change : ListChange) (s : State) : State :=
  { s with
    seq := { (pointerKept s).seq with
      latch := if nextCue (pointerKept s) = before then s.seq.latch else none
      timer :=
        if nextCue (pointerKept s) = before then
          (if timerSpoiled s.store.cues change s.seq.timer then .idle else s.seq.timer)
        else if s.seq.timer.cue = nextCue (pointerKept s) then s.seq.timer else .idle }
    video := { s.video with content := { s.video.content with
      standby := if nextCue (pointerKept s) = before then s.video.content.standby else none } } }

theorem sequencerListChanged_eq (before : Option CueNo) (change : ListChange) (s : State) :
    sequencerListChanged before change s = handOver (noticedBy before change s) := by
  unfold sequencerListChanged
  rw [show s.setSeq (fun q => { q with pointer := q.pointer.filter fun n => (findCue s.store.cues n).isSome }) = pointerKept s from rfl]
  by_cases h : nextCue (pointerKept s) = before
  · simp only [if_pos h]
    refine congrArg handOver ?_
    unfold noticedBy
    simp only [if_pos h]
    rfl
  · simp only [if_neg h]
    refine congrArg handOver ?_
    unfold noticedBy
    simp only [if_neg h]
    rfl

/-- A list-changed notice of an edit that has made the store `x` of `s`. -/
theorem sequencerListChanged_taken (change : ListChange) (s : State) (x : CueStore) :
    NoticeTaken change s (sequencerListChanged (nextCue s) change { s with store := x }) := by
  rw [sequencerListChanged_eq]
  generalize hm : noticedBy (nextCue s) change { s with store := x } = m
  have hhanded := fun i => targetsHanded_handOver i m
  obtain ⟨st, att, he, -, hatt⟩ := handOver_eq m
  rw [he] at hhanded ⊢
  generalize hu : ({ m with seq := { m.seq with ahead := lookAhead m }, stations := st, attention := att } : State) = u at *
  have hnext : nextCue (pointerKept { s with store := x }) = nextCue u := by
    rw [← hu, ← hm]
    exact nextCue_congr rfl rfl rfl
  have hahead : lookAhead m = lookAhead u := by
    rw [← hu]
    exact lookAhead_congr rfl rfl rfl rfl
  have hmseq : m.seq = { s.seq with
      pointer := s.seq.pointer.filter fun n => (findCue x.cues n).isSome
      latch := if nextCue u = nextCue s then s.seq.latch else none
      timer :=
        if nextCue u = nextCue s then (if timerSpoiled x.cues change s.seq.timer then .idle else s.seq.timer)
        else if s.seq.timer.cue = nextCue u then s.seq.timer else .idle } := by
    rw [← hm, ← hnext]
    rfl
  have hustore : u.store = x := by
    rw [← hu, ← hm]
    rfl
  refine ⟨?_, ?_, fun i => ?_, fun k hk => ?_, ?_⟩
  · have huseq : u.seq = { m.seq with ahead := lookAhead m } := by rw [← hu]
    rw [← hahead, hustore, huseq]
    exact congrArg (fun q : Sequencer => { q with ahead := lookAhead m }) hmseq
  · rw [← hnext, ← hu, ← hm]
    rfl
  · exact (hhanded i).from (fun h => by rw [← hm]; exact h) (fun _ => by rw [← hm]; rfl) (by rw [← hm]; rfl) (by rw [← hm]; rfl)
  · rw [← hu]
    exact (hatt k hk).trans (by rw [← hm]; rfl)
  · rw [← hu, ← hm]
    rfl

/-! ## CUE PUT and CUE DELETE accepted (R71, R74, R76, R77) -/

/-- The notice of an edit leaves the list, the time and what belongs to no block that it reaches. -/
theorem listChanged_taken (change : ListChange) (s : State) (x : CueStore) :
    ∃ u, listChanged (nextCue s) change { s with store := x } = u ∧ u.store = x ∧ u.now = s.now ∧ u.map = s.map
      ∧ u.flash = s.flash ∧ u.follower = s.follower ∧ u.desk = s.desk ∧ u.link = s.link ∧ u.pending = s.pending
      ∧ (∀ k, k ≠ 1 → k ≠ 2 → u.attention[k]? = s.attention[k]?)
      ∧ ∃ m, NoticeTaken change s m ∧ RebuildsAgain s m u := by
  have hnotice := sequencerListChanged_taken change s x
  have hstore : (sequencerListChanged (nextCue s) change { s with store := x }).store = x := by
    rw [sequencerListChanged_eq, handOver_store]
    rfl
  have hlink : (sequencerListChanged (nextCue s) change { s with store := x }).link = s.link := by
    obtain ⟨st, att, he, -⟩ := handOver_eq (noticedBy (nextCue s) change { s with store := x })
    rw [sequencerListChanged_eq, he]
    rfl
  refine ⟨_, rfl, ?_⟩
  rw [listChanged]
  generalize sequencerListChanged (nextCue s) change { s with store := x } = m at *
  obtain ⟨hkeeps, hconditions⟩ := rebuildAgain_keeps m
  have hnotice' := hnotice
  obtain ⟨-, -, -, hatt, hrest⟩ := hnotice'
  have p : ∀ {α : Type} (f : State → α), _ := fun f => congrArg f hkeeps
  have q : ∀ {α : Type} (f : State → α), _ := fun f => congrArg f hrest
  have hstop : m.stop = s.stop := q (·.stop)
  refine ⟨(p (·.store)).trans hstore, (p (·.now)).trans (q (·.now)), (p (·.map)).trans (q (·.map)),
    (p (·.flash)).trans (q (·.flash)), (p (·.follower)).trans (q (·.follower)), (p (·.desk)).trans (q (·.desk)),
    (p (·.link)).trans hlink, (p (·.pending)).trans (q (·.pending)), fun k h1 h2 => (hconditions k h1 h2).trans (hatt k h1),
    m, hnotice, rebuildAgain_rebuilds (by rw [hstop]) (by rw [hstop])⟩

theorem reqCuePut_taken {r : RawCue} {c : Cue} {s : State} (h : s.storing = false) (hr : readCue r = some c)
    (hw : putRefusal c s = none) : reqCuePut r s
      = (listChanged (nextCue s) (if (findCue s.store.cues c.number).isSome then .replaced c.number else .inserted) (putCue c s),
        okWith (countItems (putCue c s) ++ [.num 1 (findCue s.store.cues c.number).isSome.toNat])) := by
  simp only [reqCuePut, h, hr, hw, Bool.false_eq_true, if_false]

theorem reqCueDelete_taken {n : CueNo} {c : Cue} {s : State} (h : s.storing = false) (hn : cueNoOk n = true)
    (hp : protectsCue s.store.protect n = false) (hc : findCue s.store.cues n = some c) :
    reqCueDelete n s = (listChanged (nextCue s) .deleted (deleteCue c s), okWith (countItems (deleteCue c s))) := by
  simp only [reqCueDelete, h, hn, hp, hc, Bool.false_eq_true, if_false, Bool.not_true]

/-- Settles O13: an accepted edit as a write of the list, its notice, and the rebuild that follows the notice. -/
theorem cueEditsWriteTheList : Obligations.CueEditsWriteTheList := by
  unfold Obligations.CueEditsWriteTheList
  refine ⟨fun s t r c hs hstore hr hp hroom hpool => ?_, fun s t n c hs hstore hn hp hc => ?_⟩
  · have hnotFull : ¬((findCue s.store.cues c.number).isNone = true ∧ Config.maxCues ≤ s.store.cueCount) := by
      rintro ⟨h₁, h₂⟩
      rcases hroom with hroom | hroom
      · rw [Option.isNone_iff_eq_none.mp h₁] at hroom
        exact absurd hroom Bool.false_ne_true
      · exact absurd h₂ (Nat.not_le.mpr hroom)
    have hpool' : ¬Config.maxPool < poolAfterPut c (s.goTo t) := Nat.not_lt.mpr hpool
    have hw : putRefusal c (s.goTo t) = none := by
      simp only [putRefusal, State.goTo_store, hp, if_neg hnotFull, if_neg hpool', Bool.false_eq_true, if_false]
    obtain ⟨u, hu, hustore, hnow, hmap, hflash, hfollower, hdesk, hlink, hpending, hatt, hm⟩ := listChanged_taken
      (if (findCue s.store.cues c.number).isSome then .replaced c.number else .inserted) (s.goTo t) (putCue c (s.goTo t)).store
    have hf : reqCuePut r (s.goTo t) = (u, okWith (countItems (putCue c (s.goTo t))
        ++ [.num 1 (findCue s.store.cues c.number).isSome.toNat])) := by
      rw [← hu]
      exact reqCuePut_taken (s := s.goTo t) hstore hr hw
    refine ⟨u, (exec_answered hs rfl hf).trans ?_, fun n => ?_, ?_, ?_, ?_, hnow, hmap, hflash, hfollower, hdesk, hlink, hpending,
      hatt, hm⟩
    · rw [hustore]
      cases (findCue s.store.cues c.number).isSome <;> rfl
    all_goals rw [hustore]
    · refine (findCue_placeCue c s.store.cues n).trans ?_
      split_ifs with h₁ h₂ h₂
      · rfl
      · exact absurd h₁.symm h₂
      · exact absurd h₂.symm h₁
      · rfl
    · rfl
    · rfl
    · rfl
  · obtain ⟨u, hu, hustore, hnow, hmap, hflash, hfollower, hdesk, hlink, hpending, hatt, hm⟩ := listChanged_taken
      .deleted (s.goTo t) (deleteCue c (s.goTo t)).store
    have hf : reqCueDelete n (s.goTo t) = (u, okWith (countItems (deleteCue c (s.goTo t)))) := by
      rw [← hu]
      exact reqCueDelete_taken (s := s.goTo t) hstore hn hp hc
    obtain ⟨-, hnumber⟩ := findCue_some hc
    refine ⟨u, (exec_answered hs rfl hf).trans ?_, fun m => ?_, ?_, ?_, ?_, hnow, hmap, hflash, hfollower, hdesk, hlink, hpending,
      hatt, hm⟩
    all_goals rw [hustore]
    · rfl
    · refine (findCue_removeCue c.number s.store.cues m).trans ?_
      rw [hnumber]
      split_ifs with h₁ h₂ h₂
      · rfl
      · exact absurd h₁.symm h₂
      · exact absurd h₂.symm h₁
      · rfl
    · rfl
    · rfl
    · rfl

end Sys2Proof.Proofs

namespace Sys2Proof.Proofs

open Sys2Proof Sys2Proof.Machine

/-! ## The patch map as a finite map (R117, R118) -/

theorem findMap_some {map : List MapEntry} {a b : Nat} {e : MapEntry} (h : findMap map a b = some e) :
    e.station = a ∧ e.patch = b := by
  have hkey := List.find?_some h
  simpa using hkey

theorem findMap_placeMap (e : MapEntry) (map : List MapEntry) (a b : Nat) :
    findMap (placeMap e map) a b = if a = e.station ∧ b = e.patch then some e else findMap map a b := by
  have hkey : ∀ d : MapEntry, (d.station == a && d.patch == b) = true ↔ d.station = a ∧ d.patch = b := fun d => by simp
  unfold placeMap
  by_cases hs : (findMap map e.station e.patch).isSome = true
  · rw [if_pos hs]
    generalize hf : (fun d : MapEntry => if d.station = e.station ∧ d.patch = e.patch then e else d) = f
    have hkept : ∀ d, (f d).station = d.station ∧ (f d).patch = d.patch := by
      intro d
      rw [← hf]
      by_cases hd : d.station = e.station ∧ d.patch = e.patch
      · simp only [if_pos hd]
        exact ⟨hd.1.symm, hd.2.symm⟩
      · simp only [if_neg hd, and_self]
    have hcomp : (fun d : MapEntry => d.station == a && d.patch == b) ∘ f = fun d => d.station == a && d.patch == b := by
      funext d
      simp only [Function.comp, hkept]
    have hfind : findMap (map.map f) a b = (findMap map a b).map f := by
      rw [findMap, List.find?_map, hcomp]
      rfl
    rw [hfind]
    by_cases hab : a = e.station ∧ b = e.patch
    · obtain ⟨d, hd⟩ := Option.isSome_iff_exists.mp hs
      have hown := findMap_some hd
      rw [if_pos hab, hab.1, hab.2, hd, Option.map_some, ← hf]
      exact congrArg some (if_pos hown)
    · rw [if_neg hab]
      cases hd : findMap map a b with
      | none => rfl
      | some d =>
        obtain ⟨h₁, h₂⟩ := findMap_some hd
        rw [Option.map_some, ← hf]
        exact congrArg some (if_neg (by rw [h₁, h₂]; exact hab))
  · rw [if_neg hs, findMap, List.find?_append, List.find?_singleton]
    by_cases hab : a = e.station ∧ b = e.patch
    · have hnone : findMap map a b = none := by rw [hab.1, hab.2]; exact Option.not_isSome_iff_eq_none.mp hs
      have hown := (hkey e).mpr ⟨hab.1.symm, hab.2.symm⟩
      rw [findMap] at hnone
      rw [hnone, if_pos hab, if_pos hown]
      rfl
    · have hother : ¬(e.station == a && e.patch == b) = true := fun h => hab ⟨((hkey e).mp h).1.symm, ((hkey e).mp h).2.symm⟩
      rw [if_neg hab, if_neg hother, Option.or_none]
      rfl

theorem findMap_removeMap (station patch : Nat) (map : List MapEntry) (a b : Nat) :
    findMap (removeMap station patch map) a b = if a = station ∧ b = patch then none else findMap map a b := by
  rw [findMap, removeMap, List.find?_filter]
  by_cases hab : a = station ∧ b = patch
  · rw [if_pos hab, hab.1, hab.2, List.find?_eq_none]
    intro d _ hd
    obtain ⟨hother, hown⟩ := of_decide_eq_true hd
    rw [hown] at hother
    exact Bool.false_ne_true hother
  · rw [if_neg hab, findMap]
    refine congrArg (fun f => List.find? f map) (funext fun d => ?_)
    by_cases hd : d.station = a ∧ d.patch = b
    · by_cases h₁ : a = station
      · have h₂ : b ≠ patch := fun h₂ => hab ⟨h₁, h₂⟩
        simp [hd.1, hd.2, h₂]
      · simp [hd.1, hd.2, h₁]
    · have hf : (d.station == a && d.patch == b) = false := by simpa using hd
      simp [hf]

/-! ## The map-changed notice at the key's station (R119) -/

/-- A station's slots after a notice for the patch `p`. -/
def noticed (p : Nat) (st : Station) : Station :=
  { st with slots := st.slots.mapIdx fun j sl => noticedSlot st p (j + 1) sl }

/-- A station whose unsent SELECT and cold load have left their places. -/
def placesCleared (st : Station) : Station := { st with selectPlace := none, loadPlace := none }

/-- What a notice for `p` does to the switch of a station, once its slots have taken it. -/
def switchNoticed (i : Fin 6) (p : Nat) (deleted : Bool) (s : State) : State :=
  match (s.station i).switch.filter fun w => w.patch == p with
  | none => s
  | some _ =>
    if deleted then missSwitch i .unmapped (s.setStation i placesCleared)
    else becomeCold i s

section

variable {i : Fin 6} {s : State} {p : Nat}

theorem stationMapChanged_eq (deleted : Bool) : stationMapChanged i p deleted s
    = recompute false i (switchNoticed i p deleted (stationAs i (noticed p (s.station i)) s)) := by
  rw [← setStation_as]
  rfl

theorem switchNoticed_keeps {x : Station} (h : s.stations.length = 6) (hw : ∀ w, x.switch = some w → w.patch ≠ p)
    (deleted : Bool) : switchNoticed i p deleted (stationAs i x s) = stationAs i x s := by
  have hnone : x.switch.filter (fun w => w.patch == p) = none :=
    Option.filter_eq_none_iff.mpr fun w hsw he => hw w hsw (beq_iff_eq.mp he)
  rw [switchNoticed, station_as h, hnone]

theorem switchNoticed_own {x : Station} {w : Switch} (h : s.stations.length = 6) (hw : x.switch = some w) (hp : w.patch = p)
    (deleted : Bool) : switchNoticed i p deleted (stationAs i x s)
      = if deleted then missSwitch i .unmapped (stationAs i (placesCleared x) s) else stationAs i (coldened x) s := by
  have hsome : x.switch.filter (fun w => w.patch == p) = some w := by
    rw [hw, Option.filter_some, if_pos (beq_iff_eq.mpr hp)]
  rw [switchNoticed, station_as h, hsome]
  dsimp only
  rw [becomeCold, setStation_stationAs h, setStation_stationAs h]
  rfl

/-- A notice leaves everything of a station but its slots, its switch and the two places, its preload and its faults. -/
def NoticeShown (p : Nat) (x y : Station) : Prop :=
  { y with switch := x.switch, lastSwitch := x.lastSwitch, selectPlace := x.selectPlace, loadPlace := x.loadPlace
           preload := x.preload, faults := x.faults } = noticed p x

theorem noticedSlot_eq (st : Station) (k : Nat) (sl : Slot) : noticedSlot st p k sl
    = if sl.holds p = false then sl
      else if sl.st = .loading then { sl with stale := true }
      else if st.isCurrent k = true ∨ st.outSelect.map (·.slot) = some k then { sl with stale := true, patch := none }
      else Slot.blank := by
  unfold noticedSlot
  cases hh : sl.holds p with
  | false => rfl
  | true =>
    simp only [if_true, Bool.true_eq_false, if_false]
    cases hst : sl.st <;> simp [Bool.or_eq_true, beq_iff_eq]

/-- The slots of a station that a notice for `p` has reached, and a recompute after it. -/
theorem slotsNoticed_after {m : State} {y : Station} (hy : NoticeShown p (s.station i) y)
    (hfree : (∀ w, (s.station i).switch = some w → w.patch ≠ p) → y = noticed p (s.station i))
    (hm : ({ m.station i with failed := y.failed } : Station).settled = y.settled) : SlotsNoticed i p s m := by
  have a : ∀ {α : Type} (f : Station → α), _ := fun f => congrArg f hm
  have b : ∀ {α : Type} (f : Station → α), _ := fun f => congrArg f hy
  have hslots : (m.station i).slots = (noticed p (s.station i)).slots := (a (·.slots)).trans (b (·.slots))
  refine ⟨?_, fun k h1 hk => ?_, (a (·.outLoad)).trans (b (·.outLoad)), (a (·.outSelect)).trans (b (·.outSelect)),
    (a (·.selected)).trans (b (·.selected)), (a (·.silence)).trans (b (·.silence)), (a (·.hostPins)).trans (b (·.hostPins)),
    (a (·.victim)).trans (b (·.victim)), fun hw => ?_⟩
  · rw [hslots, noticed, List.length_mapIdx]
  · have hlt : k - 1 < (s.station i).slots.length := by omega
    have hpred : k - 1 + 1 = k := by omega
    rw [← noticedSlot_eq]
    unfold Station.slot
    rw [hslots, noticed, List.getD_eq_getElem?_getD, List.getElem?_mapIdx, List.getD_eq_getElem?_getD,
      List.getElem?_eq_getElem hlt, hpred]
    rfl
  · rw [hfree hw] at a
    exact ⟨a (·.switch), a (·.lastSwitch), a (·.selectPlace), a (·.loadPlace)⟩

end

/-! ## A MISSED switch in a rebuild that is sound -/

theorem evaluateReady_sound {s : State} (h : s.stop.st = if s.stop.account.any Account.blocks then .rebuilding else .ready) :
    evaluateReady s = s := by
  unfold evaluateReady
  by_cases hb : s.stop.account.any Account.blocks = true
  · rw [if_pos hb] at h
    rw [h]
    cases s.stop.resume with
    | none => rfl
    | some r => exact if_pos hb
  · rw [if_neg hb] at h
    rw [h]
    exact if_neg hb

theorem any_modify {α : Type} {test : α → Bool} {f : α → α} (hf : ∀ a, test (f a) = test a) (l : List α) (n : Nat) :
    (l.modify n f).any test = l.any test := by
  induction l generalizing n with
  | nil => rw [List.modify_nil]
  | cons a l ih =>
    cases n with
    | zero => rw [List.modify_zero_cons, List.any_cons, List.any_cons, hf]
    | succ n => rw [List.modify_succ_cons, List.any_cons, List.any_cons, ih]

/-- A FAILED report takes the place of a PENDING entry, and readiness stays. -/
theorem reportEnd_missed {s : State} (h : s.RebuildSound) (i : Fin 6) (mark : Bool) :
    ∃ a, reportEnd i mark .missed s = { s with stop := { s.stop with account := a } } := by
  cases mark with
  | false => exact ⟨s.stop.account, rfl⟩
  | true =>
    change ∃ a, reportSwitch i false s = _
    unfold reportSwitch setAccount
    by_cases hr : s.stop.st.rebuilds = true
    · rw [if_pos hr]
      refine ⟨_, evaluateReady_sound ?_⟩
      dsimp only
      rw [any_modify fun a => by cases a <;> rfl]
      exact (h hr).1
    · rw [if_neg hr]
      exact ⟨s.stop.account, rfl⟩

/-! ## MAP PUT and MAP DELETE accepted (R117 to R119) -/

section

variable {i : Fin 6} {s : State} {p : Nat}

/-- The notice of a MAP PUT. -/
theorem stationMapChanged_put (h : s.stations.length = 6) : OnlyStationAndFault i s (stationMapChanged i p false s)
    ∧ SlotsNoticed i p s (stationMapChanged i p false s)
    ∧ ∀ w, (s.station i).switch = some w → w.patch = p →
      ((stationMapChanged i p false s).station i).selectPlace = none
        ∧ ((stationMapChanged i p false s).station i).loadPlace = some p
        ∧ ((stationMapChanged i p false s).station i).switch = some { w with kind := .cold, stage := .coldHeld }
        ∧ ((stationMapChanged i p false s).station i).lastSwitch = (s.station i).lastSwitch := by
  rw [stationMapChanged_eq]
  by_cases hw : ∀ w, (s.station i).switch = some w → w.patch ≠ p
  · rw [switchNoticed_keeps (x := noticed p (s.station i)) h hw]
    have r := recompute_spec false i (s := stationAs i (noticed p (s.station i)) s) ((stationAs_length _ _ _).trans h)
    have hst := r.station
    rw [station_as h] at hst
    exact ⟨recompute_frame h false _, slotsNoticed_after (y := noticed p (s.station i)) rfl (fun _ => rfl) hst, fun w hsw hp => absurd hp (hw w hsw)⟩
  · obtain ⟨w, hsw, hp⟩ : ∃ w, (s.station i).switch = some w ∧ w.patch = p := by
      by_contra hno
      exact hw fun w hsw hp => hno ⟨w, hsw, hp⟩
    rw [switchNoticed_own (x := noticed p (s.station i)) h hsw hp, if_neg Bool.false_ne_true]
    generalize hy : coldened (noticed p (s.station i)) = y
    have r := recompute_spec false i (s := stationAs i y s) ((stationAs_length _ _ _).trans h)
    have hst := r.station
    rw [station_as h] at hst
    have hown : y = { noticed p (s.station i) with
        selectPlace := none
        loadPlace := some w.patch
        preload := false
        switch := some { w with kind := .cold, stage := .coldHeld } } := hy.symm.trans (coldened_switch hsw)
    have hframe := recompute_frame (i := i) h false y
    generalize recompute false i (stationAs i y s) = m at *
    refine ⟨hframe, slotsNoticed_after (by rw [hown]; rfl) (fun hno => absurd hp (hno w hsw)) hst,
      fun v hv _ => ?_⟩
    have a : ∀ {α : Type} (f : Station → α), _ := fun f => congrArg f hst
    rw [hown] at a
    subst hp
    rw [hsw] at hv
    obtain rfl := Option.some.inj hv
    exact ⟨a (·.selectPlace), a (·.loadPlace), a (·.switch), a (·.lastSwitch)⟩

/-- The notice of a MAP DELETE. -/
theorem stationMapChanged_delete (h : s.stations.length = 6) (hr : s.RebuildSound) :
    { (stationMapChanged i p true s).stop with account := s.stop.account } = s.stop
    ∧ OnlyStationAndFault i s { stationMapChanged i p true s with stop := s.stop }
    ∧ SlotsNoticed i p s (stationMapChanged i p true s)
    ∧ ∀ w, (s.station i).switch = some w → w.patch = p →
      ((stationMapChanged i p true s).station i).selectPlace = none
        ∧ ((stationMapChanged i p true s).station i).loadPlace = none
        ∧ ((stationMapChanged i p true s).station i).switch = none
        ∧ ((stationMapChanged i p true s).station i).lastSwitch = some
          { cue := w.cue, patch := some p, kind := w.kind, outcome := .missed, lateness := none }
        ∧ ((stationMapChanged i p true s).station i).faults.first = faultAfter i .unmapped w.cue (some p) s s.now := by
  rw [stationMapChanged_eq]
  by_cases hw : ∀ w, (s.station i).switch = some w → w.patch ≠ p
  · rw [switchNoticed_keeps (x := noticed p (s.station i)) h hw]
    have r := recompute_spec false i (s := stationAs i (noticed p (s.station i)) s) ((stationAs_length _ _ _).trans h)
    have hst := r.station
    rw [station_as h] at hst
    have hframe := recompute_frame (i := i) h false (noticed p (s.station i))
    have hstop := onlyStationAndFault_stop hframe
    refine ⟨by rw [hstop], ?_, slotsNoticed_after (y := noticed p (s.station i)) rfl (fun _ => rfl) hst, fun w hsw hp => absurd hp (hw w hsw)⟩
    exact onlyStationAndFault_beside hframe _
  · obtain ⟨w, hsw, hp⟩ : ∃ w, (s.station i).switch = some w ∧ w.patch = p := by
      by_contra hno
      exact hw fun w hsw hp => hno ⟨w, hsw, hp⟩
    rw [switchNoticed_own (x := noticed p (s.station i)) h hsw hp, if_pos rfl,
      missSwitch_left (x := placesCleared (noticed p (s.station i))) h hsw]
    obtain ⟨a, ha⟩ := reportEnd_missed hr i w.rebuild
    rw [ha]
    generalize hz : ({ s with stop := { s.stop with account := a } } : State) = z
    generalize hy : faulted { kind := .unmapped, cue := w.cue, patch := some w.patch, time := s.now }
      (switchEnded w .missed none (placesCleared (noticed p (s.station i)))) = y
    have hzl : z.stations.length = 6 := by
      rw [← hz]
      exact h
    have hx : (raise (.stationFault i .unmapped) (stationAs i y z)).station i = y := station_as hzl y
    have r := recompute_spec false i (s := raise (.stationFault i .unmapped) (stationAs i y z)) ((stationAs_length i y z).trans hzl)
    have hst := r.station
    rw [hx] at hst
    have hframe := ((onlyStation_as (i := i) (s := z) y).andFault.trans (onlyStationAndFault_raise i .unmapped _)).trans r.frame
    have hstop := onlyStationAndFault_stop hframe
    have hbeside := onlyStationAndFault_beside hframe s.stop
    have hfirst : ∀ f, y.faults.first = some f → _ := fun f hf => r.first f (by rw [hx]; exact hf)
    generalize recompute false i (raise (.stationFault i .unmapped) (stationAs i y z)) = m at *
    refine ⟨by rw [hstop, ← hz], ?_, slotsNoticed_after (by rw [← hy]; rfl) (fun hno => absurd hp (hno w hsw)) hst,
      fun v hv _ => ?_⟩
    · rw [← hz] at hbeside
      exact hbeside
    · rw [hsw] at hv
      obtain rfl := Option.some.inj hv
      have b : ∀ {α : Type} (f : Station → α), _ := fun f => congrArg f hst
      obtain ⟨f, hf⟩ := faultAfter_some i .unmapped w.cue (some p) s s.now
      have hown : y.faults.first = faultAfter i .unmapped w.cue (some p) s s.now := by
        rw [← hy, hp]
        exact faulted_first .unmapped w.cue (some p) s.now rfl
      rw [← hy] at b
      subst hp
      refine ⟨b (·.selectPlace), b (·.loadPlace), b (·.switch), b (·.lastSwitch), ?_⟩
      rw [hf]
      exact hfirst f (hown.trans hf)

end

/-- Settles O15: an accepted edit as a write of the map, the notice at the key's station, and the rebuild that follows it. -/
theorem mapEditsWriteTheTable : Obligations.MapEditsWriteTheTable := by
  unfold Obligations.MapEditsWriteTheTable
  intro s t station patch i hs hlen hstore hstation hp hmode hsound
  have hok : stationOk station = true := (stationOk_iff station).mpr (by omega)
  have hw := mapEditRefusal_accepts (s := s.goTo t) hstore hok hp hmode
  have hi : ∀ hlt : station - 1 < 6, (⟨station - 1, hlt⟩ : Fin 6) = i := fun _ => Fin.ext (show station - 1 = i.val by omega)
  have again (m : State) (hst : m.stop.st = s.stop.st) (hres : m.stop.resume = s.stop.resume) :
      RebuildsAgain s m (rebuildAgain m) ∧ (rebuildAgain m).map = m.map := by
    refine ⟨rebuildAgain_rebuilds (by rw [hst]) hres, ?_⟩
    have hmap := congrArg (fun u : State => u.map) (rebuildAgain_keeps m).1
    exact hmap
  refine ⟨fun bank program load hbank hprogram hload hroom => ?_, fun hfound => ?_⟩
  · generalize he : ({ station := station, patch := patch, bank := bank, program := program, load := load } : MapEntry) = e
    have heok : mapEntryOk e = true := by
      rw [← he, mapEntryOk_iff]
      exact ⟨hok, hp, hbank, hprogram, hload⟩
    have hroom' : ¬((findMap s.map station patch).isNone = true ∧ Config.maxMap ≤ s.map.length) := by
      rintro ⟨hnone, hfull⟩
      rcases hroom with hroom | hroom
      · rw [Option.isNone_iff_eq_none.mp hnone] at hroom
        exact absurd hroom Bool.false_ne_true
      · exact absurd hfull (Nat.not_le.mpr hroom)
    have hf : reqMapPut station patch bank program load (s.goTo t)
        = (mapChanged i patch false { s.goTo t with map := placeMap e s.map }, okWith [.num 2 (placeMap e s.map).length]) := by
      rw [reqMapPut_of bank program load hw hok, he]
      dsimp only
      rw [heok, Bool.not_true, if_neg Bool.false_ne_true, hi]
      exact if_neg hroom'
    obtain ⟨hframe, hslots, hcold⟩ := stationMapChanged_put (i := i) (p := patch)
      (s := { s.goTo t with map := placeMap e s.map }) hlen
    rw [mapChanged] at hf
    generalize stationMapChanged i patch false { s.goTo t with map := placeMap e s.map } = m at *
    have hrest := hframe.2.2
    have hmap := congrArg (fun u : State => u.map) hrest
    have hstop := onlyStationAndFault_stop hframe
    obtain ⟨hagain, hkept⟩ := again m (by rw [hstop]; rfl) (by rw [hstop]; rfl)
    have hmap' : (rebuildAgain m).map = placeMap e s.map := hkept.trans hmap
    refine ⟨m, rebuildAgain m, ?_, hagain, fun a b => ?_, ?_, hkept.symm, ?_, hslots, hcold⟩
    · rw [hmap']
      exact exec_answered hs rfl hf
    · rw [hmap', findMap_placeMap, ← he]
    · rw [hmap', placeMap_length, ← he]
    · exact ⟨hframe.1, hframe.2.1, congrArg (fun u : State => { u with map := s.map }) hrest⟩
  · have hf : reqMapDelete station patch (s.goTo t) = (mapChanged i patch true
        { s.goTo t with map := removeMap station patch s.map }, okWith [.num 2 (removeMap station patch s.map).length]) := by
      have hsome : ¬(findMap s.map station patch).isNone = true := by
        rw [Option.isNone_iff_eq_none, ← ne_eq, Option.ne_none_iff_isSome]
        exact hfound
      rw [reqMapDelete_of hw hok, hi]
      exact if_neg hsome
    obtain ⟨hstop, hframe, hslots, hmissed⟩ := stationMapChanged_delete (i := i) (p := patch)
      (s := { s.goTo t with map := removeMap station patch s.map }) hlen hsound
    rw [mapChanged] at hf
    generalize stationMapChanged i patch true { s.goTo t with map := removeMap station patch s.map } = m at *
    have hrest := hframe.2.2
    have hmap := congrArg (fun u : State => u.map) hrest
    have hst := congrArg (fun c : StopController => c.st) hstop
    have hres := congrArg (fun c : StopController => c.resume) hstop
    obtain ⟨hagain, hkept⟩ := again m hst hres
    have hmap' : (rebuildAgain m).map = removeMap station patch s.map := hkept.trans hmap
    refine ⟨m, rebuildAgain m, ?_, hagain, hkept.symm, fun a b => ?_, hstop, ?_, hslots, hmissed⟩
    · rw [hmap']
      exact exec_answered hs rfl hf
    · rw [hmap', findMap_removeMap]
    · exact ⟨hframe.1, hframe.2.1, congrArg (fun u : State => { u with map := s.map }) hrest⟩

end Sys2Proof.Proofs

namespace Sys2Proof.Proofs

open Sys2Proof Sys2Proof.Machine

/-! ## A receiver whose gap takes a frame whole

The last part of O26 is about every state in a rebuild, the bytes of a station's receiver among it. No run leaves more than two
bytes there, and of so few the gap takes no frame whole; four bytes can hold a HELLO. A row of the rig on that station then has
the gap take the HELLO first, whose ONLINE word starts a fresh rebuild in REBUILDING and none in RUN (R168, R188). -/

/-- A part in REBUILDING, its first station in GREETING with a HELLO of two slots in its receiver. -/
def helloUnread : State :=
  { State.reset with
    powered := true
    loading := false
    stop := { State.reset.stop with st := .rebuilding, resume := some { cue := ⟨1, 0⟩, bar := 1 } }
    stations := State.reset.stations.modify 0 fun st =>
      { st with link := .greeting, receiver := some { bytes := [0xA5, 0x81, 2, 0x7D], last := 0 } } }

/-- The cue that the clock shows once a LOADED has come a second later. -/
def cueBehindLoaded (s : State) : Option CueNo :=
  match exec (.loaded 1000000 0 1) s with
  | .next u => u.clock.position.cue
  | _ => none

theorem cueBehindLoaded_next {s u : State} (h : exec (.loaded 1000000 0 1) s = .next u) :
    cueBehindLoaded s = u.clock.position.cue := by
  rw [cueBehindLoaded, h]

theorem cueBehindLoaded_rebuilding : cueBehindLoaded helloUnread = some ⟨1, 0⟩ := by decide +kernel

theorem cueBehindLoaded_run : cueBehindLoaded (withStop .run helloUnread) = none := by decide +kernel

/-- States that are alike beside a rebuild show the same cue on the clock. -/
theorem alike_cue {u v : State} (h : AlikeBesideRebuild u v) : u.clock.position.cue = v.clock.position.cue := by
  have e := congrArg (fun m : State => m.clock.position.cue) h.1
  exact e

/-- Refutes O26: in `helloUnread` a LOADED finds the gap of the bytes in reception passed, and the HELLO among them starts a
fresh rebuild, which makes the resume cue the clock's; with the stop state RUN the clock has no cue. -/
theorem not_rebuildAndReadiness : ¬ Obligations.RebuildAndReadiness := by
  unfold Obligations.RebuildAndReadiness
  rintro ⟨-, -, -, halike⟩
  obtain ⟨u, v, hu, hv, h, -⟩ := halike helloUnread 1000000 1 0 0 0 (.loaded 1000000 0 1) rfl (Or.inl rfl)
  have hcue : cueBehindLoaded helloUnread = cueBehindLoaded (withStop .run helloUnread) := by
    rw [cueBehindLoaded_next hu, cueBehindLoaded_next hv, alike_cue h]
  rw [cueBehindLoaded_rebuilding, cueBehindLoaded_run] at hcue
  exact (nomatch hcue)

end Sys2Proof.Proofs

namespace Sys2Proof.Proofs

open Sys2Proof Sys2Proof.Machine

/-! ## The nearer candidate of a pulse under FOLLOW (R35) -/

theorem takePulse_follow {s : State} {g : Governing} (hb : s.clock.st.beats = true) (hg : s.clock.gov = some g)
    (hm : g.record.mode = .follow) : takePulse s = commitIfDue (followPulse s.now s) := by
  simp [takePulse, hb, hg, hm]

theorem nearer_of {f : Follower} {t u₀ at_ : Nat} {early matched : Bool} (h : NearerIs f t u₀ at_ early matched) :
    nearer t f.last u₀ f.nextMatched = (at_, early, matched) := by
  rcases h with ⟨rfl, hl, hd⟩ | ⟨rfl, rfl, hm, hl⟩
  · simp only [nearer, hl]
    exact if_pos ⟨trivial, hd⟩
  · unfold nearer
    split
    · next l hlast =>
      rw [if_neg fun hc => Nat.not_lt.mpr hc.2 (hl l hlast hc.1), hm]
    · rw [hm]

section

variable {s : State} {t u₀ at_ : Nat} {early : Bool}

theorem followPulse_accepts (hu : (s.clock.next.bind (·.time)) = some u₀) (hn : NearerIs s.follower t u₀ at_ early false)
    (hw : distance t at_ ≤ windowWidth s) : followPulse t s = acceptPulse t ((t : Int) - (at_ : Int)) early u₀ s := by
  simp only [followPulse, hu, nearer_of hn]
  exact if_neg (Nat.not_lt.mpr hw)

theorem followPulse_double (hu : (s.clock.next.bind (·.time)) = some u₀) (hn : NearerIs s.follower t u₀ at_ early true) :
    followPulse t s = rejectPulse .double s := by
  simp only [followPulse, hu, nearer_of hn]
  rfl

theorem followPulse_outside (hu : (s.clock.next.bind (·.time)) = some u₀) (hn : NearerIs s.follower t u₀ at_ early false)
    (hw : windowWidth s < distance t at_) : followPulse t s = rejectPulse .outside s := by
  simp only [followPulse, hu, nearer_of hn]
  exact if_pos hw

end

/-! ## The correction (R36, R37) -/

theorem constantInForce_divisors {f : Follower} {dp df : Nat} (h : DivisorsAre f dp df) :
    (constantInForce f).divisors = (dp, df) := by
  rcases h with ⟨hst, hd⟩ | ⟨hst, ⟨hc, hd⟩ | ⟨hc, hd⟩ | ⟨hc, hd⟩ | ⟨hc, hf, hd⟩ | ⟨hc, hf, ha, hd⟩ | ⟨hc, hf, ha, hd⟩⟩
  all_goals simp [constantInForce, hst, *, ActiveConstant.divisors]

/-- The state that a correction leaves, with the period `q` and beat u at `k`. -/
def corrected (q k : Nat) (clamped : Bool) (s : State) : State :=
  { s with
    clock := { s.clock with period := some q, next := s.clock.next.map fun n => { n with time := some k } }
    follower := { s.follower with clamped := clamped } }

theorem correct_eq {s : State} {dp df lo hi p q k u₀ t : Nat} {e : Int} {early : Bool} (hd : DivisorsAre s.follower dp df)
    (hband : s.follower.band = some (lo, hi)) (hp : s.clock.period = some p)
    (hq : (q : Int) = max (lo : Int) (min (hi : Int) ((p : Int) + roundAway e df)))
    (hk : k = max (correctedTime s.clock.spacing u₀ p q dp e early) (t + s.clock.lead)) :
    correct t e early u₀ s = corrected q k (decide ((q : Int) ≠ (p : Int) + roundAway e df)) s := by
  have hclamp : clampInt lo hi ((p : Int) + roundAway e df) = q := by
    rw [clampInt, ← hq]
    rfl
  have hset : setClamped ((p : Int) + roundAway e df) s = { s with
      clock := { s.clock with period := some q }
      follower := { s.follower with clamped := decide ((q : Int) ≠ (p : Int) + roundAway e df) } } := by
    rw [setClamped, bandOf, hband]
    simp only [Option.getD_some, hclamp]
  have hnow : s.periodNow = p := by rw [State.periodNow, hp]; rfl
  have htime : max ((u₀ : Int) + roundAway e dp + (if early then 0 else (q : Int) - (p : Int))).toNat
      (max (match s.clock.spacing with | some c => c + ceilDiv q 2 | none => 0) (t + s.clock.lead)) = k := by
    rw [hk, correctedTime, max_assoc]
    cases s.clock.spacing <;> rfl
  unfold correct
  simp only [constantInForce_divisors hd, hnow, hset]
  rw [← htime]
  rfl

/-! ## What SEEKING and LOCKED make of an accepted pulse (R40 to R42) -/

/-- The follower in SEEKING once the good count has been taken. -/
def goodCounted (e : Int) (q : Nat) (f : Follower) : Follower :=
  if e.natAbs ≤ q / 8 then
    if 2 ≤ f.good + 1 then
      { f with st := .locked, good := 0, rejectedRun := 0, missedRun := 0, push := none, active := .normal, fastLeft := 0 }
    else { f with good := f.good + 1 }
  else { f with good := 0 }

theorem goodCounted_spec (e : Int) (q : Nat) (f : Follower) : GoodCounted e q f (goodCounted e q f) := by
  unfold goodCounted
  refine ⟨fun h => if_neg (Nat.not_le.mpr h), fun h h2 => ?_, fun h h2 => ?_⟩
  · rw [if_pos h, if_neg (Nat.not_le.mpr h2)]
  · rw [if_pos h, if_pos h2]

/-- The follower in LOCKED once ADAPTIVE has chosen its constant. -/
def adapted (e : Int) (q : Nat) (f : Follower) : Follower :=
  if f.settings.constant = .adaptive then
    if (pushAfter f.push e (q / 8)).2 then { f with push := (pushAfter f.push e (q / 8)).1, fastLeft := 4 }
    else if f.fastLeft = 0 then { f with push := (pushAfter f.push e (q / 8)).1, active := hysteresis f.active f.jitter q }
    else if f.fastLeft = 1 then
      { f with push := (pushAfter f.push e (q / 8)).1, fastLeft := 0, active := if q / 16 < f.jitter then .slow else .normal }
    else { f with push := (pushAfter f.push e (q / 8)).1, fastLeft := f.fastLeft - 1 }
  else f

theorem pushAfter_pushed {memory : Option Sign} {e : Int} {x : Nat} (h : x < e.natAbs) (hm : memory = some (signOf e)) :
    pushAfter memory e x = (none, true) := by
  rw [pushAfter, if_pos h, if_pos hm]

theorem pushAfter_unpushed {memory : Option Sign} {e : Int} {x : Nat} (h : e.natAbs ≤ x ∨ memory ≠ some (signOf e)) :
    pushAfter memory e x = (if x < e.natAbs then some (signOf e) else none, false) := by
  unfold pushAfter
  by_cases hx : x < e.natAbs
  · rw [if_pos hx, if_pos hx, if_neg (h.resolve_left (Nat.not_le.mpr hx))]
  · rw [if_neg hx, if_neg hx]

theorem adapted_spec (e : Int) (q : Nat) (f : Follower) : Adapted e q f (adapted e q f) := by
  refine ⟨fun hc => if_neg hc, fun hc => ⟨fun hq hp => ?_, fun memory hmem hno => ?_⟩⟩
  · rw [adapted, if_pos hc, pushAfter_pushed hq hp]
    rfl
  · have hunpushed : adapted e q f = if f.fastLeft = 0 then { f with push := memory, active := hysteresis f.active f.jitter q }
        else if f.fastLeft = 1 then
          { f with push := memory, fastLeft := 0, active := if q / 16 < f.jitter then .slow else .normal }
        else { f with push := memory, fastLeft := f.fastLeft - 1 } := by
      rw [adapted, if_pos hc, pushAfter_unpushed hno, hmem]
      rfl
    rw [hunpushed]
    refine ⟨fun h0 ha => ?_, fun h0 ha => ?_, fun h1 => ?_, fun h2 => ?_⟩
    · rw [if_pos h0, ha]
      rfl
    · rw [if_pos h0]
      cases hact : f.active with
      | slow => exact absurd hact ha
      | normal => rfl
      | fast => rfl
    · rw [if_neg (by omega), if_pos h1]
    · rw [if_neg (by omega), if_neg (by omega)]

/-- The conditions once the follower has come from state `a` to `b` at `now` (R48). -/
def lockRaised (a b : FollowerSt) (now : Nat) (l : List Condition) : List Condition :=
  if b = a then l else l.modify 3 (Condition.raised (.beatLock b) now)

theorem countGood_eq {e : Int} {q : Nat} {s : State} (hst : s.follower.st = .seeking) (hp : s.clock.period = some q) :
    countGood e s = { s with
      follower := goodCounted e q s.follower
      attention := lockRaised .seeking (goodCounted e q s.follower).st s.now s.attention } := by
  have hnow : s.periodNow = q := by rw [State.periodNow, hp]; rfl
  unfold countGood goodCounted lockRaised
  rw [hnow]
  by_cases hq : e.natAbs ≤ q / 8
  · simp only [if_pos hq]
    by_cases h2 : 2 ≤ s.follower.good + 1
    · simp [State.setFollower, h2, enterLocked, followerGoes, hst, Machine.raise, CondRecord.place]
    · simp [State.setFollower, h2, hst]
  · simp [State.setFollower, hq, hst]

theorem adapt_eq {e : Int} {q : Nat} {s : State} (hp : s.clock.period = some q) :
    adapt e s = { s with follower := adapted e q s.follower } := by
  have hnow : s.periodNow = q := by rw [State.periodNow, hp]; rfl
  unfold adapt adapted
  rw [hnow]
  by_cases hc : s.follower.settings.constant = .adaptive
  · simp only [if_pos hc, State.setFollower]
  · simp only [if_neg hc]

/-! ## The window judged again (R34, R42) -/

theorem judgeWindow_judged {s : State} {p : Nat} (hst : s.follower.st ≠ .free) (hp : s.clock.period = some p)
    (hm : ∀ l ∈ s.follower.last, l.isOpen = true → l.matched = true) :
    judgeWindow s = { s with follower := s.follower.judged s.now p } := by
  have kept (h : s.follower.last = s.follower.last.map fun l => { l with
      isOpen := l.isOpen && decide (s.now ≤ l.time + halfWidth s.follower p) }) :
      s = { s with follower := s.follower.judged s.now p } := by
    rw [Follower.judged, ← h]
  cases hl : s.follower.last with
  | none =>
    have e : judgeWindow s = s := by simp only [judgeWindow, windowCloseDue, hl]
    rw [e]
    exact kept (by rw [hl]; rfl)
  | some l =>
    cases ho : l.isOpen with
    | false =>
      have e : judgeWindow s = s := by simp [judgeWindow, windowCloseDue, hl, ho]
      rw [e]
      refine kept ?_
      rw [hl, Option.map_some, ho, Bool.false_and, ← ho]
    | true =>
      have hdue := windowCloseDue_open hst hl ho
      rw [hp, Option.getD_some] at hdue
      simp only [judgeWindow, hdue]
      by_cases hw : s.now ≤ l.time + halfWidth s.follower p
      · rw [if_neg (by omega)]
        refine kept ?_
        rw [hl, Option.map_some, ho, Bool.true_and, decide_eq_true hw, ← ho]
      · have hmt := hm l hl ho
        rw [if_pos (by omega), closeWindow_open hl ho, windowClosed, closedAttention, if_pos hmt, if_pos hmt, Follower.judged, hl, Option.map_some,
          decide_eq_false hw, Bool.and_false]

/-! ## An accepted pulse (R35, R37, R39 to R42, R45) -/

/-- What every accepted pulse leaves of the last committed beat's window is matched or closed. -/
theorem pulseMatched_noneWaits {f : Follower} {e : Int} {early : Bool} (h : NoneWaits f early) :
    ∀ l ∈ (pulseMatched f e early).last, l.isOpen = true → l.matched = true := by
  cases early with
  | true => exact h rfl
  | false =>
    intro l hl _
    obtain ⟨x, -, rfl⟩ := Option.map_eq_some_iff.mp hl
    rfl

/-- An accepted pulse, its follower state aside. -/
theorem acceptPulse_eq (t : Nat) (e : Int) (early : Bool) (u₀ : Nat) (s : State) : acceptPulse t e early u₀ s
    = match s.follower.st with
      | .seeking => judgeWindow (countGood e ((correct t e early u₀ { s with follower := pulseMatched s.follower e early }).setFollower
          fun f => { f with jitter := jitterAfter f.jitter e }))
      | .locked => judgeWindow (adapt e ((correct t e early u₀ { s with follower := pulseMatched s.follower e early }).setFollower
          fun f => { f with jitter := jitterAfter f.jitter e }))
      | .coasting => judgeWindow (enterSeeking { s with follower := pulseMatched s.follower e early })
      | .free => { s with follower := pulseMatched s.follower e early } := by
  have hm : s.setFollower (fun f =>
      { f with last := if early then f.last else f.last.map fun l => { l with matched := true }
               nextMatched := f.nextMatched || early
               lastError := e, accepted := satInc Config.maxCount16 f.accepted, rejectedRun := 0, missedRun := 0 })
      = { s with follower := pulseMatched s.follower e early } := by
    cases early <;> simp [State.setFollower, pulseMatched, satInc, Config.maxCount16]
  unfold acceptPulse
  rw [hm]
  rfl

section

variable {s : State} {t u₀ p dp df lo hi q k : Nat} {e : Int} {early : Bool}

/-- A pulse accepted in SEEKING or LOCKED: the follower `v` that it comes to, before its window is judged. -/
theorem acceptPulse_corrects (hst : s.follower.st = .seeking ∨ s.follower.st = .locked) (hd : DivisorsAre s.follower dp df)
    (hband : s.follower.band = some (lo, hi)) (hp : s.clock.period = some p) (hn : NoneWaits s.follower early)
    (hq : (q : Int) = max (lo : Int) (min (hi : Int) ((p : Int) + roundAway e df)))
    (hk : k = max (correctedTime s.clock.spacing u₀ p q dp e early) (t + s.clock.lead)) :
    ∃ (v : Follower) (clamped : Bool), (clamped = true ↔ (q : Int) ≠ (p : Int) + roundAway e df)
      ∧ (s.follower.st = .seeking → GoodCounted e q (acceptedFollower s.follower e early clamped) v)
      ∧ (s.follower.st = .locked → Adapted e q (acceptedFollower s.follower e early clamped) v)
      ∧ v.st ≠ .free
      ∧ acceptPulse t e early u₀ s = { s with
          clock := { s.clock with period := some q, next := s.clock.next.map fun n => { n with time := some k } }
          follower := v.judged s.now q
          attention := lockRaised s.follower.st v.st s.now s.attention } := by
  generalize hc : decide ((q : Int) ≠ (p : Int) + roundAway e df) = clamped
  generalize ha : acceptedFollower s.follower e early clamped = f
  have hcorrect : (correct t e early u₀ { s with follower := pulseMatched s.follower e early }).setFollower
      (fun f => { f with jitter := jitterAfter f.jitter e }) = { s with
        clock := { s.clock with period := some q, next := s.clock.next.map fun n => { n with time := some k } }
        follower := f } := by
    rw [correct_eq (s := { s with follower := pulseMatched s.follower e early }) (by exact hd) hband hp hq hk, hc, ← ha]
    rfl
  generalize hx : ({ s with
        clock := { s.clock with period := some q, next := s.clock.next.map fun n => { n with time := some k } }
        follower := f } : State) = x at hcorrect
  have hxp : x.clock.period = some q := by rw [← hx]
  have hxf : x.follower = f := by rw [← hx]
  have hfst : f.st = s.follower.st := by rw [← ha]; rfl
  have hflast : f.last = (pulseMatched s.follower e early).last := by rw [← ha]; rfl
  have hnone := pulseMatched_noneWaits (e := e) hn
  rw [← hflast] at hnone
  have judged (v : Follower) (hv : v.st ≠ .free) (hl : v.last = f.last) (a : List Condition) :
      judgeWindow { x with follower := v, attention := a } = { s with
        clock := { s.clock with period := some q, next := s.clock.next.map fun n => { n with time := some k } }
        follower := v.judged s.now q
        attention := a } := by
    rw [judgeWindow_judged (s := { x with follower := v, attention := a }) hv hxp (by rw [hl]; exact hnone), ← hx]
  rcases hst with hst | hst
  · have hvst : (goodCounted e q f).st ≠ .free ∧ (goodCounted e q f).last = f.last := by
      unfold goodCounted
      split_ifs
      · exact ⟨(nomatch ·), rfl⟩
      · exact ⟨by rw [hfst, hst]; exact (nomatch ·), rfl⟩
      · exact ⟨by rw [hfst, hst]; exact (nomatch ·), rfl⟩
    refine ⟨goodCounted e q f, clamped, by rw [← hc, decide_eq_true_iff], fun _ => ?_, fun h => ?_, hvst.1, ?_⟩
    · rw [ha]
      exact goodCounted_spec e q f
    · rw [hst] at h
      exact (nomatch h)
    · rw [acceptPulse_eq, hst]
      dsimp only
      rw [hcorrect, countGood_eq (by rw [hxf, hfst, hst]) hxp, hxf, judged _ hvst.1 hvst.2, ← hx]
  · have hvst : (adapted e q f).st = f.st ∧ (adapted e q f).last = f.last := by
      unfold adapted
      split_ifs <;> exact ⟨rfl, rfl⟩
    have hfree : (adapted e q f).st ≠ .free := by rw [hvst.1, hfst, hst]; exact (nomatch ·)
    refine ⟨adapted e q f, clamped, by rw [← hc, decide_eq_true_iff], fun h => ?_, fun _ => ?_, hfree, ?_⟩
    · rw [hst] at h
      exact (nomatch h)
    · rw [ha]
      exact adapted_spec e q f
    · rw [acceptPulse_eq, hst]
      dsimp only
      rw [hcorrect, adapt_eq hxp, hxf]
      have hj := judged (adapted e q f) hfree hvst.2 s.attention
      rw [lockRaised, if_pos (by rw [hvst.1, hfst, hst])]
      refine Eq.trans (congrArg judgeWindow ?_) hj
      rw [← hx]

/-- A pulse accepted in COASTING. -/
theorem acceptPulse_coasting (hst : s.follower.st = .coasting) (hp : s.clock.period = some p) (hn : NoneWaits s.follower early) :
    acceptPulse t e early u₀ s = { s with
      follower := (pulseMatched s.follower e early).afresh.judged s.now p
      attention := s.attention.modify 3 (Condition.raised (.beatLock .seeking) s.now) } := by
  have hseek : enterSeeking { s with follower := pulseMatched s.follower e early } = { s with
      follower := (pulseMatched s.follower e early).afresh
      attention := s.attention.modify 3 (Condition.raised (.beatLock .seeking) s.now) } := by
    have hm : (pulseMatched s.follower e early).st = .coasting := hst
    simp [enterSeeking, followerGoes, State.setFollower, hm, Machine.raise, CondRecord.place, Follower.afresh]
  rw [acceptPulse_eq, hst]
  dsimp only
  rw [hseek]
  exact judgeWindow_judged (s := { s with
      follower := (pulseMatched s.follower e early).afresh
      attention := s.attention.modify 3 (Condition.raised (.beatLock .seeking) s.now) })
    (fun h => FollowerSt.noConfusion h) hp (pulseMatched_noneWaits (e := e) hn)

end

/-! ## A rejected pulse (R35, R43) -/

/-- The follower that has rejected a pulse, its state aside. -/
def rejecting (why : Rejection) (f : Follower) : Follower :=
  { f with rejected := min 65535 (f.rejected + 1), lastRejection := some why, push := none, good := 0 }

theorem rejectPulse_other {s : State} (why : Rejection) (h : s.follower.st ≠ .locked) :
    rejectPulse why s = { s with follower := rejecting why s.follower } := by
  unfold rejectPulse
  cases hst : s.follower.st <;> simp [hst] at h <;> simp [State.setFollower, hst, rejecting, satInc, Config.maxCount16]

theorem rejectPulse_locked {s : State} (why : Rejection) (h : s.follower.st = .locked) (hr : s.follower.rejectedRun < 2) :
    rejectPulse why s = { s with
      follower := { rejecting why s.follower with rejectedRun := s.follower.rejectedRun + 1 } } := by
  have h3 : ¬3 ≤ s.follower.rejectedRun + 1 := by omega
  simp [rejectPulse, State.setFollower, h, h3, rejecting, satInc, Config.maxCount16]

theorem rejectPulse_seeks {s : State} (why : Rejection) (h : s.follower.st = .locked) (hr : 2 ≤ s.follower.rejectedRun) :
    rejectPulse why s = { s with
      follower := (rejecting why s.follower).afresh
      attention := s.attention.modify 3 (Condition.raised (.beatLock .seeking) s.now) } := by
  have h3 : 3 ≤ s.follower.rejectedRun + 1 := by omega
  simp [rejectPulse, State.setFollower, h, h3, rejecting, satInc, Config.maxCount16, enterSeeking, followerGoes, Machine.raise,
    CondRecord.place, Follower.afresh]

/-! ## A pulse under FOLLOW, the clock's part included (R4, R37) -/

theorem commitDue_at {s : State} {k : Nat} (hb : s.clock.st.beats = true) (hn : (s.clock.next.bind (·.time)) = some k) :
    commitDue s = some (k - s.clock.lead) := by
  rw [commitDue, if_pos hb, hn]
  rfl

/-- A beat whose time, less C, lies ahead is not committed. -/
theorem commitIfDue_ahead {s : State} {k : Nat} (hb : s.clock.st.beats = true) (hn : (s.clock.next.bind (·.time)) = some k)
    (hk : s.now + s.clock.lead < k) : commitIfDue s = (s, Committed.nothing) := by
  refine commitIfDue_early fun d hd => ?_
  rw [commitDue_at hb hn] at hd
  obtain rfl := Option.some.inj hd
  omega

/-- A beat that has become due is committed at once. -/
theorem commitIfDue_reached {s : State} {k : Nat} (hb : s.clock.st.beats = true) (hn : (s.clock.next.bind (·.time)) = some k)
    (hk : k ≤ s.now + s.clock.lead) : commitIfDue s = reachBeat k s := by
  simp only [commitIfDue, commitDue_at hb hn, commitScheduled, hn]
  exact if_pos (by omega)

/-- What a pulse comes to under FOLLOW: the follower's part has left `x`, and then the clock commits what has become due. -/
structure PulseTaken (t quiet : Nat) (s x : State) : Prop where
  exec : exec (.beatPulse t quiet) s = .next (afterCommit (commitIfDue x))
  now : x.now = t

section

variable {s x : State} {g : Governing} {t quiet k : Nat}

theorem pulseTaken (hp : s.powered = true) (h₁ : 2000 ≤ quiet) (h₂ : 2000 ≤ t) (ht : s.now ≤ t) (hb : s.clock.st.beats = true)
    (hg : s.clock.gov = some g) (hm : g.record.mode = .follow) (hx : followPulse t (s.goTo t) = x) (hn : x.now = (s.goTo t).now) :
    PulseTaken t quiet s x := by
  have hnow : (s.goTo t).now = t := max_eq_right ht
  refine ⟨?_, hn.trans hnow⟩
  rw [exec_beatPulse hp h₁ (by omega), takePulse_follow (s := s.goTo t) hb hg hm, hnow, hx]

/-- Beat u is left to its time. -/
theorem PulseTaken.waits (h : PulseTaken t quiet s x) (hb : x.clock.st.beats = true)
    (hn : (x.clock.next.bind (·.time)) = some k) (hk : t + x.clock.lead < k) : Machine.exec (.beatPulse t quiet) s = .next x := by
  rw [h.exec, commitIfDue_ahead hb hn (by rw [h.now]; exact hk), afterCommit_nothing]

/-- Beat u has become due, and no AT_BAR cue waits for it. -/
theorem PulseTaken.commits {bar beat q : Nat} (h : PulseTaken t quiet s x) (hst : x.clock.st = .running)
    (hn : x.clock.next = some { time := some k, kind := .beat bar beat }) (hk : k ≤ t + x.clock.lead)
    (hg : x.clock.gov = some g) (hm : g.record.mode ≠ .conducted) (hq : x.clock.period = some q) (hramp : x.clock.ramp = none)
    (hat : NoAtBar bar beat x) : Machine.exec (.beatPulse t quiet) s = .next
      (beatCommitted (showWritten x.clock x.follower k bar beat (some q) (showNext (some (k + q)) g.record.meter bar beat))
        (showBeat g x.clock x.now k bar beat) x) := by
  have hcounting : (x.clock.st == .countingIn) = false := by rw [hst]; rfl
  rw [h.exec, commitIfDue_reached (by rw [hst]; rfl) (by rw [hn]; rfl) (by rw [h.now]; exact hk), reachBeat_beat hn,
    rampStep_none _ hramp, commitAs_show k bar beat hg hm hq, hcounting, afterCommit_beat]
  exact congrArg _ (takeBeat_noAtBar (by exact hat))

/-- The window of the nearer candidate, read before the pulse. -/
theorem windowWidth_goTo {p : Nat} (h : s.follower.st ≠ .free) (hp : s.clock.period = some p) :
    windowWidth (s.goTo t) = halfWidth s.follower p := by
  rw [windowWidth_eq (s := s.goTo t) h]
  simp only [State.goTo_clock, State.goTo_follower, hp, Option.getD_some]

end

/-- Settles O36: the nearer candidate, the correction, and what the follower's state makes of the pulse. -/
theorem pulsesUnderFollow : Obligations.PulsesUnderFollow := by
  unfold Obligations.PulsesUnderFollow
  refine ⟨fun s g t quiet u₀ p at_ dp df lo hi early hpow h₁ h₂ ht hb hg hm hst hd hband hp hu hnear hnone hw e q k he hq hk =>
    ?_, fun s g t quiet u₀ p at_ early hpow h₁ h₂ ht hb hg hm hp hu hahead => ⟨fun hst hnear hnone hw => ?_,
      fun why hst hwhy f hf => ?_⟩⟩
  · have hfree : s.follower.st ≠ .free := by rcases hst with h | h <;> rw [h] <;> exact (nomatch ·)
    have hnow : (s.goTo t).now = t := max_eq_right ht
    obtain ⟨v, clamped, hc, hgood, hadapt, hv, hx⟩ := acceptPulse_corrects (s := s.goTo t) (t := t) (u₀ := u₀) (e := e) hst hd
      hband hp hnone hq hk
    have hx' := (followPulse_accepts (s := s.goTo t) hu hnear (by rw [windowWidth_goTo hfree hp]; exact hw)).trans (by rw [← he, hx])
    have htaken := pulseTaken hpow h₁ h₂ ht hb hg hm hx' rfl
    obtain ⟨n, hn, hnt⟩ := Option.bind_eq_some_iff.mp hu
    refine ⟨v, clamped, hc, hgood, hadapt, fun hlt => ?_, fun bar beat hkt hrun hramp hnext hat => ?_⟩
    · refine ⟨_, htaken.waits (k := k) hb ?_ hlt, rfl, ?_, ?_, rfl⟩
      · simp only [State.goTo_clock, hn]
        rfl
      · rw [hnow]
      · rw [hnow]
        rfl
    · have hcommits := htaken.commits (k := k) (bar := bar) (beat := beat) hrun ?_ hkt.le hg (by rw [hm]; exact (nomatch ·)) rfl hramp
        hat
      · refine ⟨_, hcommits, rfl, ?_, hnow⟩
        show (windowsTaken k (v.judged (s.goTo t).now q)).last = _
        rw [windowsTaken, if_neg (by exact hv)]
        rfl
      · simp only [State.goTo_clock, hnext]
        rfl
  · have hfree : s.follower.st ≠ .free := by rw [hst]; exact (nomatch ·)
    have hnow : (s.goTo t).now = t := max_eq_right ht
    have hx := (followPulse_accepts (s := s.goTo t) hu hnear (by rw [windowWidth_goTo hfree hp]; exact hw)).trans
      (acceptPulse_coasting (s := s.goTo t) (p := p) hst hp hnone)
    refine ⟨_, (pulseTaken hpow h₁ h₂ ht hb hg hm hx rfl).waits (k := u₀) hb hu hahead, rfl, ?_, ?_, rfl⟩
    · rw [hnow]
      rfl
    · rw [hnow]
      rfl
  · have hnow : (s.goTo t).now = t := max_eq_right ht
    have hreject : followPulse t (s.goTo t) = rejectPulse why (s.goTo t) := by
      rcases hwhy with ⟨rfl, hnear⟩ | ⟨rfl, hnear, hw⟩
      · exact followPulse_double (s := s.goTo t) hu hnear
      · exact followPulse_outside (s := s.goTo t) hu hnear (by rw [windowWidth_goTo hst hp]; exact hw)
    have ends (x : State) (hx : rejectPulse why (s.goTo t) = x) (hclock : x.clock = s.clock) (hxnow : x.now = (s.goTo t).now) :
        exec (.beatPulse t quiet) s = .next x :=
      (pulseTaken hpow h₁ h₂ ht hb hg hm (hreject.trans hx) hxnow).waits (k := u₀) (by rw [hclock]; exact hb)
        (by rw [hclock]; exact hu) (by rw [hclock]; exact hahead)
    by_cases hlock : s.follower.st = .locked
    · by_cases hrun : s.follower.rejectedRun < 2
      · refine ⟨_, ends _ (rejectPulse_locked (s := s.goTo t) why hlock hrun) rfl rfl, rfl, fun h => absurd hlock h,
          fun _ _ => ⟨?_, rfl⟩, fun _ h => absurd hrun (Nat.not_lt.mpr h), rfl⟩
        rw [hf]
        rfl
      · refine ⟨_, ends _ (rejectPulse_seeks (s := s.goTo t) why hlock (Nat.not_lt.mp hrun)) rfl rfl, rfl,
          fun h => absurd hlock h, fun _ h => absurd h hrun, fun _ _ => ⟨?_, ?_⟩, rfl⟩
        · rw [hf]
          rfl
        · rw [hnow]
          rfl
    · refine ⟨_, ends _ (rejectPulse_other (s := s.goTo t) why hlock) rfl rfl, rfl, fun _ => ⟨?_, rfl⟩,
        fun h => absurd h hlock, fun h => absurd h hlock, rfl⟩
      rw [hf]
      rfl

end Sys2Proof.Proofs

namespace Sys2Proof.Proofs

open Sys2Proof Sys2Proof.Machine

/-! ## A station's slot table, its slots numbered from 1 -/

/-- What the promises of a station say of its slots, `n` in number, with the targets of its outstanding LOAD and SELECT, its
selection and the patch in its LOAD place. -/
structure Arranged (n : Nat) (slot : Nat → Slot) (load select : Option Nat) (selected : Selected) (cold : Option Nat) : Prop where
  loading : ∀ k, 1 ≤ k → k ≤ n → ((slot k).st = .loading ↔ load = some k)
  target : ∀ k, load = some k → 1 ≤ k ∧ k ≤ n
  distinct : ∀ a b p, 1 ≤ a → a ≤ n → 1 ≤ b → b ≤ n → (slot a).carries p = true → (slot b).carries p = true → a = b
  stale : ∀ k, 1 ≤ k → k ≤ n → (slot k).stale = true → (slot k).patch ≠ none → (slot k).st = .loading
  cold : ∀ p, cold = some p → ∀ k, 1 ≤ k → k ≤ n → (slot k).holds p = false
  select : ∀ k, select = some k → 1 ≤ k ∧ k ≤ n ∧ (slot k).st = .resident
  selected : ∀ k, selected = .slot k → 1 ≤ k ∧ k ≤ n ∧ (slot k).st = .resident

theorem forall_slots {st : Station} {P : Slot → Prop} :
    (∀ sl ∈ st.slots, P sl) ↔ ∀ k, 1 ≤ k → k ≤ st.slots.length → P (st.slot k) := by
  constructor
  · intro h k h1 hk
    obtain ⟨j, rfl⟩ : ∃ j, k = j + 1 := ⟨k - 1, by omega⟩
    rw [slot_get (by omega)]
    exact h _ (List.getElem_mem _)
  · intro h sl hsl
    obtain ⟨j, hj, rfl⟩ := List.mem_iff_getElem.mp hsl
    rw [← slot_get hj]
    exact h (j + 1) (by omega) (by omega)

/-- A station's table is arranged. -/
def TableOk (st : Station) : Prop := Arranged st.slots.length st.slot (st.outLoad.map (·.slot))
  (st.outSelect.map (·.slot)) st.selected st.loadPlace

theorem carries_iff {p : Nat} {sl : Slot} : sl.carries p = true ↔ sl.st ≠ .empty ∧ sl.patch = some p := by
  simp [Slot.carries]

theorem holds_iff {p : Nat} {sl : Slot} : sl.holds p = true ↔ sl.stale = false ∧ sl.st ≠ .empty ∧ sl.patch = some p := by
  simp [Slot.holds, carries_iff]

theorem slotsDistinct_iff {st : Station} : st.SlotsDistinct ↔
    (∀ a b p, 1 ≤ a → a ≤ st.slots.length → 1 ≤ b → b ≤ st.slots.length → (st.slot a).carries p = true →
      (st.slot b).carries p = true → a = b)
    ∧ (∀ k, 1 ≤ k → k ≤ st.slots.length → (st.slot k).stale = true → (st.slot k).patch ≠ none → (st.slot k).st = .loading)
    ∧ ∀ p, st.loadPlace = some p → ∀ k, 1 ≤ k → k ≤ st.slots.length → (st.slot k).holds p = false := by
  unfold Station.SlotsDistinct
  rw [forall_slots (P := fun sl => sl.stale = true → sl.patch ≠ none → sl.st = .loading)]
  refine and_congr ?_ (and_congr Iff.rfl (forall_congr' fun p => forall_congr' fun _ => forall_slots))
  rw [List.pairwise_iff_getElem]
  constructor
  · intro h a b p ha ha' hb hb' hpa hpb
    obtain ⟨i, rfl⟩ : ∃ i, a = i + 1 := ⟨a - 1, by omega⟩
    obtain ⟨j, rfl⟩ : ∃ j, b = j + 1 := ⟨b - 1, by omega⟩
    rw [slot_get (by omega)] at hpa hpb
    rcases Nat.lt_trichotomy i j with hij | hij | hij
    · exact absurd ⟨hpa, hpb⟩ (h i j (by omega) (by omega) hij p (carries_iff.mp hpa).2)
    · omega
    · exact absurd ⟨hpb, hpa⟩ (h j i (by omega) (by omega) hij p (carries_iff.mp hpb).2)
  · rintro h i j hi hj hij p - ⟨hpi, hpj⟩
    rw [← slot_get hi] at hpi
    rw [← slot_get hj] at hpj
    have := h (i + 1) (j + 1) p (by omega) (by omega) (by omega) (by omega) hpi hpj
    omega

theorem tableOk_iff {st : Station} : TableOk st ↔ st.LoadingAgrees ∧ st.SlotsDistinct ∧ st.TargetsResident := by
  rw [slotsDistinct_iff]
  constructor
  · intro h
    refine ⟨fun j hj => ?_, ⟨h.distinct, h.stale, h.cold⟩, fun o ho => h.target o.slot (by rw [ho]; rfl), fun o ho => ?_, fun k hk =>
      h.selected k hk⟩
    · rw [← slot_get hj]
      exact h.loading (j + 1) (by omega) (by omega)
    · exact h.select o.slot (by rw [ho]; rfl)
  · rintro ⟨hl, ⟨hd, hs, hc⟩, ht, hsel, hcur⟩
    refine ⟨fun k h1 hk => ?_, fun k hk => ?_, hd, hs, hc, fun k hk => ?_, fun k hk => hcur k hk⟩
    · obtain ⟨j, rfl⟩ : ∃ j, k = j + 1 := ⟨k - 1, by omega⟩
      rw [slot_get (by omega)]
      exact hl j (by omega)
    · obtain ⟨o, ho, rfl⟩ := Option.map_eq_some_iff.mp hk
      exact ht o ho
    · obtain ⟨o, ho, rfl⟩ := Option.map_eq_some_iff.mp hk
      exact hsel o ho

/-! ## What a station keeps -/

/-- The promises of one station (R109, R110, R115, R120, R123, R124). -/
structure StationOk (loading : Bool) (st : Station) : Prop where
  absent : st.present = false ∨ loading = true → st.link = .offline
  bare : st.link ≠ .online → st.Bare
  table : TableOk st
  placed : st.SwitchPlaced

theorem stationsSound_iff {s : State} : s.StationsSound ↔ ∀ st ∈ s.stations, StationOk s.loading st := by
  refine forall_congr' fun st => forall_congr' fun _ => ?_
  constructor
  · rintro ⟨ha, hb, hl, hd, ht, hp⟩
    exact ⟨ha, hb, tableOk_iff.mpr ⟨hl, hd, ht⟩, hp⟩
  · rintro ⟨ha, hb, harr, hp⟩
    obtain ⟨hl, hd, ht⟩ := tableOk_iff.mp harr
    exact ⟨ha, hb, hl, hd, ht, hp⟩

/-- The fields of a station that no promise speaks of. -/
def Beside (x y : Station) : Prop := y = { x with
  lateOverride := y.lateOverride
  victim := y.victim
  preload := y.preload
  queryDue := y.queryDue
  queryAt := y.queryAt
  lastSwitch := y.lastSwitch
  hostPins := y.hostPins
  failed := y.failed
  pressure := y.pressure
  faults := y.faults
  protoErrors := y.protoErrors
  sending := y.sending
  ahead := y.ahead
  standbyTarget := y.standbyTarget
  receiver := y.receiver }

theorem tableOk_same {x y : Station} (hx : TableOk x) (hs : y.slots = x.slots)
    (hl : y.outLoad.map (·.slot) = x.outLoad.map (·.slot)) (ho : y.outSelect.map (·.slot) = x.outSelect.map (·.slot))
    (hc : y.selected = x.selected) (hp : y.loadPlace = x.loadPlace) : TableOk y := by
  have hslot : y.slot = x.slot := by
    funext k
    rw [Station.slot, Station.slot, hs]
  unfold TableOk
  rw [hs, hslot, hl, ho, hc, hp]
  exact hx

theorem stageHeld_same {x y : Station} (hs : y.slots = x.slots) (ho : y.outSelect.map (·.slot) = x.outSelect.map (·.slot))
    (hc : y.selectPlace = x.selectPlace) (hp : y.loadPlace = x.loadPlace) {w : Switch} (h : x.StageHeld w) : y.StageHeld w := by
  unfold Station.StageHeld Station.Resident Station.slot at *
  rw [hs, ho, hc, hp]
  exact h

section

variable {l : Bool} {x y : Station} {w : Switch}

theorem stationOk_beside (hx : StationOk l x) (h : Beside x y) (hp : x.link ≠ .online → y.preload = x.preload) : StationOk l y := by
  rw [h]
  refine ⟨hx.absent, fun hno => ?_, tableOk_same hx.table rfl rfl rfl rfl rfl, ?_⟩
  · obtain ⟨h1, h2, h3, h4, h5, h6, h7, h8, h9⟩ := hx.bare hno
    exact ⟨h1, h2, h3, h4, h5, h6, (hp hno).trans h7, h8, h9⟩
  · obtain ⟨h1, h2, h3, h4⟩ := hx.placed
    exact ⟨fun w hw => stageHeld_same rfl rfl rfl rfl (h1 w hw), h2, h3, h4⟩

/-- A station that is ONLINE and stays so keeps its promises by its table and its switch. -/
theorem stationOk_online (hx : StationOk l x) (hon : x.link = .online) (hl : y.link = x.link) (hp : y.present = x.present)
    (ht : TableOk y) (hs : y.SwitchPlaced) : StationOk l y where
  absent h := by
    rw [hp] at h
    have := hx.absent h
    rw [hon] at this
    exact (nomatch this)
  bare h := absurd (hl.trans hon) h
  table := ht
  placed := hs

theorem online_of_switch (hx : StationOk l x) (h : x.switch = some w) : x.link = .online := by
  by_contra hno
  obtain ⟨-, -, -, -, -, -, -, hsw, -⟩ := hx.bare hno
  rw [hsw] at h
  exact (nomatch h)

theorem online_of_outLoad (hx : StationOk l x) {o : OutLoad} (h : x.outLoad = some o) : x.link = .online := by
  by_contra hno
  obtain ⟨-, -, hl, -⟩ := hx.bare hno
  rw [hl] at h
  exact (nomatch h)

theorem online_of_outSelect (hx : StationOk l x) {o : OutSelect} (h : x.outSelect = some o) : x.link = .online := by
  by_contra hno
  obtain ⟨-, -, -, hs, -⟩ := hx.bare hno
  rw [hs] at h
  exact (nomatch h)

/-! ### The switch in progress and the two places -/

theorem places_of_free (h : x.SwitchPlaced) (hw : x.switch = none) : x.selectPlace = none ∧ x.loadPlace = none := by
  obtain ⟨-, hs, hl, -⟩ := h
  refine ⟨Option.eq_none_iff_forall_ne_some.mpr fun k hk => ?_, Option.eq_none_iff_forall_ne_some.mpr fun p hp => ?_⟩
  · obtain ⟨w, hsw, -⟩ := hs k hk
    rw [hw] at hsw
    exact (nomatch hsw)
  · obtain ⟨w, hsw, -⟩ := hl p hp
    rw [hw] at hsw
    exact (nomatch hsw)

theorem placed_free (hw : x.switch = none) (hs : x.selectPlace = none) (hl : x.loadPlace = none) : x.SwitchPlaced :=
  ⟨fun _ h => (nomatch hw.symm.trans h), fun _ h => (nomatch hs.symm.trans h), fun _ h => (nomatch hl.symm.trans h), fun _ => hw⟩

theorem placed_busy (hw : x.switch = some w) (hheld : x.StageHeld w) (hx : x.excluded = false)
    (hs : ∀ k, x.selectPlace = some k → w.stage = .selectHeld k) (hl : ∀ p, x.loadPlace = some p → w.stage = .coldHeld) :
    x.SwitchPlaced := by
  refine ⟨fun v hv => ?_, fun k hk => ⟨w, hw, hs k hk⟩, fun p hp => ⟨w, hw, hl p hp⟩, fun h => ?_⟩
  · rw [hw] at hv
    obtain rfl := Option.some.inj hv
    exact hheld
  · rw [hx] at h
    exact (nomatch h)

/-- What a switch in progress says of its station. -/
theorem placed_busy_iff (h : x.SwitchPlaced) (hw : x.switch = some w) : x.StageHeld w ∧ x.excluded = false
    ∧ (∀ k, x.selectPlace = some k → w.stage = .selectHeld k) ∧ ∀ p, x.loadPlace = some p → w.stage = .coldHeld := by
  obtain ⟨hheld, hs, hl, hx⟩ := h
  refine ⟨hheld w hw, ?_, fun k hk => ?_, fun p hp => ?_⟩
  · by_contra hex
    have hno := hx (by simpa using hex)
    rw [hw] at hno
    exact (nomatch hno)
  · obtain ⟨v, hv, hstage⟩ := hs k hk
    rw [hw] at hv
    obtain rfl := Option.some.inj hv
    exact hstage
  · obtain ⟨v, hv, hstage⟩ := hl p hp
    rw [hw] at hv
    obtain rfl := Option.some.inj hv
    exact hstage

/-- The LOAD place holds the patch of the switch whose cold load it is. -/
theorem coldPatch (h : x.SwitchPlaced) {p : Nat} (hp : x.loadPlace = some p) :
    ∃ w, x.switch = some w ∧ w.stage = .coldHeld ∧ w.patch = p := by
  obtain ⟨w, hw, hstage⟩ := h.2.2.1 p hp
  have hheld := h.1 w hw
  unfold Station.StageHeld at hheld
  rw [hstage] at hheld
  exact ⟨w, hw, hstage, Option.some.inj (hheld.symm.trans hp)⟩

/-- Without a cold load the table is as arranged. -/
theorem Arranged.uncold {n : Nat} {slot : Nat → Slot} {load select : Option Nat} {selected : Selected} {cold : Option Nat}
    (h : Arranged n slot load select selected cold) : Arranged n slot load select selected none :=
  { h with cold := fun _ hp => (nomatch hp) }

/-- A switch in progress is dropped, with what stands in the two places (R124, R127, R130). -/
theorem stationOk_dropped (hx : StationOk l x) (hy : y = { x with
    switch := none, selectPlace := none, loadPlace := none, lastSwitch := y.lastSwitch, silence := y.silence, failed := y.failed })
    (hs : x.link ≠ .online → y.silence = false) : StationOk l y := by
  rw [hy]
  refine ⟨hx.absent, fun hno => ?_, hx.table.uncold, placed_free rfl rfl rfl⟩
  obtain ⟨h1, h2, h3, h4, -, -, h7, -, -⟩ := hx.bare hno
  exact ⟨h1, h2, h3, h4, rfl, rfl, h7, rfl, hs hno⟩

end

end Sys2Proof.Proofs

namespace Sys2Proof.Proofs

open Sys2Proof Sys2Proof.Machine

/-! ## What the acts on a slot table leave of its promises -/

namespace Arranged

variable {n : Nat} {slot slot' : Nat → Slot} {load select : Option Nat} {selected : Selected} {cold : Option Nat} {k p : Nat}

/-- A patch that no slot holds may wait in the LOAD place. -/
theorem withCold (h : Arranged n slot load select selected cold) (hp : ∀ j, 1 ≤ j → j ≤ n → (slot j).holds p = false) :
    Arranged n slot load select selected (some p) :=
  { h with cold := fun q hq j h1 hj => by rw [← Option.some.inj hq]; exact hp j h1 hj }

/-- The outstanding SELECT is answered or lost. -/
theorem unselect (h : Arranged n slot load select selected cold) {sel : Selected}
    (ht : ∀ j, sel = .slot j → select = some j ∨ selected = .slot j) : Arranged n slot load none sel cold :=
  { h with
    select := fun _ hj => (nomatch hj)
    selected := fun j hj => (ht j hj).elim (h.select j) (h.selected j) }

/-- A SELECT for a RESIDENT slot goes out. -/
theorem withSelect (h : Arranged n slot load select selected cold) (h1 : 1 ≤ k) (hk : k ≤ n) (hr : (slot k).st = .resident) :
    Arranged n slot load (some k) selected cold :=
  { h with select := fun j hj => by rw [← Option.some.inj hj]; exact ⟨h1, hk, hr⟩ }

/-- The LOADING slot has its content: the same patch, and what was clean stays so. -/
theorem load_taken (h : Arranged n slot (some k) select selected cold) (hs : ∀ j, 1 ≤ j → j ≠ k → slot' j = slot j)
    (hst : (slot' k).st = .resident) (hp : (slot' k).patch = (slot k).patch) (hstale : (slot' k).stale = (slot k).stale)
    (hclean : (slot k).stale = false) : Arranged n slot' none select selected cold := by
  obtain ⟨h1, hn⟩ := h.target k rfl
  have hold : (slot k).st = .loading := (h.loading k h1 hn).mpr rfl
  have carries (j q : Nat) (hj1 : 1 ≤ j) : (slot' j).carries q = (slot j).carries q := by
    by_cases hj : j = k
    · subst hj
      rw [Slot.carries, Slot.carries, hp, hst, hold]
      rfl
    · rw [hs j hj1 hj]
  have away (j : Nat) (hr : (slot j).st = .resident) : j ≠ k := by
    rintro rfl
    rw [hold] at hr
    exact (nomatch hr)
  refine ⟨fun j hj1 hjn => ?_, fun _ hj => (nomatch hj), fun a b q ha ha' hb hb' hqa hqb => ?_, fun j hj1 hjn hst' hpj => ?_,
    fun q hq j hj1 hjn => ?_, fun j hj => ?_, fun j hj => ?_⟩
  · by_cases hj : j = k
    · subst hj
      rw [hst]
      exact ⟨fun hno => (nomatch hno), fun hno => (nomatch hno)⟩
    · rw [hs j hj1 hj, h.loading j hj1 hjn]
      exact ⟨fun he => absurd (Option.some.inj he).symm hj, fun hno => (nomatch hno)⟩
  · rw [carries _ _ ha] at hqa
    rw [carries _ _ hb] at hqb
    exact h.distinct a b q ha ha' hb hb' hqa hqb
  · by_cases hj : j = k
    · subst hj
      rw [hstale, hclean] at hst'
      exact (nomatch hst')
    · rw [hs j hj1 hj] at hst' hpj ⊢
      exact h.stale j hj1 hjn hst' hpj
  · have hh := h.cold q hq j hj1 hjn
    by_cases hj : j = k
    · subst hj
      rw [Slot.holds, hstale, carries _ _ hj1]
      exact hh
    · rw [hs j hj1 hj]
      exact hh
  · obtain ⟨hj1, hjn, hr⟩ := h.select j hj
    rw [hs j hj1 (away j hr)]
    exact ⟨hj1, hjn, hr⟩
  · obtain ⟨hj1, hjn, hr⟩ := h.selected j hj
    rw [hs j hj1 (away j hr)]
    exact ⟨hj1, hjn, hr⟩

/-- The LOADING slot gives up its patch. -/
theorem load_dropped (h : Arranged n slot (some k) select selected cold) (hs : ∀ j, 1 ≤ j → j ≠ k → slot' j = slot j)
    (hst : (slot' k).st ≠ .loading) (hp : (slot' k).st = .empty ∨ (slot' k).patch = none)
    (hstale : (slot' k).stale = true → (slot' k).patch = none) : Arranged n slot' none select selected cold := by
  obtain ⟨h1, hn⟩ := h.target k rfl
  have hold : (slot k).st = .loading := (h.loading k h1 hn).mpr rfl
  have released (q : Nat) : (slot' k).carries q = false := by
    rw [← Bool.not_eq_true, carries_iff]
    rintro ⟨he, hq⟩
    rcases hp with hp | hp
    · exact he hp
    · rw [hp] at hq
      exact (nomatch hq)
  have away (j : Nat) (hr : (slot j).st = .resident) : j ≠ k := by
    rintro rfl
    rw [hold] at hr
    exact (nomatch hr)
  have kept (j q : Nat) (hj1 : 1 ≤ j) (hq : (slot' j).carries q = true) : (slot j).carries q = true := by
    by_cases hj : j = k
    · subst hj
      rw [released] at hq
      exact (nomatch hq)
    · rw [← hs j hj1 hj]
      exact hq
  refine ⟨fun j hj1 hjn => ?_, fun _ hj => (nomatch hj), fun a b q ha ha' hb hb' hqa hqb =>
    h.distinct a b q ha ha' hb hb' (kept a q ha hqa) (kept b q hb hqb), fun j hj1 hjn hst' hpj => ?_, fun q hq j hj1 hjn => ?_,
    fun j hj => ?_, fun j hj => ?_⟩
  · by_cases hj : j = k
    · subst hj
      exact ⟨fun hl => absurd hl hst, fun hno => (nomatch hno)⟩
    · rw [hs j hj1 hj, h.loading j hj1 hjn]
      exact ⟨fun he => absurd (Option.some.inj he).symm hj, fun hno => (nomatch hno)⟩
  · by_cases hj : j = k
    · subst hj
      exact absurd (hstale hst') hpj
    · rw [hs j hj1 hj] at hst' hpj ⊢
      exact h.stale j hj1 hjn hst' hpj
  · by_cases hj : j = k
    · subst hj
      rw [Slot.holds, released, Bool.and_false]
    · rw [hs j hj1 hj]
      exact h.cold q hq j hj1 hjn
  · obtain ⟨hj1, hjn, hr⟩ := h.select j hj
    rw [hs j hj1 (away j hr)]
    exact ⟨hj1, hjn, hr⟩
  · obtain ⟨hj1, hjn, hr⟩ := h.selected j hj
    rw [hs j hj1 (away j hr)]
    exact ⟨hj1, hjn, hr⟩

/-- The patch of the LOADING slot, once that has given it up, is held by no other. -/
theorem load_unheld (h : Arranged n slot (some k) select selected cold) (hs : ∀ j, 1 ≤ j → j ≠ k → slot' j = slot j)
    (hp : (slot k).patch = some p) (hk : (slot' k).holds p = false) : ∀ j, 1 ≤ j → j ≤ n → (slot' j).holds p = false := by
  obtain ⟨h1, hn⟩ := h.target k rfl
  have hold : (slot k).st = .loading := (h.loading k h1 hn).mpr rfl
  intro j hj1 hjn
  by_cases hj : j = k
  · rw [hj]
    exact hk
  · rw [hs j hj1 hj, ← Bool.not_eq_true, holds_iff]
    rintro ⟨-, he, hq⟩
    exact hj (h.distinct j k p hj1 hjn h1 hn (carries_iff.mpr ⟨he, hq⟩) (carries_iff.mpr ⟨by rw [hold]; exact (nomatch ·), hp⟩))

/-- A LOAD for a patch that no slot holds goes into a slot that is neither the SELECT's nor the selected one. -/
theorem load_sent (h : Arranged n slot none select selected cold) (h1 : 1 ≤ k) (hk : k ≤ n) (hs : ∀ j, 1 ≤ j → j ≠ k → slot' j = slot j)
    (hst : slot' k = { st := .loading, patch := some p, stale := false, flush := false })
    (hp : ∀ j, 1 ≤ j → j ≤ n → (slot j).holds p = false) (hsel : select ≠ some k) (hcur : selected ≠ .slot k) :
    Arranged n slot' (some k) select selected none := by
  have free (j : Nat) (hj1 : 1 ≤ j) (hjn : j ≤ n) : (slot j).carries p = false := by
    rw [← Bool.not_eq_true]
    intro hc
    obtain ⟨he, hq⟩ := carries_iff.mp hc
    have hh := hp j hj1 hjn
    rw [Slot.holds, hc, Bool.and_true, Bool.not_eq_false'] at hh
    exact (nomatch (h.loading j hj1 hjn).mp (h.stale j hj1 hjn hh (by rw [hq]; exact (nomatch ·))))
  have hck : ∀ q, (slot' k).carries q = true → q = p := fun q hq => by
    rw [hst] at hq
    exact (Option.some.inj (carries_iff.mp hq).2).symm
  refine ⟨fun j hj1 hjn => ?_, fun j hj => ?_, fun a b q ha ha' hb hb' hqa hqb => ?_, fun j hj1 hjn hst' hpj => ?_,
    fun _ hq => (nomatch hq), fun j hj => ?_, fun j hj => ?_⟩
  · by_cases hj : j = k
    · rw [hj, hst]
      exact ⟨fun _ => rfl, fun _ => rfl⟩
    · rw [hs j hj1 hj, h.loading j hj1 hjn]
      exact ⟨fun hno => (nomatch hno), fun he => absurd (Option.some.inj he).symm hj⟩
  · rw [← Option.some.inj hj]
    exact ⟨h1, hk⟩
  · by_cases hak : a = k
    · by_cases hbk : b = k
      · rw [hak, hbk]
      · rw [hak] at hqa
        rw [hs b hb hbk, hck q hqa, free b hb hb'] at hqb
        exact (nomatch hqb)
    · by_cases hbk : b = k
      · rw [hbk] at hqb
        rw [hs a ha hak, hck q hqb, free a ha ha'] at hqa
        exact (nomatch hqa)
      · rw [hs a ha hak] at hqa
        rw [hs b hb hbk] at hqb
        exact h.distinct a b q ha ha' hb hb' hqa hqb
  · by_cases hj : j = k
    · rw [hj, hst] at hst'
      exact (nomatch hst')
    · rw [hs j hj1 hj] at hst' hpj ⊢
      exact h.stale j hj1 hjn hst' hpj
  · obtain ⟨hj1, hjn, hr⟩ := h.select j hj
    have hne : j ≠ k := by rintro rfl; exact hsel hj
    rw [hs j hj1 hne]
    exact ⟨hj1, hjn, hr⟩
  · obtain ⟨hj1, hjn, hr⟩ := h.selected j hj
    have hne : j ≠ k := by rintro rfl; exact hcur hj
    rw [hs j hj1 hne]
    exact ⟨hj1, hjn, hr⟩

/-- An empty table. -/
theorem blank (n : Nat) (h : ∀ k, 1 ≤ k → k ≤ n → slot k = Slot.blank) : Arranged n slot none none .none none :=
  ⟨fun k h1 hk => ⟨fun hl => (by rw [h k h1 hk] at hl; exact (nomatch hl)), fun hno => (nomatch hno)⟩, fun _ hno => (nomatch hno),
    fun a b q ha ha' _ _ hqa _ => (by rw [h a ha ha'] at hqa; exact (nomatch hqa)),
    fun k h1 hk hs => (by rw [h k h1 hk] at hs; exact (nomatch hs)), fun _ hno => (nomatch hno), fun _ hno => (nomatch hno),
    fun _ hno => (nomatch hno)⟩

/-- Slots are written that keep their patch or give it up, and their LOADING and RESIDENT state where it counts. -/
theorem rewritten (h : Arranged n slot load select selected cold)
    (hl : ∀ j, 1 ≤ j → j ≤ n → ((slot' j).st = .loading ↔ (slot j).st = .loading))
    (hc : ∀ j q, 1 ≤ j → j ≤ n → (slot' j).carries q = true → (slot j).carries q = true)
    (hh : ∀ j q, 1 ≤ j → j ≤ n → (slot' j).holds q = true → (slot j).holds q = true)
    (hs : ∀ j, 1 ≤ j → j ≤ n → (slot' j).stale = true → (slot' j).patch ≠ none → (slot' j).st = .loading)
    (hr : ∀ j, select = some j ∨ selected = .slot j → 1 ≤ j → j ≤ n → (slot j).st = .resident → (slot' j).st = .resident) :
    Arranged n slot' load select selected cold where
  loading j h1 hj := (hl j h1 hj).trans (h.loading j h1 hj)
  target := h.target
  distinct a b q ha ha' hb hb' hqa hqb := h.distinct a b q ha ha' hb hb' (hc a q ha ha' hqa) (hc b q hb hb' hqb)
  stale := hs
  cold q hq j h1 hj := by
    rw [← Bool.not_eq_true]
    intro hno
    have := hh j q h1 hj hno
    rw [h.cold q hq j h1 hj] at this
    exact (nomatch this)
  select j hj := by
    obtain ⟨h1, hn, hres⟩ := h.select j hj
    exact ⟨h1, hn, hr j (.inl hj) h1 hn hres⟩
  selected j hj := by
    obtain ⟨h1, hn, hres⟩ := h.selected j hj
    exact ⟨h1, hn, hr j (.inr hj) h1 hn hres⟩

end Arranged

/-- A write of slot `k` of the table. -/
theorem slot_setSlot {st : Station} {k j : Nat} (f : Slot → Slot) (h1 : 1 ≤ k) (hk : k ≤ st.slots.length) (hj : 1 ≤ j) :
    (st.setSlot k f).slot j = if j = k then f (st.slot k) else st.slot j := by
  obtain ⟨k, rfl⟩ : ∃ m, k = m + 1 := ⟨k - 1, by omega⟩
  obtain ⟨j, rfl⟩ : ∃ m, j = m + 1 := ⟨j - 1, by omega⟩
  have hlt : k < st.slots.length := by omega
  by_cases hjk : k = j
  · subst hjk
    simp [Station.slot, Station.setSlot, List.getD_eq_getElem?_getD, hlt]
  · have hne : ¬(j + 1 = k + 1) := by omega
    rw [if_neg hne]
    simp [Station.slot, Station.setSlot, List.getD_eq_getElem?_getD, List.getElem?_modify, hjk]

end Sys2Proof.Proofs

namespace Sys2Proof.Proofs

open Sys2Proof Sys2Proof.Machine

/-! ## What a station promises a rebuild -/

/-- What READY rests on at one station, with the patch tracked for it and its entry in the account (R166 to R168). -/
def Readied (tracked : Option Nat) (entry : Option Account) (st : Station) : Prop :=
  st.serves = true → entry ≠ some .notCounted ∧ (∀ w ∈ st.switch, w.rebuild = true ∧ tracked = some w.patch)
    ∧ (entry = some .satisfied → ∀ p, tracked = some p → st.Confirmed p ∧ st.outSelect = none ∧ st.switch = none)

/-- The entry of a station whose switch has ended (R125, R167). -/
def entryAfter (mark : Bool) (o : SwitchEnd) (a : Option Account) : Option Account :=
  match mark, o with
  | true, .done => a.map (reportedEntry (some true))
  | true, .missed => a.map (reportedEntry (some false))
  | _, _ => a

theorem reportedEntry_notCounted {b : Bool} {c : Account} (h : reportedEntry (some b) c = .notCounted) : c = .notCounted := by
  revert h
  cases b <;> cases c <;> decide

theorem reportedEntry_failed {c : Account} (h : reportedEntry (some false) c = .satisfied) : c = .satisfied := by
  revert h
  cases c <;> decide

theorem entryAfter_counted {mark : Bool} {o : SwitchEnd} {a : Option Account} (h : a ≠ some .notCounted) :
    entryAfter mark o a ≠ some .notCounted := by
  have counted (b : Bool) : a.map (reportedEntry (some b)) ≠ some .notCounted := fun hno => by
    obtain ⟨c, rfl, hb⟩ := Option.map_eq_some_iff.mp hno
    exact h (congrArg some (reportedEntry_notCounted hb))
  unfold entryAfter
  split
  · exact counted true
  · exact counted false
  · exact h

theorem entryAfter_missed_satisfied {mark : Bool} {a : Option Account} (h : entryAfter mark .missed a = some .satisfied) :
    a = some .satisfied := by
  cases mark with
  | false => exact h
  | true =>
    obtain ⟨c, rfl, hb⟩ := Option.map_eq_some_iff.mp h
    exact congrArg some (reportedEntry_failed hb)

section

variable {l : Bool} {x y : Station} {w : Switch} {k : Nat} {tracked : Option Nat} {entry : Option Account}

/-- Confirmed selection looks at the selected slot alone. -/
theorem confirmed_same {p : Nat} (h : x.Confirmed p) (hc : y.selected = x.selected)
    (hs : ∀ j, x.selected = .slot j → (y.slot j).st = (x.slot j).st ∧ ∀ q, (y.slot j).holds q = (x.slot j).holds q) :
    y.Confirmed p := by
  obtain ⟨j, hj, hst, hh⟩ := h
  obtain ⟨hst', hh'⟩ := hs j hj
  exact ⟨j, hc.trans hj, hst'.trans hst, (hh' p).trans hh⟩

/-- A station that a slot's content, a switch's stage or anything that READY does not rest on has changed at. -/
theorem readied_same (h : Readied tracked entry x) (hl : y.link = x.link) (he : y.excluded = x.excluded)
    (hsw : ∀ v, y.switch = some v → ∃ w, x.switch = some w ∧ v.rebuild = w.rebuild ∧ v.patch = w.patch)
    (ho : x.switch = none → x.outSelect = none → y.outSelect = none) (hc : x.outSelect = none → y.selected = x.selected)
    (hs : ∀ j, x.selected = .slot j → (y.slot j).st = (x.slot j).st ∧ ∀ q, (y.slot j).holds q = (x.slot j).holds q) :
    Readied tracked entry y := by
  intro hserves
  obtain ⟨hcount, hmark, hsat⟩ := h (by rw [serves_iff] at hserves ⊢; rw [← hl, ← he]; exact hserves)
  refine ⟨hcount, fun v hv => ?_, fun hentry p hp => ?_⟩
  · obtain ⟨w, hw, hr, hq⟩ := hsw v hv
    rw [hr, hq]
    exact hmark w hw
  · obtain ⟨hconf, hout, hnone⟩ := hsat hentry p hp
    refine ⟨confirmed_same hconf (hc hout) hs, ho hnone hout, Option.eq_none_iff_forall_ne_some.mpr fun v hv => ?_⟩
    obtain ⟨w, hw, -⟩ := hsw v hv
    rw [hnone] at hw
    exact (nomatch hw)

/-- A switch that ends without a confirmation leaves its entry unconfirmed. -/
theorem readied_missed (h : Readied tracked entry x) (hw : x.switch = some w) (hl : y.link = x.link)
    (he : y.excluded = x.excluded) (hsw : y.switch = none) : Readied tracked (entryAfter w.rebuild .missed entry) y := by
  intro hserves
  obtain ⟨hcount, hmark, hsat⟩ := h (by rw [serves_iff] at hserves ⊢; rw [← hl, ← he]; exact hserves)
  refine ⟨entryAfter_counted hcount, fun v hv => (nomatch hsw.symm.trans hv), fun hs => ?_⟩
  obtain ⟨-, -, hnone⟩ := hsat (entryAfter_missed_satisfied hs) w.patch (hmark w hw).2
  exact (nomatch hw.symm.trans hnone)

/-! ## The outstanding LOAD ends (R115, R119) -/

theorem loading_of_target (hx : StationOk l x) {o : OutLoad} (ho : x.outLoad = some o) :
    1 ≤ o.slot ∧ o.slot ≤ x.slots.length ∧ (x.slot o.slot).st = .loading := by
  have hload : x.outLoad.map (·.slot) = some o.slot := by rw [ho]; rfl
  obtain ⟨h1, hn⟩ := hx.table.target o.slot hload
  exact ⟨h1, hn, (hx.table.loading o.slot h1 hn).mpr hload⟩

/-- A switch that does not wait for the LOADING slot keeps its place when that slot is written. -/
theorem stageHeld_away (hx : TableOk x) (hheld : x.StageHeld w) (hk : (x.slot k).st = .loading) (hstage : w.stage ≠ .loading k)
    (hlen : y.slots.length = x.slots.length) (hs : ∀ j, 1 ≤ j → j ≠ k → y.slot j = x.slot j)
    (ho : y.outSelect = x.outSelect) (hp : y.selectPlace = x.selectPlace) (hc : y.loadPlace = x.loadPlace) : y.StageHeld w := by
  have away {j : Nat} (hr : (x.slot j).st = .resident) : j ≠ k := by
    rintro rfl
    rw [hk] at hr
    exact (nomatch hr)
  unfold Station.StageHeld at *
  split at hheld
  · next j hj =>
    obtain ⟨hpl, ⟨h1, hn, hr⟩, hh⟩ := hheld
    rw [Station.Resident, hs j h1 (away hr), hlen, hp]
    exact ⟨hpl, ⟨h1, hn, hr⟩, hh⟩
  · next j hj =>
    obtain ⟨hout, hh⟩ := hheld
    obtain ⟨h1, hn, hr⟩ := hx.select j hout
    rw [hs j h1 (away hr), ho]
    exact ⟨hout, hh⟩
  · next j hj =>
    obtain ⟨h1, hn, hst, hpatch⟩ := hheld
    have hne : j ≠ k := by
      rintro rfl
      exact hstage hj
    rw [hs j h1 hne, hlen]
    exact ⟨h1, hn, hst, hpatch⟩
  · next hj =>
    rw [hc]
    exact hheld

/-- The LOADING slot has been written, and no switch waits for it. -/
theorem placed_away (hx : StationOk l x) (hk : (x.slot k).st = .loading) (hw : ∀ w, x.switch = some w → w.stage ≠ .loading k)
    (hlen : y.slots.length = x.slots.length) (hs : ∀ j, 1 ≤ j → j ≠ k → y.slot j = x.slot j) (ho : y.outSelect = x.outSelect)
    (hp : y.selectPlace = x.selectPlace) (hc : y.loadPlace = x.loadPlace) (hsw : y.switch = x.switch)
    (he : y.excluded = x.excluded) : y.SwitchPlaced := by
  obtain ⟨h1, h2, h3, h4⟩ := hx.placed
  unfold Station.SwitchPlaced
  rw [hsw, hp, hc, he]
  exact ⟨fun w hsw => stageHeld_away hx.table (h1 w hsw) hk (hw w hsw) hlen hs ho hp hc, h2, h3, h4⟩

/-- The table once the outstanding LOAD of slot `k` has been answered. -/
theorem tableOk_loaded (hx : StationOk l x) {o : OutLoad} (ho : x.outLoad = some o) : TableOk (loadAnswered o.slot x) := by
  obtain ⟨h1, hn, hst⟩ := loading_of_target hx ho
  have hlen : (loadAnswered o.slot x).slots.length = x.slots.length := List.length_modify _ _ _
  have hself : (loadAnswered o.slot x).slot o.slot = slotLoaded (x.slot o.slot) :=
    (slot_setSlot slotLoaded h1 hn h1).trans (if_pos rfl)
  have hother (j : Nat) (hj1 : 1 ≤ j) (hj : j ≠ o.slot) : (loadAnswered o.slot x).slot j = x.slot j :=
    (slot_setSlot slotLoaded h1 hn hj1).trans (if_neg hj)
  have htable := hx.table
  unfold TableOk at htable
  rw [ho] at htable
  change Arranged _ _ none (x.outSelect.map (·.slot)) x.selected x.loadPlace
  rw [hlen]
  unfold slotLoaded at hself
  split_ifs at hself with hflush hstale
  · exact htable.load_dropped hother (by rw [hself]; exact (nomatch ·)) (.inl (by rw [hself]; rfl))
      (fun hs => by rw [hself] at hs; exact (nomatch hs))
  · exact htable.load_dropped hother (by rw [hself]; exact (nomatch ·)) (.inr (by rw [hself])) (fun _ => by rw [hself])
  · exact htable.load_taken hother (by rw [hself]) (by rw [hself]) (by rw [hself]) (by simpa using hstale)

theorem slot_loaded_other (hx : StationOk l x) {o : OutLoad} (ho : x.outLoad = some o) {j : Nat} (hj1 : 1 ≤ j) (hj : j ≠ o.slot) :
    (loadAnswered o.slot x).slot j = x.slot j := by
  obtain ⟨h1, hn, -⟩ := loading_of_target hx ho
  exact (slot_setSlot slotLoaded h1 hn hj1).trans (if_neg hj)

theorem slot_loaded_own (hx : StationOk l x) {o : OutLoad} (ho : x.outLoad = some o) :
    (loadAnswered o.slot x).slot o.slot = slotLoaded (x.slot o.slot) := by
  obtain ⟨h1, hn, -⟩ := loading_of_target hx ho
  exact (slot_setSlot slotLoaded h1 hn h1).trans (if_pos rfl)

/-- LOADED, where no switch waits for it. -/
theorem stationOk_loaded (hx : StationOk l x) {o : OutLoad} (ho : x.outLoad = some o)
    (hw : ∀ w, x.switch = some w → w.stage ≠ .loading o.slot) : StationOk l (loadAnswered o.slot x) := by
  obtain ⟨-, -, hst⟩ := loading_of_target hx ho
  exact stationOk_online hx (online_of_outLoad hx ho) rfl rfl (tableOk_loaded hx ho)
    (placed_away hx hst hw (List.length_modify _ _ _) (fun j hj1 hj => slot_loaded_other hx ho hj1 hj) rfl rfl rfl rfl rfl)

/-- LOADED into a clean slot, for which a switch waits: its SELECT takes its place. -/
theorem stationOk_loaded_selects (hx : StationOk l x) {o : OutLoad} (ho : x.outLoad = some o) (hw : x.switch = some w)
    (hstage : w.stage = .loading o.slot) (hstale : (x.slot o.slot).stale = false) (hflush : (x.slot o.slot).flush = false) :
    StationOk l ((loadAnswered o.slot x).queueSelect o.slot w) := by
  obtain ⟨h1, hn, hst⟩ := loading_of_target hx ho
  obtain ⟨hheld, hex, hsel, hcold⟩ := placed_busy_iff hx.placed hw
  have hown := slot_loaded_own hx ho
  rw [slotLoaded, if_neg (by rw [hflush]; exact Bool.false_ne_true), if_neg (by rw [hstale]; exact Bool.false_ne_true)] at hown
  have hpatch : (x.slot o.slot).patch = some w.patch := by
    unfold Station.StageHeld at hheld
    rw [hstage] at hheld
    exact hheld.2.2.2
  have hselect : (loadAnswered o.slot x).outSelect.map (·.slot) ≠ some o.slot := fun hout => by
    obtain ⟨-, -, hr⟩ := hx.table.select o.slot hout
    rw [hst] at hr
    exact (nomatch hr)
  rw [queueSelect_held hselect]
  refine stationOk_online hx (online_of_outLoad hx ho) rfl rfl
    (tableOk_same (tableOk_loaded hx ho) rfl rfl rfl rfl rfl) (placed_busy rfl ?_ hex (fun j hj => ?_) fun p hp => ?_)
  · refine ⟨rfl, ⟨h1, ?_, ?_⟩, ?_⟩
    · exact hn.trans (List.length_modify _ _ _).ge
    · change ((loadAnswered o.slot x).slot o.slot).st = _
      rw [hown]
    · change ((loadAnswered o.slot x).slot o.slot).holds _ = _
      rw [hown, holds_iff]
      exact ⟨hstale, (nomatch ·), hpatch⟩
  · rw [← Option.some.inj hj]
  · have := hcold p hp
    rw [hstage] at this
    exact (nomatch this)

/-- LOADED into a slot that has been marked, for which a switch waits: it becomes a cold load. -/
theorem stationOk_loaded_colds (hx : StationOk l x) {o : OutLoad} (ho : x.outLoad = some o) (hw : x.switch = some w)
    (hstage : w.stage = .loading o.slot) (hmark : (x.slot o.slot).stale = true ∨ (x.slot o.slot).flush = true) :
    StationOk l (coldened (loadAnswered o.slot x)) := by
  obtain ⟨hheld, hex, hsel, hcold⟩ := placed_busy_iff hx.placed hw
  have hpatch : (x.slot o.slot).patch = some w.patch := by
    unfold Station.StageHeld at hheld
    rw [hstage] at hheld
    exact hheld.2.2.2
  have hunheld : ((loadAnswered o.slot x).slot o.slot).holds w.patch = false := by
    rw [slot_loaded_own hx ho, slotLoaded, ← Bool.not_eq_true, holds_iff]
    rintro ⟨hs, he, hp⟩
    split_ifs at hs he hp with hf hs'
    · exact he rfl
    · exact hmark.elim (fun h => hs' h) fun h => hf h
  have htable := hx.table
  unfold TableOk at htable
  rw [ho] at htable
  have hnone : ∀ j, 1 ≤ j → j ≤ x.slots.length → ((loadAnswered o.slot x).slot j).holds w.patch = false :=
    htable.load_unheld (fun j hj1 hj => slot_loaded_other hx ho hj1 hj) hpatch hunheld
  rw [coldened_switch (st := loadAnswered o.slot x) hw]
  refine stationOk_online hx (online_of_outLoad hx ho) rfl rfl ?_ (placed_busy rfl rfl hex (fun _ hj => (nomatch hj)) fun _ _ => rfl)
  have ht := tableOk_loaded hx ho
  exact Arranged.withCold (by exact ht.uncold) fun j h1 hj => hnone j h1 (hj.trans (List.length_modify _ _ _).le)

end

end Sys2Proof.Proofs

namespace Sys2Proof.Proofs

open Sys2Proof Sys2Proof.Machine

/-! ## A station's promises, carried over an act on its record and its entry -/

/-- From the record `x` with the entry `a` to the record `y` with the entry `b`, where the patch `t` is tracked and `r` says that
a rebuild goes on: the promises of a station are kept, and it neither goes ONLINE nor changes its exclusion. -/
structure Carried (l r : Bool) (t : Option Nat) (x : Station) (a : Option Account) (y : Station) (b : Option Account) : Prop where
  ok : StationOk l y
  link : y.link = .online → x.link = .online
  excluded : y.excluded = x.excluded
  ready : r = true → Readied t a x → Readied t b y

section

variable {l r : Bool} {t : Option Nat} {x y z : Station} {a b c : Option Account} {w : Switch} {k : Nat}

namespace Carried

theorem refl (hx : StationOk l x) : Carried l r t x a x a := ⟨hx, id, rfl, fun _ => id⟩

theorem trans (h : Carried l r t x a y b) (h' : Carried l r t y b z c) : Carried l r t x a z c :=
  ⟨h'.ok, fun hl => h.link (h'.link hl), h'.excluded.trans h.excluded, fun hr hx => h'.ready hr (h.ready hr hx)⟩

/-- An act on a station that is ONLINE or not, with its entry left as it is, and what READY rests on. -/
theorem same (hy : StationOk l y) (hl : y.link = x.link) (he : y.excluded = x.excluded)
    (hsw : ∀ v, y.switch = some v → ∃ w, x.switch = some w ∧ v.rebuild = w.rebuild ∧ v.patch = w.patch)
    (ho : x.switch = none → x.outSelect = none → y.outSelect = none) (hc : x.outSelect = none → y.selected = x.selected)
    (hs : ∀ j, x.selected = .slot j → (y.slot j).st = (x.slot j).st ∧ ∀ q, (y.slot j).holds q = (x.slot j).holds q) :
    Carried l r t x a y a :=
  ⟨hy, fun h => hl.symm.trans h, he, fun _ hx => readied_same hx hl he hsw ho hc hs⟩

/-- The switch ends MISSED. -/
theorem missed (hy : StationOk l y) (hw : x.switch = some w) (hl : y.link = x.link) (he : y.excluded = x.excluded)
    (hsw : y.switch = none) : Carried l r t x a y (entryAfter w.rebuild .missed a) :=
  ⟨hy, fun h => hl.symm.trans h, he, fun _ hx => readied_missed hx hw hl he hsw⟩

theorem beside (hx : StationOk l x) (h : Beside x y) (hp : x.link ≠ .online → y.preload = x.preload) : Carried l r t x a y a := by
  have p : ∀ {α : Type} (f : Station → α), _ := fun f => congrArg f h
  refine same (stationOk_beside hx h hp) (p (·.link)) (p (·.excluded)) (fun v hv => ⟨v, ?_, rfl, rfl⟩) (fun _ ho => ?_)
    (fun _ => p (·.selected)) fun j _ => ?_
  · exact (p (·.switch)).symm.trans hv
  · exact (p (·.outSelect)).trans ho
  · have hslot : y.slot j = x.slot j := congrArg (fun s : List Slot => s.getD (j - 1) Slot.blank) (p (·.slots))
    rw [hslot]
    exact ⟨rfl, fun _ => rfl⟩

end Carried

/-! ## LOADED (R115, R119) -/

theorem selected_away (hx : StationOk l x) {o : OutLoad} (ho : x.outLoad = some o) {j : Nat} (hj : x.selected = .slot j) :
    1 ≤ j ∧ j ≠ o.slot := by
  obtain ⟨h1, -, hr⟩ := hx.table.selected j hj
  obtain ⟨-, -, hst⟩ := loading_of_target hx ho
  refine ⟨h1, ?_⟩
  rintro rfl
  rw [hst] at hr
  exact (nomatch hr)

/-- What LOADED leaves of the selected slot. -/
theorem loaded_selected (hx : StationOk l x) {o : OutLoad} (ho : x.outLoad = some o) (hy : y.slots = (loadAnswered o.slot x).slots)
    {j : Nat} (hj : x.selected = .slot j) : (y.slot j).st = (x.slot j).st ∧ ∀ q, (y.slot j).holds q = (x.slot j).holds q := by
  obtain ⟨h1, hne⟩ := selected_away hx ho hj
  have hslot : y.slot j = x.slot j := by
    rw [← slot_loaded_other hx ho h1 hne, Station.slot, Station.slot, hy]
  rw [hslot]
  exact ⟨rfl, fun _ => rfl⟩

theorem carried_loaded (hx : StationOk l x) {o : OutLoad} (ho : x.outLoad = some o)
    (hw : ∀ w, x.switch = some w → w.stage ≠ .loading o.slot) : Carried l r t x a (loadAnswered o.slot x) a :=
  .same (stationOk_loaded hx ho hw) rfl rfl (fun v hv => ⟨v, hv, rfl, rfl⟩) (fun _ h => h) (fun _ => rfl)
    fun _ hj => loaded_selected hx ho rfl hj

theorem carried_loaded_selects (hx : StationOk l x) {o : OutLoad} (ho : x.outLoad = some o) (hw : x.switch = some w)
    (hstage : w.stage = .loading o.slot) (hstale : (x.slot o.slot).stale = false) (hflush : (x.slot o.slot).flush = false) :
    Carried l r t x a ((loadAnswered o.slot x).queueSelect o.slot w) a := by
  have hok := stationOk_loaded_selects hx ho hw hstage hstale hflush
  unfold Station.queueSelect at hok ⊢
  split at hok
  · next h =>
    rw [if_pos h]
    exact .same hok rfl rfl (fun v hv => ⟨w, hw, by rw [← Option.some.inj hv], by rw [← Option.some.inj hv]⟩) (fun _ h => h)
      (fun _ => rfl) fun _ hj => loaded_selected hx ho rfl hj
  · next h =>
    rw [if_neg h]
    exact .same hok rfl rfl (fun v hv => ⟨w, hw, by rw [← Option.some.inj hv], by rw [← Option.some.inj hv]⟩) (fun _ h => h)
      (fun _ => rfl) fun _ hj => loaded_selected hx ho rfl hj

theorem carried_loaded_colds (hx : StationOk l x) {o : OutLoad} (ho : x.outLoad = some o) (hw : x.switch = some w)
    (hstage : w.stage = .loading o.slot) (hmark : (x.slot o.slot).stale = true ∨ (x.slot o.slot).flush = true) :
    Carried l r t x a (coldened (loadAnswered o.slot x)) a := by
  have hok := stationOk_loaded_colds hx ho hw hstage hmark
  have he := coldened_switch (st := loadAnswered o.slot x) hw
  rw [he] at hok ⊢
  exact .same hok rfl rfl (fun v hv => ⟨w, hw, by rw [← Option.some.inj hv], by rw [← Option.some.inj hv]⟩) (fun _ h => h)
    (fun _ => rfl) fun _ hj => loaded_selected hx ho rfl hj

/-! ## LOAD_FAILED and the timeout of a LOAD (R115, R126) -/

theorem slot_lost_other (hx : StationOk l x) {o : OutLoad} (ho : x.outLoad = some o) {j : Nat} (hj1 : 1 ≤ j) (hj : j ≠ o.slot) :
    (loadLost o x).slot j = x.slot j := by
  obtain ⟨h1, hn, -⟩ := loading_of_target hx ho
  exact (slot_setSlot (fun _ => Slot.blank) h1 hn hj1).trans (if_neg hj)

theorem tableOk_lost (hx : StationOk l x) {o : OutLoad} (ho : x.outLoad = some o) : TableOk (loadLost o x) := by
  obtain ⟨h1, hn, hst⟩ := loading_of_target hx ho
  have hlen : (loadLost o x).slots.length = x.slots.length := List.length_modify _ _ _
  have hself : (loadLost o x).slot o.slot = Slot.blank := (slot_setSlot (fun _ => Slot.blank) h1 hn h1).trans (if_pos rfl)
  have htable := hx.table
  unfold TableOk at htable
  rw [ho] at htable
  change Arranged _ _ none (x.outSelect.map (·.slot)) x.selected x.loadPlace
  rw [hlen]
  exact htable.load_dropped (fun j hj1 hj => slot_lost_other hx ho hj1 hj) (by rw [hself]; exact (nomatch ·))
    (.inl (by rw [hself]; rfl)) (fun hs => by rw [hself] at hs; exact (nomatch hs))

theorem carried_lost (hx : StationOk l x) {o : OutLoad} (ho : x.outLoad = some o)
    (hw : ∀ w, x.switch = some w → w.stage ≠ .loading o.slot) : Carried l r t x a (loadLost o x) a := by
  obtain ⟨-, -, hst⟩ := loading_of_target hx ho
  refine .same (stationOk_online hx (online_of_outLoad hx ho) rfl rfl (tableOk_lost hx ho)
    (placed_away hx hst hw (List.length_modify _ _ _) (fun j hj1 hj => slot_lost_other hx ho hj1 hj) rfl rfl rfl rfl rfl))
    rfl rfl (fun v hv => ⟨v, hv, rfl, rfl⟩) (fun _ h => h) (fun _ => rfl) fun j hj => ?_
  obtain ⟨h1, hne⟩ := selected_away hx ho hj
  rw [slot_lost_other hx ho h1 hne]
  exact ⟨rfl, fun _ => rfl⟩

/-- Without a SELECT or a cold load to send both places are empty. -/
theorem places_of_stage (hx : x.SwitchPlaced) (hw : x.switch = some w) (hs : ∀ k, w.stage ≠ .selectHeld k)
    (hc : w.stage ≠ .coldHeld) : x.selectPlace = none ∧ x.loadPlace = none := by
  obtain ⟨-, -, hsel, hcold⟩ := placed_busy_iff hx hw
  exact ⟨Option.eq_none_iff_forall_ne_some.mpr fun k hk => hs k (hsel k hk),
    Option.eq_none_iff_forall_ne_some.mpr fun p hp => hc (hcold p hp)⟩

theorem carried_lost_waited (hx : StationOk l x) {o : OutLoad} (ho : x.outLoad = some o) (hw : x.switch = some w)
    (hstage : w.stage = .loading o.slot) : Carried l r t x a (switchEnded w .missed none (loadLost o x))
      (entryAfter w.rebuild .missed a) := by
  obtain ⟨hsel, hcold⟩ := places_of_stage hx.placed hw (by rw [hstage]; exact fun _ => (nomatch ·)) (by rw [hstage]; exact (nomatch ·))
  exact .missed (stationOk_online hx (online_of_outLoad hx ho) rfl rfl (tableOk_same (tableOk_lost hx ho) rfl rfl rfl rfl rfl)
    (placed_free rfl hsel hcold)) hw rfl rfl rfl

/-! ## SELECTED and the timeout of a SELECT (R116) -/

/-- The outstanding SELECT leaves a station, the switch that it does not serve staying. -/
theorem stationOk_unselected (hx : StationOk l x) {o : OutSelect} (ho : x.outSelect = some o) {sel : Selected}
    (hsel : ∀ j, sel = .slot j → j = o.slot ∨ x.selected = .slot j) (hw : ∀ w, x.switch = some w → w.stage ≠ .selecting o.slot) :
    StationOk l (selectAnswered sel x) := by
  have htable := hx.table
  unfold TableOk at htable
  refine stationOk_online hx (online_of_outSelect hx ho) rfl rfl (htable.unselect fun j hj => ?_) ?_
  · exact (hsel j hj).imp_left fun h => by rw [ho, h]; rfl
  · obtain ⟨h1, h2, h3, h4⟩ := hx.placed
    refine ⟨fun w hsw => ?_, h2, h3, h4⟩
    have hheld := h1 w hsw
    unfold Station.StageHeld at *
    split at hheld
    · exact hheld
    · next j hj =>
      rw [ho] at hheld
      exact absurd (hj.trans (congrArg _ (Option.some.inj hheld.1).symm)) (hw w hsw)
    · exact hheld
    · exact hheld

theorem carried_unselected (hx : StationOk l x) {o : OutSelect} (ho : x.outSelect = some o) {sel : Selected}
    (hsel : ∀ j, sel = .slot j → j = o.slot ∨ x.selected = .slot j) (hw : ∀ w, x.switch = some w → w.stage ≠ .selecting o.slot) :
    Carried l r t x a (selectAnswered sel x) a :=
  .same (stationOk_unselected hx ho hsel hw) rfl rfl (fun v hv => ⟨v, hv, rfl, rfl⟩) (fun _ _ => rfl)
    (fun hno => (nomatch ho.symm.trans hno)) fun _ _ => ⟨rfl, fun _ => rfl⟩

/-- The outstanding SELECT leaves a station, and the switch that it serves ends. -/
theorem stationOk_served (hx : StationOk l x) {o : OutSelect} (ho : x.outSelect = some o) {sel : Selected}
    (hsel : ∀ j, sel = .slot j → j = o.slot ∨ x.selected = .slot j) (hw : x.switch = some w) (hstage : w.stage = .selecting o.slot)
    (e : SwitchEnd) (late : Option Nat) : StationOk l (switchEnded w e late (selectAnswered sel x)) := by
  obtain ⟨hselect, hcold⟩ := places_of_stage hx.placed hw (by rw [hstage]; exact fun _ => (nomatch ·)) (by rw [hstage]; exact (nomatch ·))
  have htable := hx.table
  unfold TableOk at htable
  refine stationOk_online hx (online_of_outSelect hx ho) rfl rfl (htable.unselect (sel := sel) fun j hj => ?_)
    (placed_free rfl hselect hcold)
  exact (hsel j hj).imp_left fun h => by rw [ho, h]; rfl

theorem carried_timedOut (hx : StationOk l x) {o : OutSelect} (ho : x.outSelect = some o) {sel : Selected}
    (hsel : ∀ j, sel = .slot j → j = o.slot ∨ x.selected = .slot j) (hw : x.switch = some w) (hstage : w.stage = .selecting o.slot) :
    Carried l r t x a (switchEnded w .missed none (selectAnswered sel x)) (entryAfter w.rebuild .missed a) :=
  .missed (stationOk_served hx ho hsel hw hstage .missed none) hw rfl rfl rfl

/-- The confirmed switch of a rebuild is to the tracked patch, whose slot is now the selected one (R168). -/
theorem carried_confirmed (hx : StationOk l x) {o : OutSelect} (ho : x.outSelect = some o) (hw : x.switch = some w)
    (hstage : w.stage = .selecting o.slot) (late : Option Nat) :
    Carried l r t x a (switchEnded w .done late (selectAnswered (.slot o.slot) x)) (entryAfter w.rebuild .done a) := by
  refine ⟨stationOk_served hx ho (fun j hj => .inl (Selected.slot.inj hj).symm) hw hstage .done late, id, rfl, fun _ hready hserves => ?_⟩
  obtain ⟨hcount, hmark, -⟩ := hready hserves
  obtain ⟨hheld, -⟩ := placed_busy_iff hx.placed hw
  unfold Station.StageHeld at hheld
  rw [hstage] at hheld
  obtain ⟨-, -, hres⟩ := hx.table.select o.slot (by rw [ho]; rfl)
  refine ⟨entryAfter_counted hcount, fun _ hv => (nomatch hv), fun _ p hp => ⟨⟨o.slot, rfl, hres, ?_⟩, rfl, rfl⟩⟩
  rw [(hmark w hw).2] at hp
  rw [← Option.some.inj hp]
  exact hheld.2

theorem timedOut_slot {sel : Selected} {j : Nat} (h : sel.timedOut k = .slot j) : j = k ∨ sel = .slot j := by
  cases sel with
  | none => exact (nomatch h)
  | slot i =>
    unfold Selected.timedOut at h
    dsimp only at h
    split_ifs at h
    exact .inr h
  | unknown c => exact (nomatch h)

end

end Sys2Proof.Proofs

namespace Sys2Proof.Proofs

open Sys2Proof Sys2Proof.Machine

/-! ## What a station keeps when its link sends -/

section

variable {l r : Bool} {t : Option Nat} {x y : Station} {a : Option Account} {w : Switch} {k v now : Nat}

/-- The fields of an act that leaves the table, the places and the switch: outstanding frames may gain their timeouts. -/
theorem carried_outstanding (hx : StationOk l x) (hy : y = { x with
      outLoad := y.outLoad, outSelect := y.outSelect, silence := y.silence, queryDue := y.queryDue, queryAt := y.queryAt
      sending := y.sending })
    (hl : y.outLoad.map (·.slot) = x.outLoad.map (·.slot)) (ho : y.outSelect.map (·.slot) = x.outSelect.map (·.slot))
    (hs : x.silence = false → y.silence = false) : Carried l r t x a y a := by
  have p : ∀ {α : Type} (f : Station → α), _ := fun f => congrArg f hy
  have hslots : y.slots = x.slots := p (·.slots)
  have hslot : y.slot = x.slot := by
    funext j
    rw [Station.slot, Station.slot, hslots]
  have hswitch : y.switch = x.switch := p (·.switch)
  have hsel : y.selectPlace = x.selectPlace := p (·.selectPlace)
  have hcold : y.loadPlace = x.loadPlace := p (·.loadPlace)
  have none_of {α β γ : Type} {m : Option α} {n : Option β} {f : α → γ} {g : β → γ} (h : m.map f = n.map g) (hn : n = none) :
      m = none := by
    rw [hn] at h
    exact Option.map_eq_none_iff.mp h
  refine .same ⟨fun h => ?_, fun h => ?_, tableOk_same hx.table hslots hl ho (p (·.selected)) hcold, ?_⟩ (p (·.link)) (p (·.excluded))
    (fun u hu => ⟨u, hswitch.symm.trans hu, rfl, rfl⟩) (fun _ hn => none_of ho hn) (fun _ => p (·.selected)) fun j _ => ?_
  · exact (p (·.link)).trans (hx.absent (h.imp_left fun hp => (p (·.present)).symm.trans hp))
  · obtain ⟨h1, h2, h3, h4, h5, h6, h7, h8, h9⟩ := hx.bare fun hon => h ((p (·.link)).trans hon)
    exact ⟨by rw [hslots]; exact h1, (p (·.selected)).trans h2, none_of hl h3, none_of ho h4, hsel.trans h5, hcold.trans h6,
      (p (·.preload)).trans h7, hswitch.trans h8, hs h9⟩
  · obtain ⟨h1, h2, h3, h4⟩ := hx.placed
    unfold Station.SwitchPlaced
    rw [hswitch, hsel, hcold, show y.excluded = x.excluded from p (·.excluded)]
    exact ⟨fun u hu => stageHeld_same hslots ho hsel hcold (h1 u hu), h2, h3, h4⟩
  · rw [hslot]
    exact ⟨rfl, fun _ => rfl⟩

theorem carried_silence (hx : StationOk l x) : Carried l r t x a (sent .silence now { x with silence := false }) a :=
  carried_outstanding hx rfl rfl rfl fun _ => rfl

theorem carried_query (hx : StationOk l x) : Carried l r t x a (sent .query now { x with queryDue := false }) a :=
  carried_outstanding hx rfl rfl rfl id

theorem carried_frameEnded (hx : StationOk l x) (f : TxFrame) : Carried l r t x a (frameEnded f now x) a := by
  cases f with
  | load _ _ _ => exact carried_outstanding hx rfl (by rw [frameEnded, Option.map_map]; rfl) rfl id
  | select _ => exact carried_outstanding hx rfl rfl (by rw [frameEnded, Option.map_map]; rfl) id
  | query => exact carried_outstanding hx rfl rfl rfl id
  | silence => exact carried_outstanding hx rfl rfl rfl id

/-! ### The SELECT place -/

/-- A station whose held SELECT for slot `k` has gone out (R114, R116). -/
def selectSent (k now : Nat) (st : Station) : Station := sent (.select k) now
  { st with
    selectPlace := none
    outSelect := some { slot := k, sent := now, due := none }
    switch := st.switch.map fun w => if w.stage = .selectHeld k then { w with stage := .selecting k } else w }

theorem carried_selectSent (hx : StationOk l x) (hk : x.selectPlace = some k) :
    Carried l r t x a (selectSent k now x) a := by
  obtain ⟨-, hplace, -⟩ := hx.placed
  obtain ⟨w, hw, hstage⟩ := hplace k hk
  obtain ⟨hheld, hex, -, hcold⟩ := placed_busy_iff hx.placed hw
  unfold Station.StageHeld at hheld
  rw [hstage] at hheld
  obtain ⟨-, ⟨h1, hn, hres⟩, hholds⟩ := hheld
  have hsw : (selectSent k now x).switch = some { w with stage := .selecting k } := by
    change x.switch.map _ = _
    rw [hw, Option.map_some, if_pos hstage]
  have htable := hx.table
  unfold TableOk at htable
  refine .same (stationOk_online hx (online_of_switch hx hw) rfl rfl (htable.withSelect h1 hn hres)
    (placed_busy hsw ⟨rfl, hholds⟩ hex (fun _ hj => (nomatch hj)) fun p hp => ?_)) rfl rfl
    (fun u hu => ⟨w, hw, by rw [← Option.some.inj (hsw.symm.trans hu)], by rw [← Option.some.inj (hsw.symm.trans hu)]⟩)
    (fun hno => (nomatch hw.symm.trans hno)) (fun _ => rfl) fun _ _ => ⟨rfl, fun _ => rfl⟩
  exact absurd (hstage.symm.trans (hcold p hp)) (nomatch ·)

/-! ### A LOAD into its victim -/

/-- A slot that a LOAD may take: neither selected nor a SELECT's. -/
structure Takable (x : Station) (k : Nat) : Prop where
  pos : 1 ≤ k
  le : k ≤ x.slots.length
  select : x.outSelect.map (·.slot) ≠ some k
  selected : x.selected ≠ .slot k
  held : x.selectPlace ≠ some k

theorem isCurrent_selected (h : x.selected = .slot k) : x.isCurrent k = true := by
  unfold Station.isCurrent
  rw [h]
  exact beq_self_eq_true k

theorem takable_of_victim (hx : StationOk l x) {preload : Bool} (h : VictimIs preload x k v) : Takable x k := by
  rcases h with ⟨h1, hn, hempty, -⟩ | ⟨-, ⟨-, hcurrent, -, -, htarget, -⟩, ⟨d, hd, rfl, -⟩, -⟩
  · have hres : (x.slot k).st ≠ .resident := by rw [hempty]; exact (nomatch ·)
    refine ⟨h1, hn, fun ho => hres (hx.table.select k ho).2.2, fun hsel => hres (hx.table.selected k hsel).2.2, fun hp => ?_⟩
    obtain ⟨hheld, hplace, -⟩ := hx.placed
    obtain ⟨w, hw, hstage⟩ := hplace k hp
    have hh := hheld w hw
    unfold Station.StageHeld at hh
    rw [hstage] at hh
    exact hres hh.2.1.2.2
  · have hlt := Nat.mod_lt (x.victim - 1 + d) (Nat.zero_lt_of_lt hd)
    unfold Station.isSelectTarget at htarget
    rw [Bool.or_eq_false_iff, beq_eq_false_iff_ne, beq_eq_false_iff_ne] at htarget
    exact ⟨Nat.le_add_left 1 _, hlt, htarget.2, fun hsel => (nomatch hcurrent.symm.trans (isCurrent_selected hsel)), htarget.1⟩

theorem slot_sent (hk : Takable x k) (e : MapEntry) (cue : Option CueNo) {j : Nat} (hj1 : 1 ≤ j) (hj : j ≠ k) :
    (loadSent e cue k v now x).slot j = x.slot j :=
  (slot_setSlot _ hk.pos hk.le hj1).trans (if_neg hj)

theorem tableOk_sent (hx : StationOk l x) (ho : x.outLoad = none) (hk : Takable x k) (e : MapEntry) (cue : Option CueNo)
    (hp : ∀ j, 1 ≤ j → j ≤ x.slots.length → (x.slot j).holds e.patch = false) :
    TableOk { loadSent e cue k v now x with loadPlace := none } := by
  have hlen : (loadSent e cue k v now x).slots.length = x.slots.length := List.length_modify _ _ _
  have htable := hx.table
  unfold TableOk at htable
  rw [ho] at htable
  change Arranged (loadSent e cue k v now x).slots.length (loadSent e cue k v now x).slot (some k)
    (x.outSelect.map (·.slot)) x.selected none
  rw [hlen]
  exact htable.load_sent hk.pos hk.le (fun j hj1 hj => slot_sent hk e cue hj1 hj)
    ((slot_setSlot _ hk.pos hk.le hk.pos).trans (if_pos rfl)) hp hk.select hk.selected

/-- What a LOAD that is sent leaves of the selected slot. -/
theorem sent_selected (hx : StationOk l x) (hk : Takable x k) {e : MapEntry} {cue : Option CueNo}
    (hy : y.slots = (loadSent e cue k v now x).slots) {j : Nat} (hj : x.selected = .slot j) :
    (y.slot j).st = (x.slot j).st ∧ ∀ q, (y.slot j).holds q = (x.slot j).holds q := by
  obtain ⟨h1, -⟩ := hx.table.selected j hj
  have hslot : y.slot j = x.slot j := by
    rw [← slot_sent (v := v) (now := now) hk e cue h1 fun he => hk.selected (he ▸ hj), Station.slot, Station.slot, hy]
  rw [hslot]
  exact ⟨rfl, fun _ => rfl⟩

theorem carried_coldSent (hx : StationOk l x) {e : MapEntry} (hp : x.loadPlace = some e.patch) (ho : x.outLoad = none)
    (hk : Takable x k) (cue : Option CueNo) : Carried l r t x a { loadSent e cue k v now { x with loadPlace := none } with
      switch := x.switch.map fun w => { w with stage := .loading k } } a := by
  obtain ⟨w, hw, hstage, hpatch⟩ := coldPatch hx.placed hp
  obtain ⟨-, hex, hsel, -⟩ := placed_busy_iff hx.placed hw
  have hself : (loadSent e cue k v now x).slot k = { st := .loading, patch := some e.patch, stale := false, flush := false } :=
    (slot_setSlot _ hk.pos hk.le hk.pos).trans (if_pos rfl)
  have hon := online_of_switch hx hw
  refine .same (stationOk_online hx hon rfl rfl (tableOk_same (tableOk_sent (v := v) (now := now) hx ho hk e cue fun j hj1 hj => hx.table.cold e.patch hp j hj1 hj)
    rfl rfl rfl rfl rfl) (placed_busy (congrArg (Option.map _) hw) ?_ hex (fun j hj => ?_) fun _ hno => (nomatch hno)))
    rfl rfl (fun u hu => ?_) (fun _ h => h) (fun _ => rfl) fun _ hj => sent_selected (v := v) (now := now) (e := e) (cue := cue) hx hk rfl hj
  · refine ⟨hk.pos, hk.le.trans (List.length_modify _ _ _).ge, ?_, ?_⟩
    · exact congrArg (·.st) hself
    · exact (congrArg (·.patch) hself).trans (congrArg some hpatch.symm)
  · exact absurd (hstage.symm.trans (hsel j hj)) (nomatch ·)
  · rw [hw] at hu
    exact ⟨w, hw, by rw [← Option.some.inj hu], by rw [← Option.some.inj hu]⟩

/-- A cold load that cannot be sent: its switch ends MISSED (R121, R126). -/
theorem carried_coldMissed (hx : StationOk l x) {p : Nat} (hp : x.loadPlace = some p) (hw : x.switch = some w) :
    Carried l r t x a (switchEnded w .missed none { x with loadPlace := none }) (entryAfter w.rebuild .missed a) := by
  obtain ⟨-, -, hsel, hcold⟩ := placed_busy_iff hx.placed hw
  refine .missed (stationOk_online hx (online_of_switch hx hw) rfl rfl hx.table.uncold (placed_free rfl
    (Option.eq_none_iff_forall_ne_some.mpr fun j hj => ?_) rfl)) hw rfl rfl rfl
  exact absurd ((hcold p hp).symm.trans (hsel j hj)) (nomatch ·)

theorem carried_preloadSent (hx : StationOk l x) {e : MapEntry} (hon : x.link = .online) (hp : x.loadPlace = none)
    (ho : x.outLoad = none) (hk : Takable x k) (hunheld : ∀ sl ∈ x.slots, sl.holds e.patch = false) (cue : Option CueNo) :
    Carried l r t x a (loadSent e cue k v now { x with preload := false, pressure := false }) a := by
  have hheld (w : Switch) (h : x.StageHeld w) : (loadSent e cue k v now x).StageHeld w := by
    unfold Station.StageHeld at *
    split at h
    · next j hj =>
      obtain ⟨hpl, ⟨h1, hn, hr⟩, hh⟩ := h
      have hne : j ≠ k := fun he => hk.held (he ▸ hpl)
      rw [Station.Resident, slot_sent hk e cue h1 hne]
      exact ⟨hpl, ⟨h1, hn.trans (List.length_modify _ _ _).ge, hr⟩, hh⟩
    · next j hj =>
      obtain ⟨hout, hh⟩ := h
      obtain ⟨h1, -⟩ := hx.table.select j hout
      rw [slot_sent hk e cue h1 fun he => hk.select (he ▸ hout)]
      exact ⟨hout, hh⟩
    · next j hj =>
      obtain ⟨h1, hn, hst, -⟩ := h
      have hload := (hx.table.loading j h1 hn).mp hst
      rw [ho] at hload
      exact (nomatch hload)
    · rw [hp] at h
      exact (nomatch h)
  obtain ⟨h1, h2, h3, h4⟩ := hx.placed
  refine .same (stationOk_online hx hon rfl rfl (tableOk_same (tableOk_sent (v := v) (now := now) hx ho hk e cue (forall_slots.mp hunheld))
    rfl rfl rfl rfl hp) ⟨fun w hw => ?_, h2, h3, h4⟩) rfl rfl (fun u hu => ⟨u, hu, rfl, rfl⟩) (fun _ h => h) (fun _ => rfl)
    fun _ hj => sent_selected (v := v) (now := now) (e := e) (cue := cue) hx hk rfl hj
  exact stageHeld_same (x := loadSent e cue k v now x) rfl rfl rfl rfl (hheld w (h1 w hw))

end

end Sys2Proof.Proofs

namespace Sys2Proof.Proofs

open Sys2Proof Sys2Proof.Machine

/-! ## What a station keeps when a switch target reaches it (R123, R124, R128) -/

/-- The part of `Readied` that a switch to the tracked patch with the rebuild mark rests on. -/
def Counted (tracked : Option Nat) (entry : Option Account) (st : Station) : Prop :=
  st.serves = true → entry ≠ some .notCounted
    ∧ (entry = some .satisfied → ∀ p, tracked = some p → st.Confirmed p ∧ st.outSelect = none ∧ st.switch = none)

theorem Readied.counted {tracked : Option Nat} {entry : Option Account} {st : Station} (h : Readied tracked entry st) :
    Counted tracked entry st := fun hs => by
  obtain ⟨hcount, -, hsat⟩ := h hs
  exact ⟨hcount, hsat⟩

/-- A switch target on the record `x` with the entry `a` has left the record `y` with the entry `b`. -/
structure Started (l r : Bool) (t : Option Nat) (x : Station) (a : Option Account) (y : Station) (b : Option Account) : Prop where
  ok : StationOk l y
  link : y.link = x.link
  excluded : y.excluded = x.excluded
  ready : r = true → Counted t a x → Readied t b y

section

variable {l r mark : Bool} {t : Option Nat} {x y z : Station} {a b : Option Account} {w : Switch} {k p : Nat}
  {cue : Option CueNo} {fireTime : Option Nat}

theorem Started.carried (h : Started l r t x a y b) : Carried l r t x a y b :=
  ⟨h.ok, fun hl => h.link ▸ hl, h.excluded, fun hr hx => h.ready hr hx.counted⟩

/-- A station without a switch, nothing of which has changed that a rebuild rests on. -/
theorem started_ends (hy : StationOk l y) (h : Beside x y) (hw : x.switch = none) (hcount : a ≠ some .notCounted → b ≠ some .notCounted)
    (hsat : r = true → b = some .satisfied → ∀ p, t = some p → a = some .satisfied ∨ x.Confirmed p ∧ x.outSelect = none) :
    Started l r t x a y b := by
  have f : ∀ {α : Type} (f : Station → α), _ := fun f => congrArg f h
  have hslot : y.slot = x.slot := by
    funext j
    exact congrArg (fun s : List Slot => s.getD (j - 1) Slot.blank) (f (·.slots))
  have confirmed {p : Nat} (hc : x.Confirmed p) : y.Confirmed p :=
    confirmed_same hc (f (·.selected)) fun j _ => by rw [hslot]; exact ⟨rfl, fun _ => rfl⟩
  refine ⟨hy, f (·.link), f (·.excluded), fun hr hx hserves => ?_⟩
  obtain ⟨ha, hs⟩ := hx (by
    rw [serves_iff] at hserves ⊢
    exact ⟨(f (·.link)).symm.trans hserves.1, (f (·.excluded)).symm.trans hserves.2⟩)
  have hnone : y.switch = none := (f (·.switch)).trans hw
  refine ⟨hcount ha, fun v hv => (nomatch hnone.symm.trans hv), fun hb p hp => ?_⟩
  rcases hsat hr hb p hp with hsame | ⟨hconf, hout⟩
  · obtain ⟨hconf, hout, -⟩ := hs hsame p hp
    exact ⟨confirmed hconf, (f (·.outSelect)).trans hout, hnone⟩
  · exact ⟨confirmed hconf, (f (·.outSelect)).trans hout, hnone⟩

/-- A target that finds no patch tracked (NONE). -/
theorem started_none (hx : StationOk l x) (hw : x.switch = none) (hmark : r = true → t = none) (n : LastSwitch) :
    Started l r t x a (noted n x) (entryAfter mark .done a) :=
  started_ends (stationOk_beside hx rfl fun _ => rfl) rfl hw entryAfter_counted fun hr _ _ hp => (nomatch (hmark hr).symm.trans hp)

/-- A target without a map entry (UNMAPPED). -/
theorem started_unmapped (hx : StationOk l x) (hw : x.switch = none) (n : LastSwitch) (f : StationFault) :
    Started l r t x a (faulted f (noted n x)) (entryAfter mark .missed a) :=
  started_ends (stationOk_beside hx rfl fun _ => rfl) rfl hw entryAfter_counted fun _ hb _ _ => .inl (entryAfter_missed_satisfied hb)

theorem confirmed_of_hot (hx : StationOk l x) (h : x.isHot p = true) : x.Confirmed p ∧ x.outSelect = none := by
  obtain ⟨k, hk, hh, ho⟩ := isHot_iff.mp h
  exact ⟨⟨k, hk, (hx.table.selected k hk).2.2, hh⟩, ho⟩

/-- A target that is selected already (HOT). -/
theorem started_hot (hx : StationOk l x) (hw : x.switch = none) (hmark : r = true → t = some p) (h : x.isHot p = true)
    (n : LastSwitch) : Started l r t x a (noted n x) (entryAfter mark .done a) :=
  started_ends (stationOk_beside hx rfl fun _ => rfl) rfl hw entryAfter_counted fun hr _ q hq => .inr (by
    rw [← Option.some.inj ((hmark hr).symm.trans hq)]
    exact confirmed_of_hot hx h)

/-- A switch goes on from here: what a rebuild rests on is its mark and its patch. -/
theorem started_goes (hy : StationOk l y) (hl : y.link = x.link) (he : y.excluded = x.excluded) (hw : y.switch = some w)
    (hmark : r = true → w.rebuild = true ∧ t = some w.patch)
    (hnot : (x.Confirmed w.patch ∧ x.outSelect = none ∧ x.switch = none) → False) : Started l r t x a y a := by
  refine ⟨hy, hl, he, fun hr hx hserves => ?_⟩
  obtain ⟨ha, hs⟩ := hx (by
    rw [serves_iff] at hserves ⊢
    exact ⟨hl.symm.trans hserves.1, he.symm.trans hserves.2⟩)
  refine ⟨ha, fun v hv => ?_, fun hsat p hp => ?_⟩
  · rw [← Option.some.inj (hw.symm.trans hv)]
    exact hmark hr
  · exact (hnot (hs hsat w.patch (hmark hr).2)).elim

theorem findSlot_first {f : Slot → Bool} (h : x.findSlot f = some k) :
    1 ≤ k ∧ k ≤ x.slots.length ∧ f (x.slot k) = true := by
  obtain ⟨j, hj, rfl⟩ := Option.map_eq_some_iff.mp h
  obtain ⟨hlt, hf, -⟩ := List.findIdx?_eq_some_iff_getElem.mp hj
  exact ⟨Nat.le_add_left 1 j, hlt, by rw [slot_get hlt]; exact hf⟩

/-- A switch that begins WARM, WAIT or COLD has its place (R123). -/
theorem stationOk_begun (hx : StationOk l x) (hs : x.serves = true) (hw : x.switch = none) :
    StationOk l (begun cue p fireTime mark x) := by
  obtain ⟨hon, hex⟩ := (serves_iff x).mp hs
  obtain ⟨hsel, hcold⟩ := places_of_free hx.placed hw
  cases hwarm : x.findSlot fun sl => sl.holds p && sl.st == .resident with
  | some k =>
    obtain ⟨h1, hn, hf⟩ := findSlot_first hwarm
    obtain ⟨hh, hr⟩ := Bool.and_eq_true_iff.mp hf
    rw [begun_warm hwarm]
    by_cases ho : x.outSelect.map (·.slot) = some k
    · rw [queueSelect_waits ho]
      exact stationOk_online hx hon rfl rfl (tableOk_same hx.table rfl rfl rfl rfl rfl)
        (placed_busy rfl ⟨ho, hh⟩ hex (fun j hj => (nomatch hsel.symm.trans hj)) fun q hq => (nomatch hcold.symm.trans hq))
    · rw [queueSelect_held ho]
      exact stationOk_online hx hon rfl rfl (tableOk_same hx.table rfl rfl rfl rfl rfl)
        (placed_busy rfl ⟨rfl, ⟨h1, hn, beq_iff_eq.mp hr⟩, hh⟩ hex (fun j hj => by rw [← Option.some.inj hj])
          fun q hq => (nomatch hcold.symm.trans hq))
  | none =>
    cases hwait : x.findSlot fun sl => sl.holds p with
    | some k =>
      obtain ⟨h1, hn, hh⟩ := findSlot_first hwait
      obtain ⟨-, hne, hp⟩ := holds_iff.mp hh
      have hnot := forall_slots.mp (findSlot_none.mp hwarm) k h1 hn
      rw [hh, Bool.true_and, beq_eq_false_iff_ne] at hnot
      have hload : (x.slot k).st = .loading := by
        cases hst : (x.slot k).st with
        | empty => exact absurd hst hne
        | loading => rfl
        | resident => exact absurd hst hnot
      rw [begun_wait hwarm hwait]
      exact stationOk_online hx hon rfl rfl (tableOk_same hx.table rfl rfl rfl rfl rfl)
        (placed_busy rfl ⟨h1, hn, hload, hp⟩ hex (fun j hj => (nomatch hsel.symm.trans hj)) fun q hq => (nomatch hcold.symm.trans hq))
    | none =>
      have hnone := findSlot_none.mp hwait
      rw [begun_cold hnone]
      exact stationOk_online hx hon rfl rfl (Arranged.withCold hx.table (forall_slots.mp hnone))
        (placed_busy rfl rfl hex (fun j hj => (nomatch hsel.symm.trans hj)) fun _ _ => rfl)

theorem begun_link : (begun cue p fireTime mark x).link = x.link ∧ (begun cue p fireTime mark x).excluded = x.excluded := by
  unfold begun Station.queueSelect
  dsimp only
  split
  · split <;> exact ⟨rfl, rfl⟩
  · exact ⟨rfl, rfl⟩
  · exact ⟨rfl, rfl⟩

theorem started_begun (hx : StationOk l x) (hs : x.serves = true) (hw : x.switch = none) (hhot : x.isHot p = false)
    (hmark : r = true → mark = true ∧ t = some p) : Started l r t x a (begun cue p fireTime mark x) a := by
  obtain ⟨w, hsw, hp, -, -, hm⟩ := switchesTo_begun cue p fireTime mark x
  refine started_goes (stationOk_begun hx hs hw) begun_link.1 begun_link.2 hsw (by rw [hm, hp]; exact hmark) ?_
  rintro ⟨⟨k, hk, -, hh⟩, ho, -⟩
  rw [Bool.eq_false_iff] at hhot
  exact hhot (isHot_iff.mpr ⟨k, hk, hp ▸ hh, ho⟩)

/-! ### A switch in progress -/

/-- A station whose switch has been taken over (R124). -/
def takenOver (cue : Option CueNo) (fireTime : Option Nat) (mark : Bool) (w : Switch) (st : Station) : Station :=
  { switchEnded w .superseded none st with switch := some { w with cue := cue, fireTime := fireTime, rebuild := mark } }

/-- A station whose switch has been superseded (R124). -/
def supersededBy (w : Switch) (st : Station) : Station :=
  { switchEnded w .superseded none st with selectPlace := none, loadPlace := none }

theorem started_takenOver (hx : StationOk l x) (hw : x.switch = some w) (hmark : r = true → mark = true ∧ t = some w.patch) :
    Started l r t x a (takenOver cue fireTime mark w x) a := by
  obtain ⟨hheld, hex, hsel, hcold⟩ := placed_busy_iff hx.placed hw
  exact started_goes (w := { w with cue := cue, fireTime := fireTime, rebuild := mark })
    (stationOk_online hx (online_of_switch hx hw) rfl rfl (tableOk_same hx.table rfl rfl rfl rfl rfl)
      (placed_busy rfl (stageHeld_same (x := x) rfl rfl rfl rfl hheld) hex hsel hcold))
    rfl rfl rfl hmark fun h => (nomatch hw.symm.trans h.2.2)

theorem stationOk_superseded (hx : StationOk l x) (hw : x.switch = some w) : StationOk l (supersededBy w x) :=
  stationOk_dropped hx rfl fun hno => absurd (online_of_switch hx hw) hno

theorem counted_superseded (hw : x.switch = some w) (h : Counted t a x) : Counted t a (supersededBy w x) := fun hs => by
  obtain ⟨ha, hsat⟩ := h hs
  refine ⟨ha, fun hb p hp => ?_⟩
  obtain ⟨-, -, hnone⟩ := hsat hb p hp
  exact (nomatch hw.symm.trans hnone)

theorem Started.after_superseded (hw : x.switch = some w) (h : Started l r t (supersededBy w x) a y b) : Started l r t x a y b :=
  ⟨h.ok, h.link, h.excluded, fun hr hx => h.ready hr (counted_superseded hw hx)⟩

end

end Sys2Proof.Proofs

namespace Sys2Proof.Proofs

open Sys2Proof Sys2Proof.Machine

/-! ## What a station keeps when its link or its exclusion changes (R110 to R112, R133) -/

section

variable {l r : Bool} {t : Option Nat} {x y : Station} {a : Option Account} {w : Switch} {k p n : Nat}

/-- A station with an empty table and nothing outstanding, held or in progress. -/
theorem stationOk_cleared (ha : y.present = false ∨ l = true → y.link = .offline) (hslots : ∀ sl ∈ y.slots, sl = Slot.blank)
    (hsel : y.selected = .none) (hload : y.outLoad = none) (hselect : y.outSelect = none) (hs : y.selectPlace = none)
    (hc : y.loadPlace = none) (hp : y.preload = false) (hw : y.switch = none) (hsil : y.silence = false) : StationOk l y := by
  refine ⟨ha, fun _ => ⟨fun sl hsl => by rw [hslots sl hsl]; rfl, hsel, hload, hselect, hs, hc, hp, hw, hsil⟩, ?_, placed_free hw hs hc⟩
  unfold TableOk
  rw [hload, hselect, hsel, hc]
  exact .blank _ (forall_slots.mp hslots)

theorem blank_of_map {l : List Slot} : ∀ sl ∈ l.map fun _ => Slot.blank, sl = Slot.blank := fun sl hsl => by
  obtain ⟨-, -, h⟩ := List.mem_map.mp hsl
  exact h.symm

theorem stationOk_departed : StationOk l (departed x) := by
  rw [departed_eq]
  exact stationOk_cleared (fun _ => rfl) blank_of_map rfl rfl rfl rfl rfl rfl rfl rfl

/-- A station that has been reset (R133). -/
def wasReset (st : Station) : Station := switchLeft .dropped
  (if st.present then Station.greet { st.emptied with silence := false, victim := 1, pressure := false, failed := [] }
    else { st.emptied with silence := false, victim := 1, pressure := false, failed := [], link := .offline })

theorem stationOk_wasReset : StationOk false (wasReset x) := by
  rw [wasReset, switchLeft_eq]
  cases hp : x.present with
  | true =>
    refine stationOk_cleared (fun h => ?_) blank_of_map rfl rfl rfl rfl rfl rfl rfl rfl
    exact (h.elim (fun h => (nomatch hp.symm.trans h)) fun h => (nomatch h))
  | false => exact stationOk_cleared (fun _ => rfl) blank_of_map rfl rfl rfl rfl rfl rfl rfl rfl

theorem wasReset_link : (wasReset x).link ≠ .online ∧ (wasReset x).excluded = x.excluded := by
  rw [wasReset, switchLeft_eq]
  cases x.present with
  | true => exact ⟨(nomatch ·), rfl⟩
  | false => exact ⟨(nomatch ·), rfl⟩

theorem carried_wasReset : Carried false r t x a (wasReset x) a := by
  obtain ⟨hlink, hex⟩ := wasReset_link (x := x)
  exact ⟨stationOk_wasReset, fun h => absurd h hlink, hex, fun _ _ hs => absurd ((serves_iff _).mp hs).1 hlink⟩

/-- A HELLO with `n` slots on a station that is not OFFLINE, once its switch has ended (R111). -/
theorem stationOk_sized (hx : StationOk l x) (hl : x.link ≠ .offline)
    (hy : y = { x.sized n with switch := none, lastSwitch := y.lastSwitch, faults := y.faults }) : StationOk l y := by
  rw [hy]
  refine ⟨fun h => absurd (hx.absent h) hl, fun h => absurd rfl h, ?_, placed_free rfl rfl rfl⟩
  have hslots : ∀ sl ∈ (x.sized n).slots, sl = Slot.blank := fun sl hsl => List.eq_of_mem_replicate hsl
  exact Arranged.blank _ (forall_slots.mp hslots)

theorem stationOk_leftOut (hx : StationOk l x) : StationOk l (leftOut x) := by
  refine ⟨hx.absent, fun hno => ?_, hx.table.uncold, placed_free rfl rfl rfl⟩
  obtain ⟨h1, h2, h3, h4, -⟩ := hx.bare hno
  exact ⟨h1, h2, h3, h4, rfl, rfl, rfl, rfl, rfl⟩

theorem stationOk_letIn (hx : StationOk l x) (h : x.excluded = true) : StationOk l { x with excluded := false } := by
  have hw : x.switch = none := hx.placed.2.2.2 h
  obtain ⟨hs, hc⟩ := places_of_free hx.placed hw
  exact ⟨hx.absent, hx.bare, tableOk_same hx.table rfl rfl rfl rfl rfl, placed_free hw hs hc⟩

/-- A station that is not ONLINE enters GREETING. -/
theorem stationOk_greet (hx : StationOk l x) (hp : x.present = true) (hl : l = false) (hno : x.link ≠ .online) :
    StationOk l x.greet := by
  obtain ⟨h1, h2, h3, h4, h5, h6, h7, h8, h9⟩ := hx.bare hno
  refine ⟨fun h => h.elim (fun h => (nomatch hp.symm.trans h)) fun h => (nomatch hl.symm.trans h), fun _ => ⟨h1, h2, h3, h4, h5, h6, h7, h8, h9⟩,
    tableOk_same hx.table rfl rfl rfl rfl rfl, placed_free h8 h5 h6⟩

/-- PRESENT has come to a station that was without it. -/
theorem stationOk_present (hx : StationOk l x) (hoff : x.link = .offline) : StationOk l { x with present := true } := by
  obtain ⟨h1, h2, h3, h4, h5, h6, h7, h8, h9⟩ := hx.bare (by rw [hoff]; exact (nomatch ·))
  exact ⟨fun _ => hoff, fun _ => ⟨h1, h2, h3, h4, h5, h6, h7, h8, h9⟩, tableOk_same hx.table rfl rfl rfl rfl rfl, placed_free h8 h5 h6⟩

/-- At the end of the power-on load every station is OFFLINE. -/
theorem stationOk_loadEnds (hx : StationOk true x) : StationOk false x :=
  ⟨fun _ => hx.absent (.inr rfl), hx.bare, hx.table, hx.placed⟩

/-! ## The orders of a stop and of RESTART SHOW (R127, R130) -/

/-- A station whose switch has been dropped, told to send SILENCE or not. -/
def silenced (silence : Bool) (failed : List Nat) (st : Station) : Station :=
  switchLeft .dropped { st with silence := silence, selectPlace := none, loadPlace := none, failed := failed }

theorem stationOk_silenced {silence : Bool} {failed : List Nat} (hx : StationOk l x) (hs : x.link ≠ .online → silence = false) :
    StationOk l (silenced silence failed x) := by
  rw [silenced, switchLeft_eq]
  exact stationOk_dropped hx rfl hs

theorem silenced_link (silence : Bool) (failed : List Nat) (x : Station) :
    (silenced silence failed x).link = x.link ∧ (silenced silence failed x).excluded = x.excluded := by
  rw [silenced, switchLeft_eq]
  exact ⟨rfl, rfl⟩

/-! ## STATION FLUSH and the map-changed notice (R119, R132) -/

theorem slot_mapIdx {f : Nat → Slot → Slot} {k : Nat} (hy : y.slots = x.slots.mapIdx f) (h1 : 1 ≤ k) (hk : k ≤ x.slots.length) :
    y.slot k = f (k - 1) (x.slot k) := by
  have hlt : k - 1 < x.slots.length := by omega
  unfold Station.slot
  rw [hy, List.getD_eq_getElem?_getD, List.getElem?_mapIdx, List.getD_eq_getElem?_getD, List.getElem?_eq_getElem hlt]
  rfl

theorem flushed_cases (h1 : 1 ≤ k) (hk : k ≤ x.slots.length) :
    x.flushes k = true ∧ x.flushed.slot k = Slot.blank
      ∨ x.flushes k = false ∧ (x.flushed.slot k).st = (x.slot k).st ∧ (x.flushed.slot k).stale = (x.slot k).stale
        ∧ (x.flushed.slot k).patch = (x.slot k).patch := by
  rw [slot_flushed x h1 hk]
  cases x.flushes k with
  | true => exact .inl ⟨rfl, rfl⟩
  | false =>
    refine .inr ⟨rfl, ?_⟩
    rw [if_neg Bool.false_ne_true]
    split <;> exact ⟨rfl, rfl, rfl⟩

theorem holds_same {s u : Slot} (hst : s.st = u.st) (hs : s.stale = u.stale) (hp : s.patch = u.patch) (q : Nat) :
    s.holds q = u.holds q := by
  rw [Slot.holds, Slot.holds, Slot.carries, Slot.carries, hst, hs, hp]

theorem tableOk_flushed (hx : TableOk x) : TableOk x.flushed := by
  have hlen : x.flushed.slots.length = x.slots.length := List.length_mapIdx
  unfold TableOk at *
  rw [hlen]
  refine Arranged.rewritten hx (fun j h1 hj => ?_) (fun j q h1 hj h => ?_) (fun j q h1 hj h => ?_) (fun j h1 hj hs hp => ?_)
    fun j hsel h1 hj hr => ?_
  all_goals rcases flushed_cases h1 hj with ⟨hf, hb⟩ | ⟨-, hst, hstale, hpatch⟩
  · rw [hb, ((flushes_iff x j).mp hf).1]
    exact ⟨(nomatch ·), (nomatch ·)⟩
  · rw [hst]
  · rw [hb] at h
    exact (nomatch h)
  · rw [Slot.carries, hst, hpatch] at h
    exact h
  · rw [hb] at h
    exact (nomatch h)
  · rwa [holds_same hst hstale hpatch] at h
  · rw [hb] at hs
    exact (nomatch hs)
  · rw [hst]
    exact hx.stale j h1 hj (hstale ▸ hs) (hpatch ▸ hp)
  · obtain ⟨-, hcurrent, htarget⟩ := (flushes_iff x j).mp hf
    rcases hsel with hsel | hsel
    · change x.outSelect.map (·.slot) = some j at hsel
      unfold Station.isSelectTarget at htarget
      rw [hsel, beq_self_eq_true, Bool.or_true] at htarget
      exact (nomatch htarget)
    · exact (nomatch hcurrent.symm.trans (isCurrent_selected hsel))
  · rw [hst, hr]

theorem carried_flushed (hx : StationOk l x) : Carried l r t x a x.flushed a := by
  have alike {j : Nat} (h1 : 1 ≤ j) (hj : j ≤ x.slots.length) (hkeep : x.isCurrent j = true ∨ x.isSelectTarget j = true
      ∨ (x.slot j).st = .loading) : (x.flushed.slot j).st = (x.slot j).st ∧ (x.flushed.slot j).patch = (x.slot j).patch
        ∧ ∀ q, (x.flushed.slot j).holds q = (x.slot j).holds q := by
    rcases flushed_cases h1 hj with ⟨hf, -⟩ | ⟨-, hst, hstale, hpatch⟩
    · obtain ⟨hr, hcurrent, htarget⟩ := (flushes_iff x j).mp hf
      rcases hkeep with h | h | h
      · exact (nomatch hcurrent.symm.trans h)
      · exact (nomatch htarget.symm.trans h)
      · exact (nomatch hr.symm.trans h)
    · exact ⟨hst, hpatch, holds_same hst hstale hpatch⟩
  have hlen : x.flushed.slots.length = x.slots.length := List.length_mapIdx
  have target {j : Nat} (h : x.selectPlace = some j ∨ x.outSelect.map (·.slot) = some j) : x.isSelectTarget j = true := by
    unfold Station.isSelectTarget
    rw [Bool.or_eq_true, beq_iff_eq, beq_iff_eq]
    exact h
  have hheld (w : Switch) (h : x.StageHeld w) : x.flushed.StageHeld w := by
    unfold Station.StageHeld at *
    split at h
    · next j hj =>
      obtain ⟨hpl, ⟨h1, hn, hr⟩, hh⟩ := h
      obtain ⟨hst, -, hholds⟩ := alike h1 hn (.inr (.inl (target (.inl hpl))))
      exact ⟨hpl, ⟨h1, hn.trans hlen.ge, hst.trans hr⟩, (hholds _).trans hh⟩
    · next j hj =>
      obtain ⟨hout, hh⟩ := h
      obtain ⟨h1, hn, -⟩ := hx.table.select j hout
      obtain ⟨-, -, hholds⟩ := alike h1 hn (.inr (.inl (target (.inr hout))))
      exact ⟨hout, (hholds _).trans hh⟩
    · next j hj =>
      obtain ⟨h1, hn, hst, hp⟩ := h
      obtain ⟨hst', hp', -⟩ := alike h1 hn (.inr (.inr hst))
      exact ⟨h1, hn.trans hlen.ge, hst'.trans hst, hp'.trans hp⟩
    · exact h
  refine .same ⟨hx.absent, fun hno => ?_, tableOk_flushed hx.table, ?_⟩ rfl rfl (fun u hu => ⟨u, hu, rfl, rfl⟩) (fun _ h => h)
    (fun _ => rfl) fun j hj => ?_
  · obtain ⟨h1, h2, h3, h4, h5, h6, h7, h8, h9⟩ := hx.bare hno
    refine ⟨forall_slots.mpr fun j hj1 hj => ?_, h2, h3, h4, h5, h6, h7, h8, h9⟩
    rw [hlen] at hj
    rcases flushed_cases hj1 hj with ⟨-, hb⟩ | ⟨-, hst, -⟩
    · rw [hb]
      rfl
    · exact hst.trans (forall_slots.mp h1 j hj1 hj)
  · obtain ⟨h1, h2, h3, h4⟩ := hx.placed
    exact ⟨fun w hw => hheld w (h1 w hw), h2, h3, h4⟩
  · obtain ⟨h1, hn, -⟩ := hx.table.selected j hj
    obtain ⟨hst, -, hholds⟩ := alike h1 hn (.inl (isCurrent_selected hj))
    exact ⟨hst, hholds⟩

/-- A slot after a map-changed notice for `p`: it did not hold the patch, or it has given it up, or keeps it until its answer. -/
theorem noticed_cases (h1 : 1 ≤ k) (hk : k ≤ x.slots.length) :
    (x.slot k).holds p = false ∧ (noticed p x).slot k = x.slot k
      ∨ (x.slot k).holds p = true ∧ (x.slot k).st = .loading ∧ (noticed p x).slot k = { x.slot k with stale := true }
      ∨ (x.slot k).holds p = true ∧ (x.slot k).st = .resident
        ∧ ((noticed p x).slot k = { x.slot k with stale := true, patch := none }
          ∨ x.outSelect.map (·.slot) ≠ some k ∧ x.selected ≠ .slot k ∧ (noticed p x).slot k = Slot.blank) := by
  have hpred : k - 1 + 1 = k := by omega
  rw [slot_mapIdx (x := x) (y := noticed p x) rfl h1 hk, hpred, noticedSlot_eq]
  cases hh : (x.slot k).holds p with
  | false => exact .inl ⟨rfl, rfl⟩
  | true =>
    rw [if_neg (nomatch ·)]
    by_cases hst : (x.slot k).st = .loading
    · exact .inr (.inl ⟨rfl, hst, if_pos hst⟩)
    · have hres : (x.slot k).st = .resident := by
        cases h : (x.slot k).st with
        | loading => exact absurd h hst
        | empty => exact absurd h (holds_iff.mp hh).2.1
        | resident => rfl
      rw [if_neg hst]
      refine .inr (.inr ⟨rfl, hres, ?_⟩)
      by_cases hc : x.isCurrent k = true ∨ x.outSelect.map (·.slot) = some k
      · exact .inl (if_pos hc)
      · obtain ⟨hcurrent, hout⟩ := not_or.mp hc
        exact .inr ⟨hout, fun hsel => hcurrent (isCurrent_selected hsel), if_neg hc⟩

theorem length_noticed (p : Nat) (x : Station) : (noticed p x).slots.length = x.slots.length := List.length_mapIdx

theorem tableOk_noticed (hx : TableOk x) : TableOk (noticed p x) := by
  have cases' {j : Nat} (h1 : 1 ≤ j) (hj : j ≤ x.slots.length) := noticed_cases (p := p) h1 hj
  unfold TableOk at *
  rw [length_noticed]
  refine Arranged.rewritten hx (fun j h1 hj => ?_) (fun j q h1 hj h => ?_) (fun j q h1 hj h => ?_) (fun j h1 hj hs hp => ?_)
    fun j hsel h1 hj hr => ?_
  all_goals rcases cases' h1 hj with ⟨-, he⟩ | ⟨hh, hst, he⟩ | ⟨hh, hst, he | ⟨hout, hcur, he⟩⟩
  · rw [he]
  · rw [he]
  · rw [he]
  · rw [he, hst]
    exact ⟨(nomatch ·), (nomatch ·)⟩
  · rwa [he] at h
  · rwa [he] at h
  · rw [he, carries_iff] at h
    exact (nomatch h.2)
  · rw [he] at h
    exact (nomatch h)
  · rwa [he] at h
  · rw [he] at h
    exact (nomatch h)
  · rw [he] at h
    exact (nomatch h)
  · rw [he] at h
    exact (nomatch h)
  · rw [he] at hs hp ⊢
    exact hx.stale j h1 hj hs hp
  · rw [he]
    exact hst
  · rw [he] at hp
    exact absurd rfl hp
  · rw [he] at hs
    exact (nomatch hs)
  · rw [he, hr]
  · rw [he]
    exact hr
  · rw [he]
    exact hr
  · exact (hsel.elim hout hcur).elim

/-- No slot holds the patch of a notice. -/
theorem noticed_unheld (h1 : 1 ≤ k) (hk : k ≤ x.slots.length) : ((noticed p x).slot k).holds p = false := by
  rcases noticed_cases (p := p) h1 hk with ⟨hh, he⟩ | ⟨-, -, he⟩ | ⟨-, -, he | ⟨-, -, he⟩⟩
  · rw [he]
    exact hh
  · rw [he]
    rfl
  · rw [he]
    rfl
  · rw [he]
    rfl

/-- A slot with another patch stays. -/
theorem noticed_other (h1 : 1 ≤ k) (hk : k ≤ x.slots.length) (hp : (x.slot k).patch ≠ some p) :
    (noticed p x).slot k = x.slot k := by
  have hno : (x.slot k).holds p ≠ true := fun hh => hp (holds_iff.mp hh).2.2
  rcases noticed_cases (p := p) h1 hk with ⟨-, he⟩ | ⟨hh, -⟩ | ⟨hh, -⟩
  · exact he
  · exact absurd hh hno
  · exact absurd hh hno

/-- A station that is not ONLINE has no slot for a notice. -/
theorem noticed_bare (hx : StationOk l x) (hno : x.link ≠ .online) : (noticed p x).Bare := by
  obtain ⟨h1, h2, h3, h4, h5, h6, h7, h8, h9⟩ := hx.bare hno
  refine ⟨forall_slots.mpr fun j hj1 hj => ?_, h2, h3, h4, h5, h6, h7, h8, h9⟩
  rw [length_noticed] at hj
  have hempty := forall_slots.mp h1 j hj1 hj
  have hnot : (x.slot j).holds p ≠ true := fun hh => (holds_iff.mp hh).2.1 hempty
  rcases noticed_cases (p := p) hj1 hj with ⟨-, he⟩ | ⟨hh, -⟩ | ⟨hh, -⟩
  · rw [he]
    exact hempty
  · exact absurd hh hnot
  · exact absurd hh hnot

/-- A notice that finds no switch to its patch. -/
theorem stationOk_noticed (hx : StationOk l x) (hw : ∀ w, x.switch = some w → w.patch ≠ p) : StationOk l (noticed p x) := by
  obtain ⟨h1, h2, h3, h4⟩ := hx.placed
  refine ⟨hx.absent, noticed_bare hx, tableOk_noticed hx.table, fun w hsw => ?_, h2, h3, h4⟩
  have hp : some w.patch ≠ some p := fun h => hw w hsw (Option.some.inj h)
  have hlen := length_noticed p x
  have hheld := h1 w hsw
  unfold Station.StageHeld at *
  split at hheld
  · next j hj =>
    obtain ⟨hpl, ⟨hj1, hn, hr⟩, hh⟩ := hheld
    rw [Station.Resident, noticed_other hj1 hn (by rw [(holds_iff.mp hh).2.2]; exact hp)]
    exact ⟨hpl, ⟨hj1, hn.trans hlen.ge, hr⟩, hh⟩
  · next j hj =>
    obtain ⟨hout, hh⟩ := hheld
    obtain ⟨hj1, hn, -⟩ := hx.table.select j hout
    rw [noticed_other hj1 hn (by rw [(holds_iff.mp hh).2.2]; exact hp)]
    exact ⟨hout, hh⟩
  · next j hj =>
    obtain ⟨hj1, hn, hst, hpatch⟩ := hheld
    rw [noticed_other hj1 hn (by rw [hpatch]; exact hp)]
    exact ⟨hj1, hn.trans hlen.ge, hst, hpatch⟩
  · exact hheld

/-- A notice turns the switch to its patch into a cold load. -/
theorem stationOk_noticed_colds (hx : StationOk l x) (hw : x.switch = some w) : StationOk l (coldened (noticed w.patch x)) := by
  obtain ⟨-, hex, -⟩ := placed_busy_iff hx.placed hw
  rw [coldened_switch (st := noticed w.patch x) hw]
  have htable := tableOk_noticed (p := w.patch) hx.table
  exact stationOk_online hx (online_of_switch hx hw) rfl rfl
    (Arranged.withCold htable.uncold fun j h1 hj => noticed_unheld h1 (hj.trans (length_noticed _ _).le))
    (placed_busy rfl rfl hex (fun _ hj => (nomatch hj)) fun _ _ => rfl)

/-- A notice that the entry is gone ends the switch to its patch. -/
theorem stationOk_noticed_misses (hx : StationOk l x) (hw : x.switch = some w) (f : StationFault) :
    StationOk l (faulted f (switchEnded w .missed none (placesCleared (noticed p x)))) :=
  stationOk_online hx (online_of_switch hx hw) rfl rfl (tableOk_noticed hx.table).uncold (placed_free rfl rfl rfl)

end

end Sys2Proof.Proofs

namespace Sys2Proof.Proofs

open Sys2Proof Sys2Proof.Machine

/-! ## What an operation on one station leaves to the others, and to the rebuild -/

theorem stationsSound_at {s : State} : s.StationsSound ↔ ∀ (j : Nat) (st : Station), s.stations[j]? = some st → StationOk s.loading st := by
  rw [stationsSound_iff]
  constructor
  · exact fun h j st hj => h st (List.mem_of_getElem? hj)
  · intro h st hst
    obtain ⟨j, hj⟩ := List.mem_iff_getElem?.mp hst
    exact h j st hj

theorem station_get {s : State} {i : Fin 6} (h : i.val < s.stations.length) : s.stations[i.val]? = some (s.station i) := by
  simp [State.station, List.getD_eq_getElem?_getD, List.getElem?_eq_getElem h]

/-- The records and entries of the other stations, and a rebuild as sound as before. -/
structure RigsApart (i : Fin 6) (s u : State) : Prop where
  stations : ∀ j, j ≠ i.val → u.stations[j]? = s.stations[j]?
  account : ∀ j, j ≠ i.val → u.stop.account[j]? = s.stop.account[j]?
  rebuild : s.RebuildSound → u.RebuildSound

namespace RigsApart

variable {i : Fin 6}

theorem refl (s : State) : RigsApart i s s := ⟨fun _ _ => rfl, fun _ _ => rfl, id⟩

theorem trans {s u v : State} (h : RigsApart i s u) (k : RigsApart i u v) : RigsApart i s v :=
  ⟨fun j hj => (k.stations j hj).trans (h.stations j hj), fun j hj => (k.account j hj).trans (h.account j hj),
    fun hs => k.rebuild (h.rebuild hs)⟩

theorem setStation (f : Station → Station) (s : State) : RigsApart i s (s.setStation i f) :=
  ⟨fun _ hj => List.getElem?_modify_ne _ _ fun h => hj h.symm, fun _ _ => rfl, id⟩

theorem raise (r : CondRecord) (s : State) : RigsApart i s (raise r s) := ⟨fun _ _ => rfl, fun _ _ => rfl, id⟩

theorem evaluateReady_stop (s : State) : (evaluateReady s).stations = s.stations ∧ (evaluateReady s).stop.account = s.stop.account := by
  unfold evaluateReady
  split
  · dsimp only
    split <;> exact ⟨rfl, rfl⟩
  · dsimp only
    split <;> exact ⟨rfl, rfl⟩
  · exact ⟨rfl, rfl⟩

/-- Readiness as evaluated is what the account says, wherever there is a resume point. -/
theorem evaluateReady_rebuildSound {s : State} {r : ResumePoint} (hr : s.stop.st.rebuilds = true) (hres : s.stop.resume = some r)
    (hcue : s.seq.current = some r.cue) : (evaluateReady s).RebuildSound := by
  intro _
  unfold evaluateReady
  cases hst : s.stop.st with
  | rebuilding =>
    simp only [hres]
    split
    · next hb => exact ⟨hst, r, hres, hcue⟩
    · next hb => exact ⟨(if_neg (by exact hb)).symm, r, hres, hcue⟩
  | ready =>
    dsimp only
    split
    · next hb => exact ⟨(if_pos (by exact hb)).symm, r, hres, hcue⟩
    · next hb => exact ⟨hst, r, hres, hcue⟩
  | _ => exact absurd hr (by rw [hst]; exact Bool.false_ne_true)

theorem setAccount (f : Account → Account) (s : State) : RigsApart i s (setAccount i f s) := by
  unfold Machine.setAccount
  split
  · next hr =>
    generalize hm : ({ s with stop := { s.stop with account := s.stop.account.modify i f } } : State) = m
    obtain ⟨hstations, haccount⟩ := evaluateReady_stop m
    refine ⟨fun j hj => by rw [hstations, ← hm], fun j hj => ?_, fun hs => ?_⟩
    · rw [haccount, ← hm]
      exact List.getElem?_modify_ne _ _ fun h => hj h.symm
    · obtain ⟨-, r, hres, hcue⟩ := hs hr
      rw [← hm]
      exact evaluateReady_rebuildSound hr hres hcue
  · exact refl s

end RigsApart

theorem Rigs.apart {i : Fin 6} {s u : State} (h : Rigs i s u) : RigsApart i s u := by
  induction h with
  | refl => exact .refl s
  | tail _ step ih =>
    cases step with
    | station f => exact ih.trans (.setStation f _)
    | fault kind => exact ih.trans (.raise _ _)
    | account f => exact ih.trans (.setAccount f _)

/-- What every operation on a station leaves of the state. -/
theorem Rigs.parts {i : Fin 6} {s u : State} (h : Rigs i s u) : u.loading = s.loading ∧ u.seq = s.seq ∧ u.store = s.store
    ∧ u.map = s.map ∧ u.now = s.now ∧ u.stop.words = s.stop.words ∧ u.stop.resume = s.stop.resume := by
  have p : ∀ {α : Type} (f : State → α), _ := fun f => congrArg f h.keep.rest
  have q : ∀ {α : Type} (f : StopController → α), _ := fun f => congrArg f h.keep.stop
  exact ⟨p (·.loading), p (·.seq), p (·.store), p (·.map), p (·.now), q (·.words), q (·.resume)⟩

/-! ## One station's record and entry, followed through an operation -/

/-- Station `i` is one of the part's, with the record `x`, and with the entry `a` where `r` says that a rebuild goes on. -/
structure Now (r : Bool) (i : Fin 6) (s : State) (x : Station) (a : Option Account) : Prop where
  here : i.val < s.stations.length
  station : s.station i = x
  entry : r = true → s.stop.st.rebuilds = true ∧ s.stop.account[i.val]? = a

namespace Now

variable {r : Bool} {i : Fin 6} {s u : State} {x : Station} {a : Option Account} {w : Switch}

theorem set (h : Now r i s x a) (f : Station → Station) : Now r i (s.setStation i f) (f x) a :=
  ⟨h.here.trans_le (List.length_modify _ _ _).ge, by rw [station_setStation_own, if_pos h.here, h.station], h.entry⟩

theorem raised (h : Now r i s x a) (c : CondRecord) : Now r i (raise c s) x a := ⟨h.here, h.station, h.entry⟩

/-- The same station behind writes of other blocks. -/
theorem same (h : Now r i s x a) (hs : u.stations = s.stations) (hr : u.stop.st.rebuilds = s.stop.st.rebuilds)
    (ha : u.stop.account = s.stop.account) : Now r i u x a :=
  ⟨by rw [hs]; exact h.here, (station_congr hs i).trans h.station, fun hr' => by rw [hr, ha]; exact h.entry hr'⟩

theorem fault (h : Now r i s x a) (kind : FaultKind) (cue : Option CueNo) (patch : Option Nat) :
    Now r i (stationFault i kind cue patch s) (faulted { kind := kind, cue := cue, patch := patch, time := s.now } x) a :=
  (h.set (faulted { kind := kind, cue := cue, patch := patch, time := s.now })).raised _

theorem account (h : Now r i s x a) (f : Account → Account) : Now r i (setAccount i f s) x (a.map f) := by
  have hkeep := (Rigs.setAccount i f s).keep
  have hstations : (setAccount i f s).stations = s.stations := by
    unfold setAccount
    split
    · exact (RigsApart.evaluateReady_stop _).1
    · rfl
  refine ⟨by rw [hstations]; exact h.here, (station_congr hstations i).trans h.station, fun hr => ?_⟩
  obtain ⟨hb, ha⟩ := h.entry hr
  refine ⟨hkeep.rebuilds.trans hb, ?_⟩
  rw [setAccount, if_pos hb, (RigsApart.evaluateReady_stop _).2]
  exact (List.getElem?_modify_eq _ _ _).trans (congrArg (Option.map f) ha)

theorem report (h : Now r i s x a) (mark : Bool) (o : SwitchEnd) : Now r i (reportEnd i mark o s) x (entryAfter mark o a) := by
  have reported (b : Bool) : Now r i (reportSwitch i b s) x (a.map (reportedEntry (some b))) := by
    have hf : reportedEntry (some b) = fun a => match a with
        | .waiting => if b then .satisfied else .failed
        | a => a := by
      funext c
      cases c <;> rfl
    rw [hf]
    exact h.account _
  cases mark with
  | false => exact h
  | true =>
    cases o with
    | done => exact reported true
    | missed => exact reported false
    | superseded => exact h
    | dropped => exact h

theorem ended (h : Now r i s x a) (hw : x.switch = some w) (o : SwitchEnd) (l : Option Nat) :
    Now r i (endSwitch i o l s) (switchEnded w o l x) (entryAfter w.rebuild o a) := by
  unfold endSwitch
  rw [h.station, hw]
  exact (h.set (switchEnded w o l)).report w.rebuild o

theorem unended (h : Now r i s x a) (hw : x.switch = none) (o : SwitchEnd) (l : Option Nat) : Now r i (endSwitch i o l s) x a := by
  unfold endSwitch
  rw [h.station, hw]
  exact h

theorem left (h : Now r i s x a) (o : SwitchEnd) : ∃ b, Now r i (endSwitch i o none s) (switchLeft o x) b := by
  cases hw : x.switch with
  | none =>
    rw [switchLeft_none hw]
    exact ⟨a, h.unended hw _ _⟩
  | some w =>
    rw [switchLeft_some hw]
    exact ⟨_, h.ended hw o none⟩

/-- A switch that is dropped is not reported. -/
theorem dropped (h : Now r i s x a) : Now r i (endSwitch i .dropped none s) (switchLeft .dropped x) a := by
  cases hw : x.switch with
  | none =>
    rw [switchLeft_none hw]
    exact h.unended hw _ _
  | some w =>
    rw [switchLeft_some hw]
    have := h.ended hw .dropped none
    cases hm : w.rebuild with
    | false => rwa [hm] at this
    | true => rwa [hm] at this

theorem missed (h : Now r i s x a) (hw : x.switch = some w) (kind : FaultKind) :
    Now r i (missSwitch i kind s) (faulted { kind := kind, cue := w.cue, patch := some w.patch, time := s.now } (switchEnded w .missed none x))
      (entryAfter w.rebuild .missed a) := by
  unfold missSwitch
  rw [h.station, hw]
  have hnow : (endSwitch i .missed none s).now = s.now := by
    obtain ⟨-, -, -, -, h, -⟩ := (Rigs.endSwitch i .missed none s).parts
    exact h
  rw [← hnow]
  exact (h.ended hw .missed none).fault kind w.cue (some w.patch)

theorem unmissed (h : Now r i s x a) (hw : x.switch = none) (kind : FaultKind) : Now r i (missSwitch i kind s) x a := by
  unfold missSwitch
  rw [h.station, hw]
  exact h

/-! ### A recompute (R122) -/

theorem deferred (h : Now r i s x a) (c : Option CueNo × Nat) : ∃ y, Now r i (deferPreload i c s) y a ∧ Beside x y := by
  unfold deferPreload
  split
  · exact ⟨_, h.set fun st => { st with preload := false }, rfl⟩
  · exact ⟨_, (h.set fun st => { st with preload := false, pressure := true }).fault _ _ _, rfl⟩

/-- A recompute leaves what no promise speaks of, and the mark of the preload. -/
theorem chosen (h : Now r i s x a) : ∃ y, Now r i (choosePreload i s) y a ∧ Beside x y := by
  unfold choosePreload
  dsimp only
  split
  · exact ⟨_, h.set fun st => { st with preload := false, pressure := false }, rfl⟩
  · split
    · exact ⟨_, h.set fun st => { st with preload := false }, rfl⟩
    · split
      · exact ⟨_, h.set fun st => { st with preload := true }, rfl⟩
      · exact h.deferred _

theorem recomputed (h : Now r i s x a) (keep : Bool) :
    ∃ y, Now r i (recompute keep i s) y a ∧ Beside x y ∧ (x.link ≠ .online → y.preload = x.preload) := by
  unfold recompute
  rw [h.station]
  split
  · next hs =>
    have hon : x.link = .online := ((serves_iff x).mp hs).1
    cases keep with
    | true =>
      obtain ⟨y, hy, hb⟩ := h.chosen
      exact ⟨y, hy, hb, fun hno => absurd hon hno⟩
    | false =>
      obtain ⟨y, hy, hb⟩ := (h.set fun st => { st with failed := [] }).chosen
      refine ⟨y, hy, ?_, fun hno => absurd hon hno⟩
      unfold Beside at hb ⊢
      exact hb
  · exact ⟨x, h, rfl, fun _ => rfl⟩

end Now

/-! ## Operations that keep a station's promises -/

/-- An operation on station `i` that keeps its promises; in a rebuild (`r`) with the patch `t` tracked for it, also those of
the rebuild. -/
structure Kept (r : Bool) (t : Option Nat) (i : Fin 6) (s u : State) : Prop where
  rigs : Rigs i s u
  carried : ∀ x a, Now r i s x a → StationOk s.loading x → ∃ y b, Now r i u y b ∧ Carried s.loading r t x a y b

namespace Kept

variable {r : Bool} {t : Option Nat} {i : Fin 6} {s u v : State}

theorem refl (s : State) : Kept r t i s s := ⟨.refl s, fun x a h hx => ⟨x, a, h, .refl hx⟩⟩

theorem trans (h : Kept r t i s u) (k : Kept r t i u v) : Kept r t i s v := by
  refine ⟨h.rigs.trans k.rigs, fun x a hn hx => ?_⟩
  obtain ⟨y, b, hy, hxy⟩ := h.carried x a hn hx
  obtain ⟨hload, -⟩ := h.rigs.parts
  obtain ⟨z, c, hz, hyz⟩ := k.carried y b hy (by rw [hload]; exact hxy.ok)
  rw [hload] at hyz
  exact ⟨z, c, hz, hxy.trans hyz⟩

theorem ite {c : Prop} [Decidable c] (ha : c → Kept r t i s u) (hb : ¬c → Kept r t i s v) : Kept r t i s (if c then u else v) := by
  split
  · next h => exact ha h
  · next h => exact hb h

/-- A write of the station's record. -/
theorem set (f : Station → Station)
    (h : ∀ a, i.val < s.stations.length → StationOk s.loading (s.station i) → Carried s.loading r t (s.station i) a (f (s.station i)) a) :
    Kept r t i s (s.setStation i f) :=
  ⟨.setStation i f s, fun x a hn hx => ⟨f x, a, hn.set f, by
    have hst := hn.station
    subst hst
    exact h a hn.here hx⟩⟩

theorem recompute (keep : Bool) (s : State) : Kept r t i s (recompute keep i s) := by
  refine ⟨.recompute keep i s, fun x a h hx => ?_⟩
  obtain ⟨y, hy, hb, hp⟩ := h.recomputed keep
  exact ⟨y, a, hy, .beside hx hb hp⟩

/-- A write beside the promises. -/
theorem minor {f : Station → Station} (hf : ∀ x, Beside x (f x) ∧ (f x).preload = x.preload) (s : State) :
    Kept r t i s (s.setStation i f) :=
  .set f fun _ _ hx => .beside hx (hf _).1 fun _ => (hf _).2

end Kept

end Sys2Proof.Proofs

namespace Sys2Proof.Proofs

open Sys2Proof Sys2Proof.Machine

/-! ## The answers and the timeouts keep a station's promises -/

theorem Now.load {r : Bool} {i : Fin 6} {s : State} {x : Station} {a : Option Account} (h : Now r i s x a) (e : MapEntry) (cue : Option CueNo) (k v : Nat) :
    Now r i (sendLoad i e cue k v s) (loadSent e cue k v s.now x) a :=
  (h.set fun st =>
    { (st.setSlot k fun _ => { st := .loading, patch := some e.patch, stale := false, flush := false }) with
      victim := v
      outLoad := some { slot := k, patch := e.patch, cue := cue, sent := s.now, limit := (e.load + 2000) * 1000, due := none } }).set
    fun st => { st with sending := some (.load k e.bank e.program, s.now) }

namespace Kept

variable {r : Bool} {t : Option Nat} {i : Fin 6} {s : State}

/-- By what the operation makes of the station's record and entry. -/
theorem of {u : State} (hr : Rigs i s u) (h : ∀ x a, s.station i = x → Now r i s x a → StationOk s.loading x →
    ∃ y b, Now r i u y b ∧ Carried s.loading r t x a y b) : Kept r t i s u := ⟨hr, fun x a hn => h x a hn.station hn⟩

theorem loaded {o : OutLoad} (ho : (s.station i).outLoad = some o) : Kept r t i s (takeLoaded i o s) := by
  unfold takeLoaded
  extract_lets st sl waits m n
  have hm : Rigs i s m := .setStation i _ s
  refine trans (of (hm.trans ?_) fun x a hst h hx => ?_) (.recompute true _)
  · exact .ite (.ite (.becomeCold i m) (.setStation i _ m)) (.refl m)
  have hnow : Now r i m (loadAnswered o.slot x) a := h.set (loadAnswered o.slot)
  have hwaits : waits = ((x.switch.map (·.stage)) == some (.loading o.slot)) := by rw [← hst]
  have hsl : sl = x.slot o.slot := by rw [← hst]
  rw [hst] at ho
  clear_value waits sl m
  subst hwaits hsl
  unfold n
  split
  · next hw =>
    obtain ⟨w, hsw, hstage⟩ := Option.map_eq_some_iff.mp (beq_iff_eq.mp hw)
    split
    · next hmark =>
      exact ⟨_, a, hnow.set coldened, carried_loaded_colds hx ho hsw hstage (Bool.or_eq_true_iff.mp hmark)⟩
    · next hmark =>
      obtain ⟨hstale, hflush⟩ := not_or.mp (mt Bool.or_eq_true_iff.mpr hmark)
      have hy := hnow.set fun st => match st.switch with
        | some w => st.queueSelect o.slot w
        | none => st
      have hsw' : (loadAnswered o.slot x).switch = some w := hsw
      rw [hsw'] at hy
      exact ⟨_, a, hy, carried_loaded_selects hx ho hsw hstage (Bool.not_eq_true _ ▸ hstale) (Bool.not_eq_true _ ▸ hflush)⟩
  · next hw =>
    exact ⟨_, a, hnow, carried_loaded hx ho fun w hsw hstage => hw (beq_iff_eq.mpr (by rw [hsw, ← hstage]; rfl))⟩

theorem failLoad {o : OutLoad} (kind : FaultKind) (ho : (s.station i).outLoad = some o) : Kept r t i s (failLoad i kind o s) := by
  unfold Machine.failLoad
  extract_lets waiting m n
  have hm : Rigs i s m := .setStation i _ s
  have hwaiting : waiting = (s.station i).switch.filter fun w => w.stage == .loading o.slot := rfl
  clear_value waiting
  refine trans (of (hm.trans ?_) fun x a hst h hx => ?_) (.recompute true _)
  · unfold n
    split
    · exact (Rigs.endSwitch i _ _ m).trans (.stationFault i _ _ _ _)
    · exact .stationFault i _ _ _ m
  have hnow : Now r i m (loadLost o x) a := h.set (loadLost o)
  rw [hst] at ho hwaiting
  clear_value m
  unfold n
  cases hw : waiting with
  | some w =>
    obtain ⟨hsw, hstage⟩ := Option.filter_eq_some_iff.mp (hwaiting.symm.trans hw)
    have hc := carried_lost_waited (r := r) (t := t) (a := a) hx ho hsw (beq_iff_eq.mp hstage)
    exact ⟨_, _, (hnow.ended hsw .missed none).fault kind w.cue (some o.patch), hc.trans (.beside hc.ok rfl fun _ => rfl)⟩
  | none =>
    have hno : ∀ w, x.switch = some w → w.stage ≠ .loading o.slot := fun w hsw hstage =>
      Option.filter_eq_none_iff.mp (hwaiting.symm.trans hw) w hsw (beq_iff_eq.mpr hstage)
    have hc := carried_lost (r := r) (t := t) (a := a) hx ho hno
    exact ⟨_, _, hnow.fault kind o.cue (some o.patch), hc.trans (.beside hc.ok rfl fun _ => rfl)⟩

theorem confirmed {x : Station} {a : Option Account} {w : Switch} (h : Now r i s x a) (hw : x.switch = some w) :
    ∃ late y, Now r i (confirmSwitch i w s) y (entryAfter w.rebuild .done a) ∧ Beside (switchEnded w .done late x) y
      ∧ y.preload = x.preload := by
  unfold confirmSwitch
  extract_lets lateness late m
  have hm : Now r i m (switchEnded w .done lateness x) (entryAfter w.rebuild .done a) := h.ended hw .done lateness
  refine ⟨lateness, ?_⟩
  split
  · exact ⟨_, hm.fault _ _ _, rfl, rfl⟩
  · exact ⟨_, hm, rfl, rfl⟩

theorem selected {k : Nat} (hk : ∃ o, (s.station i).outSelect = some o ∧ o.slot = k) : Kept r t i s (takeSelected i k s) := by
  obtain ⟨o, ho, rfl⟩ := hk
  unfold takeSelected
  extract_lets m n
  have hm : Rigs i s m := .setStation i _ s
  refine trans (of (hm.trans ?_) fun x a hst h hx => ?_) (.recompute true _)
  · unfold n
    split
    · exact .ite (.confirmSwitch i _ m) (.refl m)
    · exact .refl m
  have hnow : Now r i m (selectAnswered (.slot o.slot) x) a := h.set (selectAnswered (.slot o.slot))
  rw [hst] at ho
  have hsw : (m.station i).switch = x.switch := congrArg (·.switch) hnow.station
  have hsel : ∀ j, Selected.slot o.slot = .slot j → j = o.slot ∨ x.selected = .slot j := fun j hj => .inl (Selected.slot.inj hj).symm
  clear_value m
  unfold n
  rw [hsw]
  cases hw : x.switch with
  | none => exact ⟨_, a, hnow, carried_unselected hx ho hsel fun w hno => (nomatch hw.symm.trans hno)⟩
  | some w =>
    dsimp only
    split
    · next hstage =>
      obtain ⟨late, y, hy, hb, hp⟩ := confirmed hnow hw
      have hc := carried_confirmed (r := r) (t := t) (a := a) hx ho hw hstage late
      exact ⟨y, _, hy, hc.trans (.beside hc.ok hb fun _ => hp)⟩
    · next hstage =>
      refine ⟨_, a, hnow, carried_unselected hx ho hsel fun v hv => ?_⟩
      rw [← Option.some.inj (hw.symm.trans hv)]
      exact hstage

theorem failSelect {k : Nat} (hk : ∃ o, (s.station i).outSelect = some o ∧ o.slot = k) : Kept r t i s (failSelect i k s) := by
  obtain ⟨o, ho, rfl⟩ := hk
  unfold Machine.failSelect
  extract_lets m n
  have hm : Rigs i s m := .setStation i _ s
  refine trans (of (hm.trans ?_) fun x a hst h hx => ?_) (.recompute true _)
  · unfold n
    split
    · exact .ite (.missSwitch i _ m) (.refl m)
    · exact .refl m
  have hnow : Now r i m (selectAnswered (x.selected.timedOut o.slot) x) a :=
    h.set fun st => selectAnswered (st.selected.timedOut o.slot) st
  rw [hst] at ho
  have hsw : (m.station i).switch = x.switch := congrArg (·.switch) hnow.station
  have hsel : ∀ j, x.selected.timedOut o.slot = .slot j → j = o.slot ∨ x.selected = .slot j := fun j hj => timedOut_slot hj
  clear_value m
  unfold n
  rw [hsw]
  cases hw : x.switch with
  | none => exact ⟨_, a, hnow, carried_unselected hx ho hsel fun w hno => (nomatch hw.symm.trans hno)⟩
  | some w =>
    dsimp only
    split
    · next hstage =>
      have hc := carried_timedOut (r := r) (t := t) (a := a) hx ho hsel hw hstage
      exact ⟨_, _, hnow.missed hw .selectTimeout, hc.trans (.beside hc.ok rfl fun _ => rfl)⟩
    · next hstage =>
      refine ⟨_, a, hnow, carried_unselected hx ho hsel fun v hv => ?_⟩
      rw [← Option.some.inj (hw.symm.trans hv)]
      exact hstage

/-! ## What a station's link sends -/

theorem sendCold {p : Nat} (hp : (s.station i).loadPlace = some p) (ho : (s.station i).outLoad = none) :
    Kept r t i s (sendCold i p s) := by
  refine of (.sendCold i p s) fun x a hst h hx => ?_
  rw [hst] at hp ho
  have hm : Now r i (s.setStation i fun st => { st with loadPlace := none }) { x with loadPlace := none } a :=
    h.set fun st => { st with loadPlace := none }
  obtain ⟨w, hw, -, -⟩ := coldPatch hx.placed hp
  unfold Machine.sendCold
  rw [hst]
  dsimp only
  split
  · next e k v he hv =>
    obtain ⟨-, hpatch⟩ := findMap_some he
    have hk := takable_of_victim hx (chooseVictim_some.mp hv)
    refine ⟨_, a, ?_, carried_coldSent (v := v) (now := s.now) (e := e) hx (by rw [hp, hpatch]) ho hk (x.switch.bind (·.cue))⟩
    exact (hm.load e (x.switch.bind (·.cue)) k v).set fun st =>
      { st with switch := st.switch.map fun w => { w with stage := .loading k } }
  · have hc := carried_coldMissed (r := r) (t := t) (a := a) hx hp hw
    exact ⟨_, _, hm.missed hw .pressure, hc.trans (.beside hc.ok rfl fun _ => rfl)⟩

theorem sendSelect {k : Nat} (hk : (s.station i).selectPlace = some k) : Kept r t i s (sendSelect i k s) := by
  refine of (.sendSelect i k s) fun x a hst h hx => ⟨selectSent k s.now x, a, ?_, carried_selectSent hx (hst ▸ hk)⟩
  exact (h.set fun st => { st with
    selectPlace := none
    outSelect := some { slot := k, sent := s.now, due := none }
    switch := st.switch.map fun w => if w.stage = .selectHeld k then { w with stage := .selecting k } else w }).set
      fun st => { st with sending := some (.select k, s.now) }

theorem sendPreload (hpre : (s.station i).preload = true) (hp : (s.station i).loadPlace = none)
    (ho : (s.station i).outLoad = none) : Kept r t i s (sendPreload i s) := by
  refine of (.sendPreload i s) fun x a hst h hx => ?_
  rw [hst] at hpre hp ho
  have hon : x.link = .online := by
    by_contra hno
    obtain ⟨-, -, -, -, -, -, hnone, -⟩ := hx.bare hno
    exact (nomatch hnone.symm.trans hpre)
  unfold Machine.sendPreload
  rw [hst]
  dsimp only
  split
  · exact ⟨_, a, h.set fun st => { st with preload := false, pressure := false }, .beside hx rfl fun hno => absurd hon hno⟩
  · next c hc =>
    split
    · next e k v he hv =>
      obtain ⟨-, hpatch⟩ := findMap_some he
      obtain ⟨cue, q⟩ := c
      obtain ⟨-, -, -, -, -, -, hunheld, -⟩ := preloadOf_some.mp hc
      have hpatch : e.patch = q := hpatch
      rw [← hpatch] at hunheld
      exact ⟨_, a, (h.set fun st => { st with preload := false, pressure := false }).load e cue k v,
        carried_preloadSent hx hon hp ho (takable_of_victim hx (chooseVictim_some.mp hv)) hunheld cue⟩
    · obtain ⟨y, hy, hb⟩ := h.deferred c
      exact ⟨y, a, hy, .beside hx hb fun hno => absurd hon hno⟩

theorem sendNext (s : State) : Kept r t i s (sendNext i s) := by
  unfold Machine.sendNext
  extract_lets st
  refine ite (fun _ => refl s) fun _ => ite (fun _ => ?_) fun _ => ?_
  · refine of ((Rigs.setStation i _ s).trans (.sendFrame i _ _)) fun x a _ h hx => ⟨_, a, ?_, carried_silence (now := s.now) hx⟩
    exact (h.set fun st => { st with silence := false }).set fun st => { st with sending := some (.silence, s.now) }
  split
  · next hk => exact sendSelect (Option.filter_eq_some_iff.mp hk).1
  · next hp =>
    obtain ⟨hp, ho⟩ := Option.filter_eq_some_iff.mp hp
    exact sendCold hp (Option.isNone_iff_eq_none.mp ho)
  · next hno =>
    refine ite (fun hpre => ?_) fun _ => ite (fun _ => ?_) fun _ => refl s
    · obtain ⟨hpre, ho⟩ := Bool.and_eq_true_iff.mp hpre
      have hp : st.loadPlace = none := by
        cases hp : st.loadPlace with
        | none => rfl
        | some p => exact absurd ho (Option.filter_eq_none_iff.mp hno p hp)
      exact sendPreload hpre hp (Option.isNone_iff_eq_none.mp ho)
    · refine of ((Rigs.setStation i _ s).trans (.sendFrame i _ _)) fun x a _ h hx => ⟨_, a, ?_, carried_query (now := s.now) hx⟩
      exact (h.set fun st => { st with queryDue := false }).set fun st => { st with sending := some (.query, s.now) }

theorem frameEnds (s : State) : Kept r t i s (frameEnds i s) := by
  refine of (.frameEnds i s) fun x a hst h hx => ?_
  cases hf : x.sending with
  | none =>
    have hy : Now r i (Machine.frameEnds i s) _ a := h.set _
    rw [hf] at hy
    exact ⟨_, a, hy, .beside hx rfl fun _ => rfl⟩
  | some f =>
    obtain ⟨f, since⟩ := f
    rw [frameEnds_eq (by rw [hst]; exact hf), hst]
    exact ⟨_, a, h.set fun _ => frameEnded f s.now x, carried_frameEnded hx f⟩

theorem flushed (s : State) : Kept r t i s (s.setStation i Station.flushed) := .set _ fun _ _ hx => carried_flushed hx

end Kept

end Sys2Proof.Proofs

namespace Sys2Proof.Proofs

open Sys2Proof Sys2Proof.Machine

/-! ## A switch target keeps a station's promises -/

namespace Now

variable {r mark l : Bool} {t : Option Nat} {i : Fin 6} {s : State} {x : Station} {a : Option Account} {w : Switch}
  {cue : Option CueNo} {target fireTime : Option Nat}

theorem quick (h : Now r i s x a) (n : LastSwitch) : Now r i (quickEnd i n mark s) (noted n x) (entryAfter mark n.outcome a) :=
  (h.set (noted n)).report mark n.outcome

/-- A target on a station without a switch is classified (R123). -/
theorem classified (h : Now r i s x a) (hx : StationOk l x) (hs : x.serves = true) (hw : x.switch = none)
    (hmark : r = true → mark = true ∧ target = t) :
    ∃ y b, Now r i (classifySwitch i cue target fireTime mark s) y b ∧ Started l r t x a y b := by
  cases target with
  | none => exact ⟨_, _, h.quick _, started_none hx hw (fun hr => (hmark hr).2.symm) _⟩
  | some p =>
    have hmark' : r = true → mark = true ∧ t = some p := fun hr => ⟨(hmark hr).1, (hmark hr).2.symm⟩
    unfold classifySwitch
    dsimp only
    split
    · exact ⟨_, _, (h.quick _).fault _ _ _, started_unmapped hx hw _ _⟩
    · rw [h.station]
      split
      · next hhot => exact ⟨_, _, h.quick _, started_hot hx hw (fun hr => (hmark' hr).2) hhot _⟩
      · next hhot =>
        exact ⟨_, _, h.set (begun cue p fireTime mark), started_begun hx hs hw (Bool.not_eq_true _ ▸ hhot) hmark'⟩

theorem superseded (h : Now r i s x a) (hw : x.switch = some w) : Now r i (supersede i s) (supersededBy w x) a := by
  have hend := h.ended hw .superseded none
  have ha : entryAfter w.rebuild .superseded a = a := by cases w.rebuild <;> rfl
  rw [ha] at hend
  exact hend.set fun st => { st with selectPlace := none, loadPlace := none }

theorem taken (h : Now r i s x a) (hw : x.switch = some w) :
    Now r i (takeOver i cue fireTime mark w s) (takenOver cue fireTime mark w x) a := by
  have hend := h.ended hw .superseded none
  have ha : entryAfter w.rebuild .superseded a = a := by cases w.rebuild <;> rfl
  rw [ha] at hend
  exact hend.set fun st => { st with switch := some { w with cue := cue, fireTime := fireTime, rebuild := mark } }

/-- A target on a station that takes it (R123, R124). -/
theorem started (h : Now r i s x a) (hx : StationOk l x) (hs : x.serves = true) (hmark : r = true → mark = true ∧ target = t) :
    ∃ y b, Now r i (startSwitch i cue target fireTime mark s) y b ∧ Started l r t x a y b := by
  unfold startSwitch
  rw [h.station, if_pos hs]
  split
  · next hw => exact h.classified hx hs hw hmark
  · next w hw =>
    split
    · next ht =>
      exact ⟨_, a, h.taken hw, started_takenOver hx hw fun hr => ⟨(hmark hr).1, (hmark hr).2.symm.trans ht⟩⟩
    · obtain ⟨y, b, hy, hst⟩ := (h.superseded hw).classified (cue := cue) (fireTime := fireTime) (stationOk_superseded hx hw)
        (show (supersededBy w x).serves = true from hs) rfl hmark
      exact ⟨y, b, hy, hst.after_superseded hw⟩

end Now

namespace Kept

variable {r mark : Bool} {t : Option Nat} {i : Fin 6} {s : State} {cue : Option CueNo} {target fireTime : Option Nat}

/-- In a rebuild the target is the tracked patch, with the rebuild mark. -/
theorem startSwitch (hmark : r = true → mark = true ∧ target = t) :
    Kept r t i s (startSwitch i cue target fireTime mark s) := by
  refine of (.startSwitch i _ _ _ _ s) fun x a hst h hx => ?_
  cases hs : x.serves with
  | false =>
    rw [startSwitch_idle (by rw [hst]; exact hs)]
    exact ⟨x, a, h, .refl hx⟩
  | true =>
    obtain ⟨y, b, hy, hstarted⟩ := h.started (cue := cue) (fireTime := fireTime) hx hs hmark
    exact ⟨y, b, hy, hstarted.carried⟩

/-- A resync goes to the tracked patch at the current cue, in a rebuild with its mark (R129). -/
theorem resync (ht : r = true → s.stop.st.rebuilds = true ∧ (s.seq.current.bind fun n => (trackedPatch s.store.cues n i).map (·.1)) = t) :
    Kept r t i s (resync i s) :=
  trans (startSwitch ht) (.recompute false _)

theorem takeAhead (set : List CueNo) (latch : Option CueNo) (s : State) : Kept r t i s (takeAhead set latch i s) :=
  trans (Kept.set _ fun _ _ hx => .beside hx (by exact rfl) fun _ => by rfl) (.recompute false _)

/-! ## The orders that drop a switch, outside a rebuild -/

/-- What is kept of a station's promises beside a rebuild. -/
theorem aside {u : State} (hr : Rigs i s u) (h : ∀ x, s.station i = x → Now false i s x none → StationOk s.loading x →
    ∃ y, Now false i u y none ∧ StationOk s.loading y ∧ (y.link = .online → x.link = .online) ∧ y.excluded = x.excluded) :
    Kept false t i s u := by
  refine of hr fun x a hst hn hx => ?_
  obtain ⟨y, hy, hok, hl, he⟩ := h x hst ⟨hn.here, hn.station, fun hno => (nomatch hno)⟩ hx
  exact ⟨y, a, ⟨hy.here, hy.station, fun hno => (nomatch hno)⟩, hok, hl, he, fun hno => (nomatch hno)⟩

theorem stationStop (s : State) : Kept false t i s (stationStop i s) := by
  unfold Machine.stationStop
  refine ite (fun hs => aside ((Rigs.setStation i _ s).trans (.endSwitch i _ _ _)) fun x hst h hx => ?_) fun _ => refl s
  rw [hst] at hs
  obtain ⟨hl, he⟩ := silenced_link true x.failed x
  refine ⟨_, (h.set fun st => { st with silence := true, selectPlace := none, loadPlace := none }).dropped, ?_, ?_, ?_⟩
  · exact stationOk_silenced (failed := x.failed) hx fun hno => absurd ((serves_iff x).mp hs).1 hno
  · exact fun hon => hl ▸ hon
  · exact he

theorem stationRestart (s : State) : Kept false t i s (stationRestart i s) := by
  refine aside ((Rigs.setStation i _ s).trans (.endSwitch i _ _ _)) fun x hst h hx => ?_
  obtain ⟨hl, he⟩ := silenced_link (x.silence || x.serves) [] x
  refine ⟨_, (h.set fun st => { st with
    silence := st.silence || st.serves, selectPlace := none, loadPlace := none, failed := [] }).dropped, ?_, ?_, ?_⟩
  · refine stationOk_silenced hx fun hno => ?_
    obtain ⟨-, -, -, -, -, -, -, -, hsil⟩ := hx.bare hno
    have hs : x.serves ≠ true := fun hs => hno ((serves_iff x).mp hs).1
    rw [hsil, Bool.eq_false_iff.mpr hs]
    rfl
  · exact fun hon => hl ▸ hon
  · exact he

theorem resetStation (hl : s.loading = false) : Kept r t i s (resetStation i s) := by
  refine of (.resetStation i s) fun x a hst h hx => ⟨wasReset x, a, ?_, hl ▸ carried_wasReset⟩
  have hset := (h.set fun st =>
    let st := { st.emptied with silence := false, victim := 1, pressure := false, failed := [] }
    if st.present then st.greet else { st with link := .offline }).dropped
  exact hset

/-! ## A map-changed notice, ahead of the fresh rebuild that follows it in one -/

theorem stationMapChanged (p : Nat) (deleted : Bool) (s : State) : Kept false t i s (stationMapChanged i p deleted s) := by
  rw [stationMapChanged_eq, ← setStation_as i (noticed p)]
  refine trans (u := switchNoticed i p deleted (s.setStation i (noticed p))) ?_ (.recompute false _)
  have hrigs (m : State) : Rigs i m (switchNoticed i p deleted m) := by
    unfold switchNoticed
    split
    · exact .refl m
    · exact .ite ((Rigs.setStation i _ m).trans (.missSwitch i _ _)) (.becomeCold i m)
  refine aside ((Rigs.setStation i _ s).trans (hrigs _)) fun x hst h hx => ?_
  have hn := h.set (noticed p)
  generalize s.setStation i (noticed p) = m at hn
  unfold switchNoticed
  rw [hn.station]
  split
  · next hno =>
    refine ⟨_, hn, stationOk_noticed hx fun w hw hp => ?_, id, rfl⟩
    exact Option.filter_eq_none_iff.mp hno w hw (beq_iff_eq.mpr hp)
  · next w hw =>
    obtain ⟨hw, hp⟩ := Option.filter_eq_some_iff.mp hw
    obtain rfl := beq_iff_eq.mp hp
    split
    · have hend := (hn.set placesCleared).missed (w := w) hw .unmapped
      exact ⟨_, ⟨hend.here, hend.station, fun hno => (nomatch hno)⟩, stationOk_noticed_misses hx hw _, id, rfl⟩
    · exact ⟨_, hn.set coldened, stationOk_noticed_colds hx hw, id, rfl⟩

end Kept

end Sys2Proof.Proofs

namespace Sys2Proof.Proofs

open Sys2Proof Sys2Proof.Machine

/-! ## The orders that stations are given

What a command does to the stations is a chain of orders to one station each; between them the other blocks act. A promise about
the stations that each order keeps is kept by the chain. -/

/-- An operation on a station, or an act of the other blocks, which (`q`) starts no rebuild. -/
inductive Order (q : Bool) (s : State) : State → Prop
  | beside {u : State} (hs : u.stations = s.stations) (hl : u.loading = s.loading) (hw : u.stop.words = s.stop.words)
      (hr : q = true → s.stop.st.rebuilds = false → u.stop.st.rebuilds = false) : Order q s u
  | rig {u : State} (i : Fin 6) (t : Option Nat) (h : Kept false t i s u) : Order q s u

/-- A chain of orders. -/
def Orders (q : Bool) : State → State → Prop := Relation.ReflTransGen (Order q)

namespace Orders

variable {q : Bool}

theorem refl (s : State) : Orders q s s := Relation.ReflTransGen.refl

theorem one {s u : State} (h : Order q s u) : Orders q s u := .single h

theorem trans {s u v : State} (h : Orders q s u) (k : Orders q u v) : Orders q s v := Relation.ReflTransGen.trans h k

theorem ite {s a b : State} {c : Prop} [Decidable c] (ha : Orders q s a) (hb : Orders q s b) : Orders q s (if c then a else b) := by
  split
  · exact ha
  · exact hb

/-- What each order keeps, a chain keeps. -/
theorem keep {P : State → Prop} (h : ∀ {s u}, Order q s u → P s → P u) {s u : State} (ho : Orders q s u) (hs : P s) : P u := by
  induction ho with
  | refl => exact hs
  | tail _ hu ih => exact h hu ih

theorem timed {s u : State} (h : outside u = outside s) : Orders q s u :=
  one (.beside (congrArg (·.rest.stations) h) (congrArg (·.rest.loading) h) (congrArg (·.rest.stop.words) h)
    fun _ hr => (congrArg (·.rest.stop.st.rebuilds) h).trans hr)

/-- The blocks beside the stations and the Stop Controller act. -/
theorem stays {s u : State} (hs : u.stations = s.stations := by rfl) (hl : u.loading = s.loading := by rfl)
    (hc : u.stop = s.stop := by rfl) : Orders q s u :=
  one (.beside hs hl (by rw [hc]) fun _ hr => by rw [hc]; exact hr)

/-- The stop state changes to one that is no rebuild's. -/
theorem turns {s u : State} (hr : u.stop.st.rebuilds = false) (hs : u.stations = s.stations := by rfl)
    (hl : u.loading = s.loading := by rfl) (hw : u.stop.words = s.stop.words := by rfl) : Orders q s u :=
  one (.beside hs hl hw fun _ _ => hr)

theorem eachStation {f : Fin 6 → State → State} (h : ∀ i s, Orders q s (f i s)) (s : State) : Orders q s (eachStation f s) :=
  eachStation_induct (P := Orders q s) (fun i _ hu => hu.trans (h i _)) (refl s)

/-! ### The orders' own -/

theorem setSeq (f : Sequencer → Sequencer) (s : State) : Orders q s (s.setSeq f) := stays

theorem raise (r : CondRecord) (s : State) : Orders q s (raise r s) := stays

theorem setStopCtl (f : StopController → StopController) (s : State) (h : (f s.stop).st = s.stop.st)
    (hw : (f s.stop).words = s.stop.words) : Orders q s (s.setStopCtl f) :=
  one (.beside rfl rfl hw fun _ hr => (congrArg StopSt.rebuilds h).trans hr)

theorem rig {s u : State} {i : Fin 6} {t : Option Nat} (h : Kept false t i s u) : Orders q s u := one (.rig i t h)

theorem startSwitch (i : Fin 6) (cue : Option CueNo) (target fireTime : Option Nat) (mark : Bool) (s : State) :
    Orders q s (startSwitch i cue target fireTime mark s) := rig (t := none) (.startSwitch fun hno => (nomatch hno))

theorem drainReport (s : State) : Orders q s (drainReport s) := by
  unfold Machine.drainReport
  split
  · exact ite (turns rfl) (refl s)
  · exact refl s

theorem handOver (s : State) : Orders q s (handOver s) :=
  trans (setSeq (fun q => { q with ahead := lookAhead s }) s) (eachStation (fun _ _ => rig (t := none) (.takeAhead _ _ _)) _)

theorem clearLatch (s : State) : Orders q s (clearLatch s) := stays

theorem withdrawLatch (s : State) : Orders q s (withdrawLatch s) := by
  unfold Machine.withdrawLatch
  split
  · exact (clearLatch s).trans (handOver _)
  · exact refl s

theorem clockFire (n : CueNo) (b : Option Nat) (r : Option TempoRecord) (v : Option VampBars) (s : State) :
    Orders q s (clockFire n b r v s).1 := by
  unfold Machine.clockFire
  extract_lets m r n
  have hm : Orders q s m := stays
  have hn : Orders q s n := hm.trans (timed (by simp only [n, r, outside_clockVamp, outside_clockTempo, outside_clockBarSet]))
  split
  · exact hn.trans (timed (outside_commitIfDue n))
  · exact hn

theorem fireTarget (tracked : Bool) (c : Cue) (i : Fin 6) (s : State) : Orders q s (fireTarget tracked c i s) := by
  unfold Machine.fireTarget
  split
  · exact startSwitch i _ _ _ _ s
  · split
    · exact startSwitch i _ _ _ _ s
    · exact refl s

theorem fireRigs (tracked : Bool) (c : Cue) (s : State) : Orders q s (fireRigs tracked c s) := by
  unfold Machine.fireRigs
  extract_lets m n
  have hm : Orders q s m := by
    unfold m
    split <;> exact stays
  have hn : Orders q m n := stays
  exact (hm.trans hn).trans (eachStation (fireTarget tracked c) n)

theorem fireCue (c : Cue) (src : FireSource) (s : State) : Orders q s (fireCue c src s).1 := by
  unfold Machine.fireCue
  extract_lets tracked m n p v
  have hm : Orders q s m := stays
  have hn : Orders q s n := hm.trans (fireRigs tracked c m)
  clear_value n
  have hp : Orders q s p := (hn.trans (setSeq _ n)).trans (handOver _)
  clear_value p
  have hv : Orders q p v := stays
  exact (hp.trans hv).trans (clockFire _ _ _ _ v)

theorem takeBeat (r : BeatRec) (s : State) : Orders q s (takeBeat r s) := by
  unfold Machine.takeBeat
  split
  · exact fireCue _ _ s
  · exact refl s

theorem fire (n : CueNo) (src : FireSource) (s : State) : Orders q s (fire n src s) := by
  unfold Machine.fire
  split
  · exact refl s
  · extract_lets r
    split
    · exact (fireCue _ src s).trans (takeBeat _ _)
    · exact fireCue _ src s

theorem enterRun (s : State) : Orders q s (enterRun s) := by
  unfold Machine.enterRun
  extract_lets m
  have hm : Orders q s m := turns rfl
  split
  · exact (hm.trans (setSeq _ m)).trans (fire _ _ _)
  · exact hm

theorem completeHold (p : HeldPosition) (s : State) : Orders q s (completeHold p s) := by
  unfold Machine.completeHold
  dsimp only
  refine turns ?_
  unfold setStop
  dsimp only
  split <;> rfl

theorem afterCommit (r : State × Committed) : Orders q r.1 (afterCommit r) := by
  unfold Machine.afterCommit
  extract_lets m n
  have hm : Orders q r.1 m := by
    unfold m
    split
    · exact completeHold _ r.1
    · exact refl r.1
  have hn : Orders q r.1 n := by
    refine hm.trans (ite ?_ (refl m))
    unfold Machine.countInEnds
    split
    · exact enterRun m
    · exact refl m
  split
  · exact hn.trans (takeBeat _ n)
  · exact hn

theorem committed {s : State} {r : State × Committed} (h : outside r.1 = outside s) : Orders q s (Machine.afterCommit r) :=
  (timed h).trans (afterCommit r)

theorem holdByClock (s : State) : Orders q s (holdByClock s) := by
  unfold Machine.holdByClock
  split
  · exact (timed (outside_armHold s)).trans (turns rfl)
  · exact (timed (outside_freezeCountIn s)).trans (completeHold _ _)
  · exact turns rfl
  · exact turns rfl

theorem takeHold (s : State) : Orders q s (takeHold s).1 := by
  unfold Machine.takeHold
  split
  · exact holdByClock s
  · exact holdByClock s
  all_goals exact refl s

theorem holdCountIn (s : State) : Orders q s (holdCountIn s) := by
  unfold Machine.holdCountIn
  extract_lets bars bar r
  refine ite ?_ ?_
  · exact ((timed (outside_holdStart bar bars s)).trans (enterRun r.1)).trans (afterCommit (Machine.enterRun r.1, r.2))
  · exact trans (turns rfl) (committed (outside_holdStart bar bars _))

theorem resumeCountIn (s : State) : Orders q s (resumeCountIn s) := by
  unfold Machine.resumeCountIn
  extract_lets bars bar m r
  have hm : Orders q s m := setStopCtl _ s rfl rfl
  refine hm.trans (ite ?_ ?_)
  · exact ((timed (outside_resumeStart bar bars m)).trans (enterRun r.1)).trans (afterCommit (Machine.enterRun r.1, r.2))
  · exact trans (turns rfl) (committed (outside_resumeStart bar bars _))

theorem takeGo (src : FireSource) (s : State) : Orders q s (takeGo src s).1 := by
  unfold Machine.takeGo
  split
  · unfold Machine.goInRun
    split
    · exact refl s
    · split
      · exact refl s
      · exact fire _ src s
  · split
    · exact (timed (outside_cancelHold s)).trans (enterRun _)
    · exact holdCountIn s
  · exact holdCountIn s
  · exact holdCountIn s
  · split
    · exact refl s
    · exact resumeCountIn s
  all_goals exact refl s

theorem sequencerStop (s : State) : Orders q s (sequencerStop s) := (setSeq _ s).trans (withdrawLatch _)

theorem stationsStop (s : State) : Orders q s (Machine.eachStation stationStop s) := eachStation (fun _ _ => rig (t := none) (.stationStop _)) s

theorem stopOrders (src : Source) (s : State) : Orders q s (stopOrders src s) := by
  unfold Machine.stopOrders
  extract_lets m n
  have hm : Orders q s m := trans (turns rfl) (timed (outside_videoStop (setStop .stopped s)))
  clear_value m
  have hn : Orders q s n :=
    (((hm.trans (timed (outside_clockStop m))).trans (timed (outside_cancelClicks _))).trans (stationsStop _)).trans
      (sequencerStop _)
  clear_value n
  exact hn.trans (raise _ n)

theorem takeStop (src : Source) (s : State) : Orders q s (takeStop src s) := by
  unfold Machine.takeStop
  split
  case h_5 => exact (stationsStop s).trans (sequencerStop _)
  all_goals exact (setStopCtl _ s rfl rfl).trans (stopOrders src _)

theorem sequencerListChanged (before : Option CueNo) (change : ListChange) (s : State) :
    Orders q s (sequencerListChanged before change s) := by
  unfold Machine.sequencerListChanged
  extract_lets m next n
  have hm : Orders q s m := stays
  have hn : Orders q m n := by
    unfold n
    exact ite (setSeq _ m) (trans (clearLatch m) (setSeq _ _))
  clear_value n
  exact (hm.trans hn).trans (handOver n)

theorem timerExpires (s : State) : Orders q s (timerExpires s) := by
  unfold Machine.timerExpires
  split
  · refine ite ((setSeq _ s).trans (fire _ _ _)) ?_
    split
    · exact setSeq _ s
    · exact setSeq _ s
    · exact refl s
  · exact refl s

theorem attentionRestart (s : State) : Orders q s (attentionRestart s) := stays

theorem restartShow (s : State) : Orders q s (restartShow s) := by
  unfold Machine.restartShow
  extract_lets m n
  have hn : Orders q s n := turns rfl
  clear_value n
  have hu := hn.trans (eachStation (f := stationRestart) (fun _ _ => rig (t := none) (.stationRestart _)) n)
  exact (hu.trans ((setSeq _ _).trans (handOver _))).trans (attentionRestart _)

end Orders

end Sys2Proof.Proofs

namespace Sys2Proof.Proofs

open Sys2Proof Sys2Proof.Machine

/-! ## The stations' promises along a chain of operations -/

theorem station_of_get {s u : State} {k : Fin 6} (h : u.stations[k.val]? = s.stations[k.val]?) : u.station k = s.station k := by
  simp [State.station, List.getD_eq_getElem?_getD, h]

theorem now_station {s : State} {i : Fin 6} (r : Bool) (h : i.val < s.stations.length)
    (hr : r = true → s.stop.st.rebuilds = true) : Now r i s (s.station i) s.stop.account[i.val]? := ⟨h, rfl, fun ht => ⟨hr ht, rfl⟩⟩

section

variable {r : Bool} {t : Option Nat} {i : Fin 6} {s u : State}

theorem sound_same (h : s.StationsSound) (hs : u.stations = s.stations) (hl : u.loading = s.loading) : u.StationsSound := by
  rw [stationsSound_at] at h ⊢
  rw [hs, hl]
  exact h

theorem sound_station (h : s.StationsSound) (hi : i.val < s.stations.length) : StationOk s.loading (s.station i) :=
  stationsSound_at.mp h _ _ (station_get hi)

theorem stationOk_initial (l : Bool) : StationOk l Station.initial := by
  refine ⟨fun _ => rfl, fun _ => initial_bare, ?_, placed_free rfl rfl rfl⟩
  exact Arranged.blank 0 fun k h1 hk => absurd hk (by omega)

/-- Every record of a station keeps its promises, the one of a station that is not there included. -/
theorem sound_any (h : s.StationsSound) (k : Fin 6) : StationOk s.loading (s.station k) := by
  by_cases hk : k.val < s.stations.length
  · exact sound_station h hk
  · have : s.station k = Station.initial := by
      simp [State.station, List.getD_eq_getElem?_getD, List.getElem?_eq_none (Nat.not_lt.mp hk)]
    rw [this]
    exact stationOk_initial _

/-- An operation on station `i` that leaves it a record which keeps its promises. -/
theorem Rigs.sound (h : Rigs i s u) (hi : ∀ x, Now false i s x none → StationOk s.loading x →
    ∃ y, Now false i u y none ∧ StationOk s.loading y) (hs : s.StationsSound) : u.StationsSound := by
  obtain ⟨hload, -⟩ := h.parts
  rw [stationsSound_at, hload]
  intro j st hj
  by_cases hji : j = i.val
  · subst hji
    have hhere : i.val < s.stations.length := h.keep.stations ▸ (List.getElem?_eq_some_iff.mp hj).1
    obtain ⟨y, hy, hok⟩ := hi _ ⟨hhere, rfl, fun hno => (nomatch hno)⟩ (sound_station hs hhere)
    rw [station_get hy.here, hy.station] at hj
    rw [← Option.some.inj hj]
    exact hok
  · exact stationsSound_at.mp hs j st ((h.apart.stations j hji) ▸ hj)

theorem Kept.sound (h : Kept false t i s u) (hs : s.StationsSound) : u.StationsSound :=
  h.rigs.sound (fun x hn hx => by
    obtain ⟨y, b, hy, hc⟩ := h.carried x none hn hx
    exact ⟨y, ⟨hy.here, hy.station, fun hno => (nomatch hno)⟩, hc.ok⟩) hs

/-- What an operation leaves of the links and exclusions. -/
theorem Kept.links (h : Kept false t i s u) (hs : s.StationsSound) (k : Fin 6) :
    ((u.station k).link = .online → (s.station k).link = .online) ∧ (u.station k).excluded = (s.station k).excluded := by
  by_cases hk : k = i ∧ i.val < s.stations.length
  · obtain ⟨rfl, hhere⟩ := hk
    obtain ⟨y, b, hy, hc⟩ := h.carried _ _ (now_station false hhere fun hno => (nomatch hno)) (sound_station hs hhere)
    rw [hy.station]
    exact ⟨hc.link, hc.excluded⟩
  · have hsame : u.station k = s.station k := station_of_get (by
      by_cases hki : k = i
      · subst hki
        have hout := Nat.not_lt.mp fun hhere => hk ⟨rfl, hhere⟩
        rw [List.getElem?_eq_none hout, List.getElem?_eq_none (h.rigs.keep.stations.trans_le hout)]
      · exact h.rigs.apart.stations k.val fun hv => hki (Fin.ext hv))
    rw [hsame]
    exact ⟨id, rfl⟩

/-! ### The words of the stations -/

/-- The stations' promises and their words at the Stop Controller. -/
structure Agreed (s : State) : Prop where
  stations : s.stations.length = 6
  wordCount : s.stop.words.length = 6
  sound : s.StationsSound
  words : ∀ k : Fin 6, ((s.station k).link = .online → (s.words k).online = true) ∧ (s.words k).excluded = (s.station k).excluded

theorem words_same (h : u.stop.words = s.stop.words) (k : Fin 6) : u.words k = s.words k := by
  unfold State.words
  rw [h]

theorem Agreed.same (h : Agreed s) (hs : u.stations = s.stations) (hl : u.loading = s.loading) (hw : u.stop.words = s.stop.words) :
    Agreed u := by
  refine ⟨by rw [hs]; exact h.stations, by rw [hw]; exact h.wordCount, sound_same h.sound hs hl, fun k => ?_⟩
  rw [words_same hw k, station_congr hs k]
  exact h.words k

theorem Kept.agreed (h : Kept false t i s u) (hs : Agreed s) : Agreed u := by
  obtain ⟨-, -, -, -, -, hw, -⟩ := h.rigs.parts
  refine ⟨h.rigs.keep.stations.trans hs.stations, by rw [hw]; exact hs.wordCount, h.sound hs.sound, fun k => ?_⟩
  obtain ⟨hl, he⟩ := h.links hs.sound k
  obtain ⟨hon, hex⟩ := hs.words k
  rw [words_same hw k, he]
  exact ⟨fun h => hon (hl h), hex⟩

namespace Orders

variable {q : Bool}

theorem sound (h : Orders q s u) (hs : s.StationsSound) : u.StationsSound := by
  refine h.keep (P := State.StationsSound) (fun ho hs => ?_) hs
  cases ho with
  | beside h₁ h₂ _ _ => exact sound_same hs h₁ h₂
  | rig i t h => exact h.sound hs

theorem agreed (h : Orders q s u) (hs : Agreed s) : Agreed u := by
  refine h.keep (P := Agreed) (fun ho hs => ?_) hs
  cases ho with
  | beside h₁ h₂ h₃ _ => exact hs.same h₁ h₂ h₃
  | rig i t h => exact h.agreed hs

theorem loading (h : Orders q s u) (l : Bool) (hs : s.loading = l) : u.loading = l := by
  refine h.keep (P := fun s => s.loading = l) (fun ho hs => ?_) hs
  cases ho with
  | beside _ h₂ _ _ => exact h₂.trans hs
  | rig i t h =>
    obtain ⟨hl, -⟩ := h.rigs.parts
    exact hl.trans hs

/-- Orders that start no rebuild leave none where there is none. -/
theorem quiet (h : Orders true s u) (hs : s.stop.st.rebuilds = false) : u.stop.st.rebuilds = false := by
  refine h.keep (P := fun s => s.stop.st.rebuilds = false) (fun ho hs => ?_) hs
  cases ho with
  | beside _ _ _ h₄ => exact h₄ rfl hs
  | rig i t h => exact h.rigs.keep.rebuilds.trans hs

/-- A write beside the stations, whatever the stop state becomes. -/
theorem past (hs : u.stations = s.stations) (hl : u.loading = s.loading) (hw : u.stop.words = s.stop.words) : Orders false s u :=
  one (.beside hs hl hw fun hno => (nomatch hno))

theorem evaluateReady (s : State) : Orders false s (evaluateReady s) := by
  have hkeep := RigsKeep.evaluateReady s
  have p : ∀ {α : Type} (f : State → α), _ := fun f => congrArg f hkeep.rest
  have q : ∀ {α : Type} (f : StopController → α), _ := fun f => congrArg f hkeep.stop
  exact past (RigsApart.evaluateReady_stop s).1 (p (·.loading)) (q (·.words))

theorem freshRebuild (s : State) : Orders false s (freshRebuild s) := by
  cases hres : s.stop.resume with
  | none =>
    unfold Machine.freshRebuild
    rw [hres]
    exact refl s
  | some r =>
    rw [freshRebuild_eq hres, sequencerRebuild_eq]
    have hbegun : Orders false s (rebuildBegun r.cue s) := past rfl rfl rfl
    have hrigs : Orders false (rebuildBegun r.cue s) (Machine.eachStation (stationRebuild r.cue) (rebuildBegun r.cue s)) :=
      eachStation (f := stationRebuild r.cue) (fun i m => startSwitch i _ _ _ _ m) _
    have hled (v : State) : Orders false v (rebuildLed r.cue v) := past rfl rfl rfl
    exact (((hbegun.trans hrigs).trans (hled _)).trans (handOver _)).trans (evaluateReady _)

theorem rebuildAgain (s : State) : Orders false s (rebuildAgain s) := ite (freshRebuild s) (refl s)

end Orders

end

end Sys2Proof.Proofs

namespace Sys2Proof.Proofs

open Sys2Proof Sys2Proof.Machine

/-! ## Stations that come and go, and the end of the power-on load -/

section

variable {r l : Bool} {t : Option Nat} {i : Fin 6} {s u : State} {x y : Station} {a b : Option Account}

/-- A station that is not ONLINE promises a rebuild nothing. -/
theorem Carried.away (hy : StationOk l y) (hl : y.link ≠ .online) (he : y.excluded = x.excluded) : Carried l r t x a y b :=
  ⟨hy, fun h => absurd h hl, he, fun _ _ hs => absurd ((serves_iff y).mp hs).1 hl⟩

namespace Kept

theorem presentRises (s : State) : Kept r t i s (presentRises i s) := by
  unfold Machine.presentRises
  refine ite (fun _ => refl s) fun hno => ?_
  have hoff (hx : StationOk s.loading (s.station i)) : (s.station i).link = .offline :=
    hx.absent (.inl (Bool.eq_false_iff.mpr hno))
  refine ite (fun _ => ?_) fun hl => ?_
  · refine Kept.set _ fun _ _ hx => .away (stationOk_present hx (hoff hx)) ?_ rfl
    rw [show ({ s.station i with present := true } : Station).link = _ from hoff hx]
    exact (nomatch ·)
  · refine Kept.set (fun st => Station.greet { st with present := true }) fun _ _ hx => .away ?_ (nomatch ·) rfl
    exact stationOk_greet (stationOk_present hx (hoff hx)) rfl (Bool.eq_false_iff.mpr hl)
      (by rw [show ({ s.station i with present := true } : Station).link = _ from hoff hx]; exact (nomatch ·))

/-- At the end of the power-on load (R109). -/
theorem greetPresent (hl : s.loading = false) (hno : (s.station i).link ≠ .online) : Kept r t i s (greetPresent i s) := by
  refine Kept.set _ fun _ _ hx => ?_
  cases hp : (s.station i).present with
  | true =>
    rw [if_pos rfl]
    exact .away (stationOk_greet hx hp hl hno) (nomatch ·) rfl
  | false => exact .refl hx

theorem stationOffline (s : State) : Kept r t i s (stationOffline i s) := by
  refine of (.stationOffline i s) fun x a hst h hx => ?_
  unfold Machine.stationOffline
  extract_lets st m n
  have hm : Now r i m { x.emptied with present := false, link := .offline, silence := false, pressure := false } a :=
    h.set fun st => { st.emptied with present := false, link := .offline, silence := false, pressure := false }
  obtain ⟨b, hn⟩ : ∃ b, Now r i n (departed x) b := hm.left .missed
  obtain ⟨hlink, -⟩ := departed_shows (st := x) (.inl rfl)
  have hc : Carried s.loading r t x a (departed x) b :=
    .away stationOk_departed (by rw [hlink]; exact (nomatch ·)) (by rw [departed_eq]; rfl)
  split
  · exact ⟨_, b, hn, hc⟩
  · exact ⟨_, b, hn.fault _ _ _, hc.trans (.beside hc.ok rfl fun _ => rfl)⟩

/-- An included station that is in GREETING asks for its HELLO again. -/
theorem greet (hlink : (s.station i).link = .greeting) : Kept r t i s (s.setStation i Station.greet) := by
  refine Kept.set _ fun _ _ hx => .away (stationOk_greet hx ?_ ?_ (by rw [hlink]; exact (nomatch ·))) (nomatch ·) rfl
  · by_contra hp
    have := hx.absent (.inl (Bool.eq_false_iff.mpr hp))
    exact (nomatch hlink.symm.trans this)
  · by_contra hl
    have := hx.absent (.inr (Bool.not_eq_false _ ▸ hl))
    exact (nomatch hlink.symm.trans this)

end Kept

theorem stations_setAccount (i : Fin 6) (f : Account → Account) (s : State) :
    (setAccount i f s).stations = s.stations ∧ (setAccount i f s).loading = s.loading := by
  obtain ⟨hl, -⟩ := (Rigs.setAccount i f s).parts
  refine ⟨?_, hl⟩
  unfold setAccount
  split
  · exact (RigsApart.evaluateReady_stop _).1
  · rfl

theorem sound_wordOffline (h : s.StationsSound) : (wordOffline i s).StationsSound :=
  sound_same h (stations_setAccount i _ (setWords i _ s)).1 (stations_setAccount i _ (setWords i _ s)).2

theorem sound_excludeStation (h : s.StationsSound) : (excludeStation i s).StationsSound := by
  refine (Rigs.excludeStation i s).sound (fun x hn hx => ⟨leftOut x, ?_, stationOk_leftOut hx⟩) h
  have hy := (hn.set fun st => { st with
    excluded := true, silence := false, selectPlace := none, loadPlace := none, preload := false
    queryDue := false, queryAt := none }).dropped
  rw [switchLeft_eq] at hy
  exact hy

theorem sound_letIn (h : s.StationsSound) (hex : (s.station i).excluded = true) :
    (s.setStation i fun st => { st with excluded := false }).StationsSound := by
  refine (Rigs.setStation i _ s).sound (fun x hn hx => ⟨_, hn.set fun st => { st with excluded := false }, ?_⟩) h
  exact stationOk_letIn hx (hn.station ▸ hex)

theorem Kept.includeStation (ht : r = true → s.stop.st.rebuilds = true
    ∧ (s.seq.current.bind fun n => (trackedPatch s.store.cues n i).map (·.1)) = t) : Kept r t i s (includeStation i s) := by
  unfold Machine.includeStation
  split
  · exact .resync ht
  · next hl => exact .greet hl
  · exact .refl s

theorem sound_stationOnline (h : s.StationsSound) (hl : (s.station i).link ≠ .offline) (n : Nat) :
    (stationOnline i n s).StationsSound := by
  refine (Rigs.stationOnline i n s).sound (fun x hn hx => ?_) h
  have hlink : x.link ≠ .offline := hn.station ▸ hl
  have hm := hn.set (Station.sized n)
  cases hw : x.switch with
  | none => exact ⟨_, hm.unmissed hw .missed, stationOk_sized hx hlink (by rw [← hw]; rfl)⟩
  | some w =>
    have hy := hm.missed (w := w) hw .missed
    exact ⟨_, ⟨hy.here, hy.station, fun hno => (nomatch hno)⟩, stationOk_sized hx hlink rfl⟩

/-- No station is ONLINE. -/
def NoneOnline (s : State) : Prop := ∀ k : Fin 6, (s.station k).link ≠ .online

/-- Where no station is ONLINE, operations on stations leave none that is. -/
theorem noneOnline_kept (h : Kept false t i s u) (hs : s.StationsSound) (hno : NoneOnline s) : NoneOnline u := fun k hk =>
  hno k ((h.links hs k).1 hk)

theorem noneOnline_handOver (hs : s.StationsSound) (hno : NoneOnline s) : NoneOnline (handOver s) := by
  obtain ⟨-, h⟩ := (Orders.handOver (q := true) s).keep (P := fun m => m.StationsSound ∧ NoneOnline m) (fun ho hm => by
    obtain ⟨hm, hno⟩ := hm
    cases ho with
    | beside h₁ h₂ _ _ =>
      refine ⟨sound_same hm h₁ h₂, fun k => ?_⟩
      rw [station_congr h₁ k]
      exact hno k
    | rig i t h => exact ⟨h.sound hm, noneOnline_kept h hm hno⟩) ⟨hs, hno⟩
  exact h

/-- The end of the power-on load greets the stations whose PRESENT is asserted; whatever `P` says of a state, the load keeps. -/
theorem endLoad_promises {P : State → Prop} {q : Bool} (hl : s.loading = true) (a : FlashAnswer)
    (start : ∀ {m : State}, m.stations = s.stations → m.stop = s.stop → m.loading = false → P s → P m)
    (order : ∀ {m v : State}, Orders q m v → m.StationsSound → P m → P v)
    (rig : ∀ {i m v}, Kept false none i m v → m.StationsSound → P m → P v) (hs : s.StationsSound) (hp : P s) :
    P (endLoad a s) ∧ (endLoad a s).StationsSound := by
  unfold endLoad
  rw [if_pos hl]
  extract_lets image m w
  generalize hv : ({ w with loading := false } : State) = v
  have hw : w.stations = s.stations ∧ w.stop = s.stop := by
    unfold w
    cases image <;> exact ⟨rfl, rfl⟩
  have hvs : v.stations = s.stations := by rw [← hv]; exact hw.1
  have hvl : v.loading = false := by rw [← hv]
  have hpv : P v := start hvs (by rw [← hv]; exact hw.2) hvl hp
  have hsv : v.StationsSound := by
    rw [stationsSound_at] at hs ⊢
    rw [hvs, hvl]
    rw [hl] at hs
    exact fun j st hj => stationOk_loadEnds (hs j st hj)
  have hno : NoneOnline v := fun k hk => by
    rw [station_congr hvs k] at hk
    have hoff := (sound_any hs k).absent (.inr hl)
    exact (nomatch hk.symm.trans hoff)
  have hho := Orders.handOver (q := q) v
  have hgoal := eachStation_induct (f := greetPresent) (s := handOver v)
    (P := fun m => P m ∧ m.StationsSound ∧ NoneOnline m ∧ m.loading = false) (fun i m hm => by
      obtain ⟨hpm, hsm, hnm, hlm⟩ := hm
      have hk : Kept false none i m (greetPresent i m) := .greetPresent hlm (hnm i)
      obtain ⟨hload, -⟩ := hk.rigs.parts
      exact ⟨rig hk hsm hpm, hk.sound hsm, noneOnline_kept hk hsm hnm, hload.trans hlm⟩)
    ⟨order hho hsv hpv, hho.sound hsv, noneOnline_handOver hsv hno, hho.loading false hvl⟩
  exact ⟨hgoal.1, hgoal.2.1⟩

end

end Sys2Proof.Proofs

namespace Sys2Proof.Proofs

open Sys2Proof Sys2Proof.Machine

/-! ## What every deed upholds of the stations -/

/-- A promise about the stations and their words that operations on stations and orders keep, those included that change a word. -/
structure Upheld (P : State → Prop) : Prop where
  sound : ∀ {s}, P s → s.StationsSound
  orders : ∀ {s u}, Orders false s u → P s → P u
  departs : ∀ {s} (i : Fin 6), P s → P (takeDeparture i s)
  leaves : ∀ {s} (i : Fin 6), P s → P (wordExcluded i (excludeStation i s))
  enters : ∀ {s} (i : Fin 6), (s.station i).excluded = true → P s →
    P (wordIncluded i (s.setStation i fun st => { st with excluded := false }))
  hello : ∀ {s} (i : Fin 6) (n : Nat), (s.station i).link ≠ .offline → P s →
    P (setWords i (fun w => { w with online := true }) (stationOnline i n s))
  loads : ∀ {s m : State}, m.stations = s.stations → m.stop = s.stop → m.loading = false → s.loading = true → P s → P m

namespace Upheld

variable {P : State → Prop} {s u : State}

theorem rig (h : Upheld P) {i : Fin 6} {t : Option Nat} (hk : Kept false t i s u) (hs : P s) : P u := h.orders (.rig hk) hs

theorem exclude (h : Upheld P) (i : Fin 6) (e : Bool) (hs : P s) : P (changeExcluded i e s) := by
  unfold changeExcluded
  split
  · exact hs
  · next hne =>
    cases e with
    | true => exact h.leaves i hs
    | false => exact h.rig (t := none) (.includeStation fun hno => (nomatch hno)) (h.enters i (by simpa using hne) hs)

theorem takeHello (h : Upheld P) (i : Fin 6) (n : Nat) (hs : P s) : P (takeHello i n s) := by
  unfold Machine.takeHello
  split
  · exact h.rig (t := none) (.minor (fun _ => ⟨by exact rfl, by rfl⟩) s) hs
  · next hno =>
    have hword := h.hello i n (fun hl => hno (.inl hl)) hs
    extract_lets m v
    have hm : P m := by
      unfold m wordOnline
      dsimp only
      split
      · exact hword
      · exact h.orders (.rebuildAgain _) hword
    have hv : P v := h.rig (t := none) (.minor (fun _ => ⟨by exact rfl, by rfl⟩) m) hm
    split
    · exact hv
    · exact h.rig (t := none) (.resync fun hno => (nomatch hno)) hv

theorem minor_beside {f : Station → Station} (hf : Minor f) (x : Station) : Beside x (f x) ∧ (f x).preload = x.preload := by
  have h := hf x
  refine ⟨?_, congrArg (·.preload) h⟩
  unfold Beside
  have p : ∀ {α : Type} (g : Station → α), _ := fun g => congrArg g h
  have e := congrArg (fun y : Station => { y with
    lateOverride := (f x).lateOverride, victim := (f x).victim, preload := (f x).preload, queryDue := (f x).queryDue
    queryAt := (f x).queryAt, lastSwitch := (f x).lastSwitch, hostPins := (f x).hostPins, failed := (f x).failed
    pressure := (f x).pressure, faults := (f x).faults, protoErrors := (f x).protoErrors, sending := (f x).sending
    ahead := (f x).ahead, standbyTarget := (f x).standbyTarget, receiver := (f x).receiver }) h
  exact e

theorem deed (h : Upheld P) (hd : Deed s u) (hs : P s) : P u := by
  have order {v : State} (ho : Orders false s v) : P v := h.orders ho hs
  have rigged {v : State} {i : Fin 6} (hk : Kept false none i s v) : P v := h.rig hk hs
  cases hd with
  | aside h => exact order (.stays h.stations h.loading h.stop)
  | restart hl => exact order (.restartShow s)
  | edit hl change x =>
    have hx : Orders false s { s with store := x } := .stays
    exact order ((hx.trans (.sequencerListChanged _ change _)).trans (.rebuildAgain _))
  | mapEdit hl i p d map =>
    have hx : Orders false s { s with map := map } := .stays
    exact order ((hx.trans (.rig (t := none) (.stationMapChanged p d _))).trans (.rebuildAgain _))
  | setLatch hl n hn =>
    have hx : Orders false s (videoStandby (some n) (s.setSeq fun q => { q with latch := some n })) := .stays
    exact order (hx.trans (.handOver _))
  | withdraw => exact order (.withdrawLatch s)
  | jump hl n hn =>
    have hx : Orders false s (clearLatch (s.setSeq fun q => { q with pointer := some n, timer := .idle })) := .stays
    exact order (hx.trans (.handOver _))
  | handOver => exact order (.handOver s)
  | go hl src => exact order (.takeGo src s)
  | hold hl => exact order (.takeHold s)
  | stop hl src => exact order (.takeStop src s)
  | resume hl bar c hst hc =>
    have hx : Orders false s (s.setStopCtl fun k => { k with resume := some { cue := c.number, bar := resumeBar bar c s } }) :=
      .past rfl rfl rfl
    exact order (hx.trans (.freshRebuild _))
  | channel i x o =>
    have hx : Orders false s (s.setChannel i (writeChannel x o)) := .stays
    exact order (hx.trans (.drainReport _))
  | pulse => exact order (.committed (outside_takePulse s))
  | commit hb => exact order (.committed (outside_commitScheduled s))
  | recommit => exact order (.committed (outside_commitIfDue s))
  | timer => exact order (.timerExpires s)
  | burstStart i =>
    have hx : Orders false s (s.setChannel i fun c => { c with sounding := c.bursts.head?, bursts := c.bursts.tail }) := .stays
    exact order (hx.trans (.drainReport _))
  | burstEnd i => exact order .stays
  | rise i => exact rigged (.presentRises s)
  | fall i =>
    unfold presentFalls
    split
    · exact h.departs i hs
    · exact hs
  | minor i f hf => exact rigged (.minor (minor_beside hf) s)
  | flush hl i => exact rigged (.flushed s)
  | recompute hl i => exact rigged (.recompute false s)
  | reset hl i => exact rigged (.resetStation hl)
  | exclude hl i e => exact h.exclude i e hs
  | hello hl i n => exact h.takeHello i n hs
  | loaded i o ho => exact rigged (.loaded ho)
  | failLoad i kind o ho => exact rigged (.failLoad kind ho)
  | selected i k hk => exact rigged (.selected hk)
  | failSelect i k hk => exact rigged (.failSelect hk)
  | send hl i => exact rigged (.sendNext s)
  | sent i => exact rigged (.frameEnds s)
  | load a hl =>
    exact (endLoad_promises (P := P) hl a (fun h₁ h₂ h₃ hp => h.loads h₁ h₂ h₃ hl hp) (fun ho _ hp => h.orders ho hp)
      (fun hk _ hp => h.rig hk hp) (h.sound hs) hs).1

end Upheld

/-! ### The stations' promises -/

theorem sound_upheld : Upheld State.StationsSound where
  sound := id
  orders ho hs := ho.sound hs
  departs i hs := sound_wordOffline ((Kept.stationOffline (r := false) (t := none) _).sound hs)
  leaves i hs := sound_same (sound_excludeStation hs) (stations_setAccount i _ (setWords i _ _)).1
    (stations_setAccount i _ (setWords i _ _)).2
  enters i hex hs := by
    unfold wordIncluded
    dsimp only
    have hlet := sound_letIn (i := i) hs hex
    split
    · exact sound_same hlet (stations_setAccount i _ (setWords i _ _)).1 (stations_setAccount i _ (setWords i _ _)).2
    · exact hlet
  hello i n hl hs := sound_stationOnline hs hl n
  loads h₁ _ h₃ hl hs := by
    rw [stationsSound_at] at hs ⊢
    rw [h₁, h₃]
    rw [hl] at hs
    exact fun j st hj => stationOk_loadEnds (hs j st hj)

end Sys2Proof.Proofs

namespace Sys2Proof.Proofs

open Sys2Proof Sys2Proof.Machine

/-! ## The words of the stations agree with them -/

section

variable {i : Fin 6} {s m : State}

theorem words_setWords_other {k : Fin 6} (h : k ≠ i) (f : StationWords → StationWords) (s : State) :
    (setWords i f s).words k = s.words k := by
  have hne : i.val ≠ k.val := fun e => h (Fin.ext e.symm)
  simp [State.words, setWords, List.getD_eq_getElem?_getD, hne]

/-- The word about station `i` is given afresh, after an operation on that station. -/
theorem agreed_word (hs : Agreed s) (hrigs : Rigs i s m) (hsound : m.StationsSound) (f : StationWords → StationWords)
    (hown : ((m.station i).link = .online → (f (s.words i)).online = true) ∧ (f (s.words i)).excluded = (m.station i).excluded) :
    Agreed (setWords i f m) := by
  obtain ⟨-, -, -, -, -, hwords, -⟩ := hrigs.parts
  have hcount : m.stop.words.length = 6 := by rw [hwords]; exact hs.wordCount
  refine ⟨hrigs.keep.stations.trans hs.stations, (List.length_modify _ _ _).trans hcount, sound_same hsound rfl rfl, fun k => ?_⟩
  rw [show (setWords i f m).station k = m.station k from rfl]
  by_cases hk : k = i
  · subst hk
    rw [words_setWords hcount, words_same hwords]
    exact hown
  · rw [words_setWords_other hk, words_same hwords,
      station_of_get (hrigs.apart.stations k.val fun hv => hk (Fin.ext hv))]
    exact hs.words k

theorem agreed_account (h : Agreed s) (f : Account → Account) : Agreed (setAccount i f s) := by
  obtain ⟨hst, hl⟩ := stations_setAccount i f s
  obtain ⟨-, -, -, -, -, hw, -⟩ := (Rigs.setAccount i f s).parts
  exact h.same hst hl hw

theorem stationOffline_away (h : s.stations.length = 6) : ((stationOffline i s).station i).link ≠ .online
    ∧ ((stationOffline i s).station i).excluded = (s.station i).excluded := by
  have hlen : (reportEnd i (markOf (s.station i)) .missed s).stations.length = 6 := by rw [stations_reportEnd, h]
  have away (y : Station) (hy : y = departed (s.station i) ∨ ∃ f, y = faulted f (departed (s.station i))) :
      y.link ≠ .online ∧ y.excluded = (s.station i).excluded := by
    obtain ⟨hlink, -⟩ := departed_shows hy
    refine ⟨by rw [hlink]; exact (nomatch ·), ?_⟩
    obtain rfl | ⟨f, rfl⟩ := hy <;> (rw [departed_eq]; rfl)
  cases hx : (s.station i).excluded with
  | true =>
    rw [stationOffline_excluded h hx, station_as hlen, ← hx]
    exact away _ (.inl rfl)
  | false =>
    rw [stationOffline_counted h hx, station_raise, station_as hlen, ← hx]
    exact away _ (.inr ⟨_, rfl⟩)

theorem agreed_departs (hs : Agreed s) : Agreed (takeDeparture i s) := by
  have hm : Agreed (stationOffline i s) := (Kept.stationOffline (r := false) (t := none) s).agreed hs
  obtain ⟨hlink, hex⟩ := stationOffline_away (i := i) hs.stations
  refine agreed_account (agreed_word hs (.stationOffline i s) hm.sound _ ⟨fun hon => absurd hon hlink, ?_⟩) _
  exact (hs.words i).2.trans hex.symm

theorem agreed_leaves (hs : Agreed s) : Agreed (wordExcluded i (excludeStation i s)) := by
  have hst : (excludeStation i s).station i = leftOut (s.station i) := by
    rw [excludeStation_eq hs.stations, station_as hs.stations]
  refine agreed_account (agreed_word hs (.excludeStation i s) (sound_excludeStation hs.sound) _ ?_) _
  rw [hst]
  exact ⟨fun hon => (hs.words i).1 hon, rfl⟩

theorem agreed_enters (hex : (s.station i).excluded = true) (hs : Agreed s) :
    Agreed (wordIncluded i (s.setStation i fun st => { st with excluded := false })) := by
  have hst := station_setStation_same (s := s) i (fun st => { st with excluded := false }) hs.stations
  have hword : Agreed (setWords i (fun w => { w with excluded := false }) (s.setStation i fun st => { st with excluded := false })) := by
    refine agreed_word hs (.setStation i _ s) (sound_letIn hs.sound hex) _ ?_
    rw [hst]
    exact ⟨fun hon => (hs.words i).1 hon, rfl⟩
  unfold wordIncluded
  dsimp only
  split
  · exact agreed_account hword _
  · exact hword

theorem stationOnline_excluded (h : s.stations.length = 6) (n : Nat) :
    ((stationOnline i n s).station i).excluded = (s.station i).excluded := by
  have e := stationOnline_as (i := i) h n (s.station i)
  rw [stationAs_self] at e
  rw [e, station_as]
  · rfl
  · unfold helloBeside
    split
    · exact (congrArg List.length (stations_reportEnd i _ _ s)).trans h
    · exact h

theorem agreed_hello (n : Nat) (hl : (s.station i).link ≠ .offline) (hs : Agreed s) :
    Agreed (setWords i (fun w => { w with online := true }) (stationOnline i n s)) :=
  agreed_word hs (.stationOnline i n s) (sound_stationOnline hs.sound hl n) _
    ⟨fun _ => rfl, (hs.words i).2.trans (stationOnline_excluded hs.stations n).symm⟩

end

theorem agreed_upheld : Upheld Agreed where
  sound hs := hs.sound
  orders ho hs := ho.agreed hs
  departs _ hs := agreed_departs hs
  leaves _ hs := agreed_leaves hs
  enters _ hex hs := agreed_enters hex hs
  hello _ n hl hs := agreed_hello n hl hs
  loads {s m} h₁ h₂ h₃ hl hs := by
    refine ⟨by rw [h₁]; exact hs.stations, by rw [h₂]; exact hs.wordCount, sound_upheld.loads h₁ h₂ h₃ hl hs.sound, fun k => ?_⟩
    rw [station_congr h₁ k, words_same (congrArg (·.words) h₂) k]
    exact hs.words k

end Sys2Proof.Proofs

namespace Sys2Proof.Proofs

open Sys2Proof Sys2Proof.Machine

/-! ## What a rebuild promises of the stations (R166 to R168) -/

/-- The patch tracked for station `i` at the current cue. -/
def trackedAt (s : State) (i : Fin 6) : Option Nat := s.seq.current.bind fun n => (trackedPatch s.store.cues n i).map (·.1)

/-- `ReadySound` but for the words of the stations. -/
structure Prepared (s : State) : Prop where
  unloaded : s.loading = true → s.stop.st.rebuilds = false
  rebuild : s.RebuildSound
  ready : s.stop.st.rebuilds = true → ∀ i : Fin 6, Readied (trackedAt s i) s.stop.account[i.val]? (s.station i)

theorem readySound_iff {s : State} : s.ReadySound ↔ (∀ k : Fin 6, ((s.station k).link = .online → (s.words k).online = true)
    ∧ (s.words k).excluded = (s.station k).excluded) ∧ Prepared s := by
  constructor
  · rintro ⟨hl, hr, hall⟩
    refine ⟨fun k => ⟨(hall k).1, (hall k).2.1⟩, hl, hr, fun hreb i hs => ?_⟩
    obtain ⟨-, r, -, hcue⟩ := hr hreb
    obtain ⟨-, -, hready⟩ := hall i
    unfold trackedAt
    rw [hcue]
    exact hready hreb hs r.cue hcue
  · rintro ⟨hwords, hl, hr, hready⟩
    refine ⟨hl, hr, fun i => ⟨(hwords i).1, (hwords i).2, fun hreb hs n hn => ?_⟩⟩
    have := hready hreb i hs
    unfold trackedAt at this
    rw [show s.seq.current = some n from hn] at this
    exact this

section

variable {r : Bool} {t : Option Nat} {i j : Fin 6} {s u v : State} {x : Station} {a : Option Account}

theorem prepared_quiet (h : s.stop.st.rebuilds = false) : Prepared s :=
  ⟨fun _ => h, fun hr => (nomatch h.symm.trans hr), fun hr => (nomatch h.symm.trans hr)⟩

theorem prepared_beside (h : Prepared s) (hs : u.stations = s.stations) (hl : u.loading = s.loading)
    (hc : u.store.cues = s.store.cues) (hq : u.seq.current = s.seq.current)
    (hst : u.stop.st = s.stop.st ∧ u.stop.account = s.stop.account ∧ u.stop.resume = s.stop.resume) : Prepared u := by
  obtain ⟨hst, ha, hres⟩ := hst
  obtain ⟨h1, h2, h3⟩ := h
  refine ⟨fun hload => by rw [hst]; exact h1 (hl ▸ hload), ?_, fun hreb k => ?_⟩
  · unfold State.RebuildSound
    rw [hst, ha, hres, hq]
    exact h2
  · rw [hst] at hreb
    unfold trackedAt
    rw [hq, hc, ha, station_congr hs k]
    exact h3 hreb k

/-! ### An operation on one station -/

/-- An operation on station `i` with what the Stop Controller is told of it. -/
structure Touches (i : Fin 6) (s u : State) : Prop where
  apart : RigsApart i s u
  loading : u.loading = s.loading
  cues : u.store.cues = s.store.cues
  current : u.seq.current = s.seq.current
  resume : u.stop.resume = s.stop.resume
  rebuilds : u.stop.st.rebuilds = s.stop.st.rebuilds

theorem Touches.trans (h : Touches i s u) (k : Touches i u v) : Touches i s v :=
  ⟨h.apart.trans k.apart, k.loading.trans h.loading, k.cues.trans h.cues, k.current.trans h.current, k.resume.trans h.resume,
    k.rebuilds.trans h.rebuilds⟩

theorem Rigs.touches (h : Rigs i s u) : Touches i s u := by
  obtain ⟨hl, hq, hs, -, -, -, hr⟩ := h.parts
  exact ⟨h.apart, hl, congrArg (·.cues) hs, congrArg (·.current) hq, hr, h.keep.rebuilds⟩

theorem touches_setWords (f : StationWords → StationWords) (s : State) : Touches i s (setWords i f s) :=
  ⟨⟨fun _ _ => rfl, fun _ _ => rfl, id⟩, rfl, rfl, rfl, rfl, rfl⟩

theorem Touches.tracked (h : Touches i s u) (k : Fin 6) : trackedAt u k = trackedAt s k := by
  unfold trackedAt
  rw [h.cues, h.current]

/-- The promises of the others stay; those of the station itself are to be shown. -/
theorem Touches.prepared (h : Touches i s u) (hs : Prepared s)
    (hown : u.stop.st.rebuilds = true → Readied (trackedAt u i) u.stop.account[i.val]? (u.station i)) : Prepared u := by
  refine ⟨fun hl => h.rebuilds.trans (hs.unloaded (h.loading ▸ hl)), h.apart.rebuild hs.rebuild, fun hreb k => ?_⟩
  by_cases hk : k = i
  · subst hk
    exact hown hreb
  · have hv : k.val ≠ i.val := fun hv => hk (Fin.ext hv)
    rw [h.tracked k, h.apart.account k.val hv, station_of_get (h.apart.stations k.val hv)]
    exact hs.ready (h.rebuilds ▸ hreb) k

/-- A station that does not serve promises a rebuild nothing. -/
theorem readied_idle (h : x.serves = false) : Readied t a x := fun hs => (nomatch h.symm.trans hs)

theorem not_serves_of_link (h : x.link ≠ .online) : x.serves = false :=
  Bool.eq_false_iff.mpr fun hs => h ((serves_iff x).mp hs).1

theorem not_serves_of_excluded (h : x.excluded = true) : x.serves = false :=
  Bool.eq_false_iff.mpr fun hs => (nomatch h.symm.trans ((serves_iff x).mp hs).2)

theorem Kept.prepared (h : ∀ r t, (r = true → s.stop.st.rebuilds = true ∧ t = trackedAt s i) → Kept r t i s u) (hg : Agreed s)
    (hs : Prepared s) : Prepared u := by
  have hrigs := (h false none fun hno => (nomatch hno)).rigs
  refine hrigs.touches.prepared hs fun hreb => ?_
  have hreb' : s.stop.st.rebuilds = true := hrigs.touches.rebuilds ▸ hreb
  have hi : i.val < s.stations.length := by
    rw [hg.stations]
    exact i.isLt
  obtain ⟨y, b, hy, hc⟩ := (h true (trackedAt s i) fun _ => ⟨hreb', rfl⟩).carried _ _ (now_station true hi fun _ => hreb')
    (sound_station hg.sound hi)
  obtain ⟨-, hb⟩ := hy.entry rfl
  rw [hrigs.touches.tracked, hb, hy.station]
  exact hc.ready rfl (hs.ready hreb' i)

/-! ### The hand-over -/

theorem prepared_handOver (hg : Agreed s) (hs : Prepared s) : Prepared (handOver s) := by
  unfold handOver
  extract_lets m
  have hm : Agreed m ∧ Prepared m := ⟨hg.same rfl rfl rfl, prepared_beside hs rfl rfl rfl rfl ⟨rfl, rfl, rfl⟩⟩
  obtain ⟨-, h⟩ := eachStation_induct (f := takeAhead m.seq.ahead m.seq.latch) (P := fun m => Agreed m ∧ Prepared m)
    (fun i v ⟨hg, hs⟩ => ⟨(Kept.takeAhead (r := false) (t := none) _ _ v).agreed hg,
      Kept.prepared (fun _ _ _ => .takeAhead _ _ v) hg hs⟩) hm
  exact h

/-! ### A fresh rebuild -/

theorem Now.other (h : Now r i s x a) (hij : i ≠ j) (hr : Rigs j s u) : Now r i u x a := by
  have hv : i.val ≠ j.val := fun hv => hij (Fin.ext hv)
  refine ⟨hr.keep.stations ▸ h.here, (station_of_get (hr.apart.stations i.val hv)).trans h.station, fun ht => ?_⟩
  obtain ⟨hreb, ha⟩ := h.entry ht
  exact ⟨hr.keep.rebuilds.trans hreb, (hr.apart.account i.val hv).trans ha⟩

/-- Station `i` keeps its promises, with those of the rebuild for the tracked patch `t`. -/
def ReadyAt (t : Option Nat) (i : Fin 6) (s : State) : Prop :=
  ∃ y b, Now true i s y b ∧ StationOk s.loading y ∧ Readied t b y

theorem ReadyAt.other (h : ReadyAt t i s) (hij : i ≠ j) (hr : Rigs j s u) : ReadyAt t i u := by
  obtain ⟨y, b, hy, hok, hready⟩ := h
  obtain ⟨hl, -⟩ := hr.parts
  exact ⟨y, b, hy.other hij hr, hl ▸ hok, hready⟩

theorem ReadyAt.same (h : ReadyAt t i s) (hs : u.stations = s.stations) (hl : u.loading = s.loading)
    (hc : u.stop = s.stop) : ReadyAt t i u := by
  obtain ⟨y, b, hy, hok, hready⟩ := h
  exact ⟨y, b, hy.same hs (by rw [hc]) (by rw [hc]), hl ▸ hok, hready⟩

/-- The first entry of a station that serves is PENDING. -/
theorem counted_first (h : (s.station i).link = .online → (s.words i).online = true)
    (he : (s.words i).excluded = (s.station i).excluded) : Counted t (some (accountOf (s.words i))) (s.station i) := fun hs => by
  obtain ⟨hon, hex⟩ := (serves_iff _).mp hs
  have hw : accountOf (s.words i) = .waiting := by
    unfold accountOf
    rw [h hon, he, hex]
    rfl
  rw [hw]
  exact ⟨(nomatch ·), (nomatch ·)⟩

/-- The rebuild order on each station. -/
theorem rebuilt_station {n : CueNo} {b : State} (hg : Agreed b) (hst : b.stop.st.rebuilds = true)
    (ha : b.stop.account[i.val]? = some (accountOf (b.words i))) :
    ReadyAt ((trackedPatch b.store.cues n i).map (·.1)) i (eachStation (stationRebuild n) b) := by
  have hi : i.val < b.stations.length := by
    rw [hg.stations]
    exact i.isLt
  have hnow : Now true i b (b.station i) (some (accountOf (b.words i))) := ⟨hi, rfl, fun _ => ⟨hst, ha⟩⟩
  have hcounted := counted_first (s := b) (t := (trackedPatch b.store.cues n i).map (·.1)) (hg.words i).1 (hg.words i).2
  have hok := sound_station hg.sound hi
  generalize b.station i = x at *
  generalize some (accountOf (b.words i)) = a at *
  refine eachStation_at (P := fun m => Now true i m x a ∧ m.loading = b.loading ∧ m.store = b.store)
    (Q := ReadyAt ((trackedPatch b.store.cues n i).map (·.1)) i) i ?_ ?_ ?_ ⟨hnow, rfl, rfl⟩
  · rintro j m hij ⟨hm, hl, hs⟩
    have hr : Rigs j m (stationRebuild n j m) := .startSwitch j _ _ _ _ m
    obtain ⟨hl', -, hs', -⟩ := hr.parts
    exact ⟨hm.other hij hr, hl'.trans hl, hs'.trans hs⟩
  · rintro m ⟨hm, hl, hs⟩
    unfold stationRebuild
    rw [hs]
    cases hserves : x.serves with
    | false =>
      rw [startSwitch_idle (by rw [hm.station]; exact hserves)]
      exact ⟨x, a, hm, hl ▸ hok, readied_idle hserves⟩
    | true =>
      obtain ⟨y, c, hy, hstarted⟩ := hm.started (cue := some n) (fireTime := none) (mark := true)
        (target := (trackedPatch b.store.cues n i).map (·.1)) (t := (trackedPatch b.store.cues n i).map (·.1)) hok hserves
        fun _ => ⟨rfl, rfl⟩
      obtain ⟨hload, -⟩ := (Rigs.startSwitch i (some n) ((trackedPatch b.store.cues n i).map (·.1)) none true m).parts
      exact ⟨y, c, hy, by rw [hload, hl]; exact hstarted.ok, hstarted.ready rfl hcounted⟩
  · intro j m hij hm
    exact hm.other hij (.startSwitch j _ _ _ _ m)

/-- The hand-over at each station. -/
theorem readyAt_handOver (h : ReadyAt t i s) : ReadyAt t i (handOver s) := by
  unfold handOver
  extract_lets m
  have hm : ReadyAt t i m := h.same rfl rfl rfl
  refine eachStation_at (P := ReadyAt t i) (Q := ReadyAt t i) i ?_ ?_ ?_ hm
  · exact fun hij h => h.other hij (.takeAhead _ _ _ _)
  · rintro v ⟨y, b, hy, hok, hready⟩
    have hk : Kept true t i v (takeAhead m.seq.ahead m.seq.latch i v) := .takeAhead _ _ v
    obtain ⟨z, c, hz, hc⟩ := hk.carried y b hy hok
    obtain ⟨hl, -⟩ := hk.rigs.parts
    exact ⟨z, c, hz, hl ▸ hc.ok, hc.ready rfl hready⟩
  · exact fun hij h => h.other hij (.takeAhead _ _ _ _)

/-- What orders to all stations leave of the state. -/
theorem eachStation_parts {f : Fin 6 → State → State} (hf : ∀ i s, Rigs i s (f i s)) (s : State) :
    (eachStation f s).seq = s.seq ∧ (eachStation f s).store = s.store ∧ (eachStation f s).stop.resume = s.stop.resume
      ∧ (eachStation f s).stop.st.rebuilds = s.stop.st.rebuilds := by
  refine eachStation_induct (P := fun m => m.seq = s.seq ∧ m.store = s.store ∧ m.stop.resume = s.stop.resume
    ∧ m.stop.st.rebuilds = s.stop.st.rebuilds) (fun i m ⟨h₁, h₂, h₃, h₄⟩ => ?_) ⟨rfl, rfl, rfl, rfl⟩
  obtain ⟨-, hq, hs, -, -, -, hr⟩ := (hf i m).parts
  exact ⟨hq.trans h₁, hs.trans h₂, hr.trans h₃, (hf i m).keep.rebuilds.trans h₄⟩

theorem handOver_parts (s : State) : (handOver s).seq.current = s.seq.current ∧ (handOver s).store = s.store
    ∧ (handOver s).stop.resume = s.stop.resume ∧ (handOver s).stop.st.rebuilds = s.stop.st.rebuilds := by
  unfold handOver
  extract_lets m
  obtain ⟨h₁, h₂, h₃, h₄⟩ := eachStation_parts (f := takeAhead m.seq.ahead m.seq.latch) (Rigs.takeAhead _ _) m
  exact ⟨congrArg (·.current) h₁, h₂, h₃, h₄⟩

/-- Readiness evaluated, where every station keeps its promises. -/
theorem evaluateReady_prepared {p : ResumePoint} (hl : s.loading = false) (hr : s.stop.st.rebuilds = true)
    (hres : s.stop.resume = some p) (hcue : s.seq.current = some p.cue)
    (hall : ∀ k, ReadyAt ((trackedPatch s.store.cues p.cue k).map (·.1)) k s) : Prepared (evaluateReady s) := by
  have hkeep := RigsKeep.evaluateReady s
  have f : ∀ {α : Type} (f : State → α), _ := fun f => congrArg f hkeep.rest
  have hseq : (evaluateReady s).seq = s.seq := f (·.seq)
  have hstore : (evaluateReady s).store = s.store := f (·.store)
  have hload : (evaluateReady s).loading = s.loading := f (·.loading)
  obtain ⟨hstations, haccount⟩ := RigsApart.evaluateReady_stop s
  refine ⟨fun hno => (nomatch hl.symm.trans (hload.symm.trans hno)), RigsApart.evaluateReady_rebuildSound hr hres hcue, fun _ k => ?_⟩
  obtain ⟨y, b, hy, -, hready⟩ := hall k
  obtain ⟨-, hb⟩ := hy.entry rfl
  unfold trackedAt
  rw [hseq, hcue, hstore, haccount, hb, station_congr hstations k, hy.station]
  exact hready

/-- A fresh rebuild makes the promises of a rebuild anew (R166). -/
theorem freshRebuild_prepared {p : ResumePoint} (hg : Agreed s) (hl : s.loading = false) (hres : s.stop.resume = some p) :
    Prepared (freshRebuild s) := by
  rw [freshRebuild_eq hres, sequencerRebuild_eq]
  have hb : Agreed (rebuildBegun p.cue s) := hg.same rfl rfl rfl
  have haccount (k : Fin 6) : (rebuildBegun p.cue s).stop.account[k.val]? = some (accountOf ((rebuildBegun p.cue s).words k)) := by
    have hk : k.val < s.stop.words.length := by
      rw [hg.wordCount]
      exact k.isLt
    change (s.stop.words.map accountOf)[k.val]? = some (accountOf (s.words k))
    simp [State.words, List.getD_eq_getElem?_getD, List.getElem?_eq_getElem hk]
  have hbl : (rebuildBegun p.cue s).loading = false := hl
  have hbr : (rebuildBegun p.cue s).stop.resume = some p := hres
  have hbst : (rebuildBegun p.cue s).stop.st.rebuilds = true := rfl
  generalize rebuildBegun p.cue s = b at *
  have hrig (i : Fin 6) (m : State) : Rigs i m (stationRebuild p.cue i m) := .startSwitch i _ _ _ _ m
  obtain ⟨-, hstore, hresume, hreb⟩ := eachStation_parts hrig b
  have hload := (Orders.eachStation (q := false) (f := stationRebuild p.cue) (fun i m => .startSwitch i _ _ _ _ m) b).loading false hbl
  have hready (k : Fin 6) := rebuilt_station (n := p.cue) hb hbst (haccount k)
  generalize eachStation (stationRebuild p.cue) b = v at *
  have hled (k : Fin 6) : ReadyAt ((trackedPatch b.store.cues p.cue k).map (·.1)) k (rebuildLed p.cue v) := (hready k).same rfl rfl rfl
  have hls : (rebuildLed p.cue v).store = b.store := hstore
  have hlr : (rebuildLed p.cue v).stop.resume = some p := hresume.trans hbr
  have hlst : (rebuildLed p.cue v).stop.st.rebuilds = true := hreb.trans hbst
  have hlc : (rebuildLed p.cue v).seq.current = some p.cue := rfl
  have hll : (rebuildLed p.cue v).loading = false := hload
  generalize rebuildLed p.cue v = w at *
  obtain ⟨h₁, h₂, h₃, h₄⟩ := handOver_parts w
  refine evaluateReady_prepared ((Orders.handOver (q := false) w).loading false hll) (h₄.trans hlst) (h₃.trans hlr) (h₁.trans hlc)
    fun k => ?_
  rw [h₂, hls]
  exact readyAt_handOver (hled k)

theorem rebuildAgain_prepared (hg : Agreed s) (hl : s.loading = false) (hres : s.stop.st.rebuilds = true → ∃ p, s.stop.resume = some p) :
    Prepared (rebuildAgain s) := by
  unfold rebuildAgain
  split
  · next h =>
    obtain ⟨p, hp⟩ := hres h
    exact freshRebuild_prepared hg hl hp
  · next h => exact prepared_quiet (Bool.eq_false_iff.mpr h)

end

end Sys2Proof.Proofs

namespace Sys2Proof.Proofs

open Sys2Proof Sys2Proof.Machine

/-! ## The orders of a show in a rebuild

In REBUILDING and READY most orders of a running show are refused or leave the stations alone; the others end the rebuild. -/

section

variable {s u : State}

/-- Where no rebuild goes on, orders that start none leave nothing to promise. -/
theorem Orders.prepared (h : Orders true s u) (hs : s.stop.st.rebuilds = false) : Prepared u := prepared_quiet (h.quiet hs)

theorem prepared_outside (h : outside u = outside s) (hs : Prepared s) : Prepared u := by
  have p : ∀ {α : Type} (f : State → α), f (outside u).rest = f (outside s).rest := fun f => congrArg (fun o => f o.rest) h
  exact prepared_beside hs (p (·.stations)) (p (·.loading)) (p (·.store.cues)) (p (·.seq.current))
    ⟨p (·.stop.st), p (·.stop.account), p (·.stop.resume)⟩

theorem countInEnds_rebuilds (h : s.stop.st.rebuilds = true) : countInEnds s = s := by
  unfold countInEnds
  split
  · next hst => rw [hst] at h; exact (nomatch h)
  · rfl

theorem takeBeat_rebuilds (r : BeatRec) (h : s.stop.st.rebuilds = true) : takeBeat r s = s := by
  have hf : ¬ s.stop.st.fires = true := by
    revert h
    cases s.stop.st <;> simp [StopSt.rebuilds, StopSt.fires]
  unfold takeBeat atBarCue
  rw [if_neg fun hp => hf hp.2]

theorem drainReport_rebuilds (h : s.stop.st.rebuilds = true) : drainReport s = s := by
  unfold drainReport
  split
  · next hst => rw [hst] at h; exact (nomatch h)
  · rfl

theorem setStop_quiet {st : StopSt} (h : st.rebuilds = false) (s : State) : (setStop st s).stop.st.rebuilds = false := h

theorem completeHold_quiet (p : HeldPosition) (s : State) : (completeHold p s).stop.st.rebuilds = false := by
  change (if _ then StopSt.held else StopSt.holding .draining).rebuilds = false
  split <;> rfl

theorem enterRun_quiet (s : State) : (enterRun s).stop.st.rebuilds = false := by
  unfold enterRun
  extract_lets m
  have hm : m.stop.st.rebuilds = false := rfl
  split
  · exact ((Orders.setSeq _ m).trans (Orders.fire _ _ _)).quiet hm
  · exact hm

theorem resumeCountIn_quiet (s : State) : (resumeCountIn s).stop.st.rebuilds = false := by
  unfold resumeCountIn
  extract_lets bars bar m r
  split
  · exact (Orders.afterCommit (enterRun r.1, r.2)).quiet (enterRun_quiet r.1)
  · have hm : (setStop (.countIn .resume) m).stop.st.rebuilds = false := rfl
    exact (Orders.committed (outside_resumeStart bar bars _)).quiet hm

theorem stopOrders_orders (src : Source) (s : State) : Orders true (setStop .stopped s) (stopOrders src s) := by
  unfold stopOrders
  extract_lets m n
  have hm : Orders true (setStop .stopped s) m := .timed (outside_videoStop _)
  clear_value m
  have hn : Orders true m n := (((Orders.timed (outside_clockStop m)).trans (.timed (outside_cancelClicks _))).trans
    (.stationsStop _)).trans (.sequencerStop _)
  clear_value n
  exact (hm.trans hn).trans (.raise _ n)

theorem stopOrders_quiet (src : Source) (s : State) : (stopOrders src s).stop.st.rebuilds = false :=
  (stopOrders_orders src s).quiet (setStop_quiet rfl s)

theorem restartShow_orders (s : State) : Orders true (stopRestart s) (restartShow s) := by
  unfold restartShow
  extract_lets m n
  have hn : Orders true (stopRestart s) n := .stays
  clear_value n
  have hrigs : Orders true n (eachStation stationRestart n) :=
    .eachStation (f := stationRestart) (fun _ _ => .rig (t := none) (.stationRestart _)) n
  exact (((hn.trans hrigs).trans (.setSeq _ _)).trans (.handOver _)).trans (.attentionRestart _)

theorem restartShow_quiet (s : State) : (restartShow s).stop.st.rebuilds = false :=
  (restartShow_orders s).quiet (setStop_quiet rfl _)

/-- The reports of a commit (R156). -/
theorem prepared_afterCommit {r : State × Committed} (h : outside r.1 = outside s) (hs : Prepared s) : Prepared (afterCommit r) := by
  have hr : Prepared r.1 := prepared_outside h hs
  cases hreb : r.1.stop.st.rebuilds with
  | false => exact (Orders.afterCommit r).prepared hreb
  | true =>
    obtain ⟨m, c⟩ := r
    cases hc : c.held with
    | some p =>
      have he : afterCommit (m, c) = afterCommit (completeHold p m, { c with held := none }) := by
        unfold afterCommit
        rw [hc]
      rw [he]
      exact (Orders.afterCommit _).prepared (completeHold_quiet p m)
    | none =>
      have he : afterCommit (m, c) = m := by
        unfold afterCommit
        simp only [hc, countInEnds_rebuilds hreb, ite_self, takeBeat_rebuilds _ hreb]
        split <;> rfl
      rw [he]
      exact hr

/-- Orders that leave a rebuild as it is, or end it. -/
theorem prepared_orders (h : Orders true s u) (hs : s.stop.st.rebuilds = true → Prepared u) : Prepared u := by
  cases hreb : s.stop.st.rebuilds with
  | false => exact h.prepared hreb
  | true => exact hs hreb

theorem prepared_takeGo (src : FireSource) (hs : Prepared s) : Prepared (takeGo src s).1 := by
  refine prepared_orders (.takeGo src s) fun hreb => ?_
  unfold takeGo
  split
  case h_5 =>
    split
    · exact hs
    · exact prepared_quiet (resumeCountIn_quiet s)
  case h_6 | h_7 | h_8 => exact hs
  all_goals
    next hst =>
      rw [hst] at hreb
      exact (nomatch hreb)

theorem prepared_takeHold (hs : Prepared s) : Prepared (takeHold s).1 := by
  refine prepared_orders (.takeHold s) fun hreb => ?_
  unfold takeHold
  split
  case h_1 hst | h_2 hst =>
    rw [hst] at hreb
    exact (nomatch hreb)
  all_goals exact hs

theorem prepared_takeStop (src : Source) (s : State) : Prepared (takeStop src s) := by
  refine prepared_orders (.takeStop src s) fun hreb => ?_
  unfold takeStop
  split
  case h_5 hst =>
    rw [hst] at hreb
    exact (nomatch hreb)
  all_goals exact prepared_quiet (stopOrders_quiet src _)

theorem prepared_timerExpires (hs : Prepared s) : Prepared (timerExpires s) := by
  refine prepared_orders (.timerExpires s) fun hreb => ?_
  have he : timerExpires s = s := by
    unfold timerExpires
    revert hreb
    cases s.stop.st <;> simp [StopSt.rebuilds, StopSt.fires] <;> split <;> rfl
  rw [he]
  exact hs

theorem prepared_drainReport (hs : Prepared s) : Prepared (drainReport s) :=
  prepared_orders (.drainReport s) fun hreb => by
    rw [drainReport_rebuilds hreb]
    exact hs

/-! ### The list -/

theorem sequencerListChanged_parts (before : Option CueNo) (change : ListChange) (s : State) :
    (sequencerListChanged before change s).stop.resume = s.stop.resume
      ∧ (sequencerListChanged before change s).stop.st.rebuilds = s.stop.st.rebuilds := by
  unfold sequencerListChanged
  extract_lets m next n
  have hn : n.stop = s.stop := by
    unfold n
    split <;> rfl
  obtain ⟨-, -, hres, hreb⟩ := handOver_parts n
  exact ⟨hres.trans (congrArg (·.resume) hn), hreb.trans (congrArg (·.st.rebuilds) hn)⟩

/-- A fresh rebuild behind operations that leave the resume point. -/
theorem rebuildAgain_after (hu : Agreed u) (hl : u.loading = false) (hs : Prepared s) (hres : u.stop.resume = s.stop.resume)
    (hreb : u.stop.st.rebuilds = s.stop.st.rebuilds) : Prepared (rebuildAgain u) :=
  rebuildAgain_prepared hu hl fun h => by
    obtain ⟨-, p, hp, -⟩ := hs.rebuild (hreb ▸ h)
    exact ⟨p, hres.trans hp⟩

theorem prepared_listChanged (hl : s.loading = false) (before : Option CueNo) (change : ListChange) (x : CueStore) (hg : Agreed s)
    (hs : Prepared s) : Prepared (listChanged before change { s with store := x }) := by
  have hx : Agreed { s with store := x } := hg.same rfl rfl rfl
  have hlx : ({ s with store := x } : State).loading = false := hl
  have hresx : ({ s with store := x } : State).stop = s.stop := rfl
  generalize ({ s with store := x } : State) = v at *
  have ho : Orders false v (sequencerListChanged before change v) := .sequencerListChanged before change v
  obtain ⟨hres, hreb⟩ := sequencerListChanged_parts before change v
  exact rebuildAgain_after (ho.agreed hx) (ho.loading false hlx) hs (hres.trans (congrArg (·.resume) hresx))
    (hreb.trans (congrArg (·.st.rebuilds) hresx))

theorem prepared_mapChanged (hl : s.loading = false) (i : Fin 6) (p : Nat) (d : Bool) (map : List MapEntry) (hg : Agreed s)
    (hs : Prepared s) : Prepared (mapChanged i p d { s with map := map }) := by
  have hx : Agreed { s with map := map } := hg.same rfl rfl rfl
  have hlx : ({ s with map := map } : State).loading = false := hl
  have hresx : ({ s with map := map } : State).stop = s.stop := rfl
  generalize ({ s with map := map } : State) = v at *
  have hk : Kept false none i v (stationMapChanged i p d v) := .stationMapChanged p d v
  obtain ⟨hload, -, -, -, -, -, hres⟩ := hk.rigs.parts
  exact rebuildAgain_after (hk.agreed hx) (hload.trans hlx) hs (hres.trans (congrArg (·.resume) hresx))
    (hk.rigs.keep.rebuilds.trans (congrArg (·.st.rebuilds) hresx))

end

end Sys2Proof.Proofs

namespace Sys2Proof.Proofs

open Sys2Proof Sys2Proof.Machine

/-! ## The words of the stations in a rebuild (R167, R168) -/

section

variable {i : Fin 6} {s : State}

theorem Kept.prepared_all {u : State} (h : ∀ {r t}, Kept r t i s u) (hg : Agreed s) (hs : Prepared s) : Prepared u :=
  Kept.prepared (fun _ _ _ => h) hg hs

/-- The operation on station `i` and its word at the Stop Controller end with an entry of the account. -/
theorem touches_account (f : Account → Account) (g : StationWords → StationWords) {m : State} (h : Touches i s m) :
    Touches i s (setAccount i f (setWords i g m)) :=
  (h.trans (touches_setWords g m)).trans (Rigs.setAccount i f _).touches

theorem station_setAccount (f : Account → Account) (s : State) : (setAccount i f s).station i = s.station i :=
  station_congr (stations_setAccount i f s).1 i

theorem prepared_takeDeparture (hg : Agreed s) (hs : Prepared s) : Prepared (takeDeparture i s) := by
  refine (touches_account _ _ (Rigs.stationOffline i s).touches).prepared hs fun _ => readied_idle (not_serves_of_link ?_)
  rw [station_setAccount]
  exact (stationOffline_away hg.stations).1

theorem prepared_excluded (hg : Agreed s) (hs : Prepared s) : Prepared (wordExcluded i (excludeStation i s)) := by
  refine (touches_account _ _ (Rigs.excludeStation i s).touches).prepared hs fun _ => readied_idle (not_serves_of_excluded ?_)
  rw [station_setAccount]
  change ((excludeStation i s).station i).excluded = true
  rw [excludeStation_eq hg.stations, station_as hg.stations]
  rfl

/-- An included station has no switch, and its entry is PENDING (R129). -/
theorem prepared_included (hex : (s.station i).excluded = true) (hg : Agreed s) (hs : Prepared s) :
    Prepared (wordIncluded i (s.setStation i fun st => { st with excluded := false })) := by
  have hi : i.val < s.stations.length := by
    rw [hg.stations]
    exact i.isLt
  have hswitch : (s.station i).switch = none := (sound_station hg.sound hi).placed.2.2.2 hex
  have hlet : Touches i s (setWords i (fun w => { w with excluded := false }) (s.setStation i fun st => { st with excluded := false })) :=
    (Rigs.setStation i _ s).touches.trans (touches_setWords _ _)
  have hst := station_setStation_same (s := s) i (fun st => { st with excluded := false }) hg.stations
  have hword : ((setWords i (fun w => { w with excluded := false }) (s.setStation i fun st => { st with excluded := false })).words i).online
      = (s.words i).online :=
    congrArg (·.online) (words_setWords (s := s.setStation i fun st => { st with excluded := false }) hg.wordCount i _)
  unfold wordIncluded
  dsimp only
  split
  · refine (hlet.trans (Rigs.setAccount i _ _).touches).prepared hs fun hreb => ?_
    have hreb' : s.stop.st.rebuilds = true := (hlet.trans (Rigs.setAccount i _ _).touches).rebuilds ▸ hreb
    have hnow : Now true i s (s.station i) s.stop.account[i.val]? := now_station true hi fun _ => hreb'
    have hset := (hnow.set fun st => { st with excluded := false }).same
      (u := setWords i (fun w => { w with excluded := false }) (s.setStation i fun st => { st with excluded := false })) rfl rfl rfl
    have hlast := hset.account fun _ => .waiting
    obtain ⟨-, ha⟩ := hlast.entry rfl
    rw [hlast.station, ha]
    refine fun _ => ⟨?_, ?_, ?_⟩
    · cases s.stop.account[i.val]? <;> exact (nomatch ·)
    · intro w hw
      exact (nomatch hswitch.symm.trans hw)
    · cases s.stop.account[i.val]? <;> exact (nomatch ·)
  · next hoff =>
    refine hlet.prepared hs fun _ => readied_idle (not_serves_of_link fun hl => hoff ?_)
    rw [hword]
    refine (hg.words i).1 ?_
    rw [← hl]
    exact (congrArg (·.link) hst).symm

theorem prepared_changeExcluded (e : Bool) (hg : Agreed s) (hs : Prepared s) : Prepared (changeExcluded i e s) := by
  unfold changeExcluded
  split
  · exact hs
  · next hne =>
    cases e with
    | true => exact prepared_excluded hg hs
    | false =>
      have hex : (s.station i).excluded = true := by simpa using hne
      exact Kept.prepared (fun _ _ h => .includeStation fun hr => ⟨(h hr).1, (h hr).2.symm⟩) (agreed_enters hex hg)
        (prepared_included hex hg hs)

/-- The station has gone ONLINE: with its word the Stop Controller starts a fresh rebuild, but for an excluded one (R168). -/
theorem prepared_wordOnline (hload : s.loading = false) (n : Nat) (hl : (s.station i).link ≠ .offline) (hg : Agreed s)
    (hs : Prepared s) : Agreed (wordOnline i (stationOnline i n s)) ∧ Prepared (wordOnline i (stationOnline i n s)) := by
  have hword := agreed_hello n hl hg
  have ht : Touches i s (setWords i (fun w => { w with online := true }) (stationOnline i n s)) :=
    (Rigs.stationOnline i n s).touches.trans (touches_setWords _ _)
  unfold wordOnline
  dsimp only
  split
  · next hex =>
    refine ⟨hword, ht.prepared hs fun _ => readied_idle (not_serves_of_excluded ?_)⟩
    exact (hword.words i).2.symm.trans hex
  · exact ⟨(Orders.rebuildAgain _).agreed hword, rebuildAgain_after hword (ht.loading.trans hload) hs ht.resume ht.rebuilds⟩

theorem prepared_takeHello (hload : s.loading = false) (n : Nat) (hg : Agreed s) (hs : Prepared s) : Prepared (takeHello i n s) := by
  have minor (f : Station → Station) (hf : ∀ x, Beside x (f x) ∧ (f x).preload = x.preload) {m : State} (hg : Agreed m)
      (hs : Prepared m) : Agreed (m.setStation i f) ∧ Prepared (m.setStation i f) :=
    ⟨(Kept.minor (r := false) (t := none) hf m).agreed hg, Kept.prepared_all (.minor hf m) hg hs⟩
  unfold takeHello
  split
  · exact (minor _ (fun _ => ⟨by exact rfl, by rfl⟩) hg hs).2
  · next hno =>
    obtain ⟨hgm, hsm⟩ := prepared_wordOnline hload n (fun hl => hno (.inl hl)) hg hs
    extract_lets m v
    obtain ⟨hgv, hsv⟩ := minor (fun st => { st with pressure := false }) (fun _ => ⟨by exact rfl, by rfl⟩) hgm hsm
    split
    · exact hsv
    · exact Kept.prepared (fun _ _ h => .resync fun hr => ⟨(h hr).1, (h hr).2.symm⟩) hgv hsv

end

end Sys2Proof.Proofs

namespace Sys2Proof.Proofs

open Sys2Proof Sys2Proof.Machine

/-! ## Every step keeps what a rebuild promises (R166 to R168) -/

section

variable {s u : State}

theorem prepared_endLoad (hl : s.loading = true) (a : FlashAnswer) (hg : Agreed s) (hs : Prepared s) : Prepared (endLoad a s) := by
  have hquiet := endLoad_promises (P := fun m => m.stop.st.rebuilds = false) (q := true) hl a
    (fun _ hstop _ hm => (congrArg (·.st.rebuilds) hstop).trans hm) (fun ho _ hm => ho.quiet hm)
    (fun hk _ hm => hk.rigs.keep.rebuilds.trans hm) hg.sound (hs.unloaded hl)
  exact prepared_quiet hquiet.1

/-- The latch is written and handed over. -/
theorem prepared_latched {m : State} (hs : m.stations = s.stations) (hl : m.loading = s.loading) (hst : m.stop = s.stop)
    (hc : m.store.cues = s.store.cues) (hq : m.seq.current = s.seq.current) (hg : Agreed s) (hp : Prepared s) :
    Prepared (Machine.handOver m) :=
  prepared_handOver (hg.same hs hl (congrArg (·.words) hst))
    (prepared_beside hp hs hl hc hq ⟨congrArg (·.st) hst, congrArg (·.account) hst, congrArg (·.resume) hst⟩)

theorem prepared_deed (hd : Deed s u) (hg : Agreed s) (hs : Prepared s) : Prepared u := by
  have rig {i : Fin 6} (h : ∀ {r t}, Kept r t i s u) : Prepared u := Kept.prepared_all h hg hs
  have channel (i : Fin 16) (f : Channel → Channel) : Prepared (s.setChannel i f) := prepared_beside hs rfl rfl rfl rfl ⟨rfl, rfl, rfl⟩
  cases hd with
  | aside h =>
    refine prepared_beside hs h.stations h.loading h.cues (congrArg (·.current) h.seq :) ?_
    rw [h.stop]
    exact ⟨rfl, rfl, rfl⟩
  | restart hl => exact prepared_quiet (restartShow_quiet s)
  | edit hl change x => exact prepared_listChanged hl _ change x hg hs
  | mapEdit hl i p d map => exact prepared_mapChanged hl i p d map hg hs
  | setLatch hl n hn => exact prepared_latched (s := s) rfl rfl rfl rfl rfl hg hs
  | withdraw =>
    unfold withdrawLatch
    split
    · exact prepared_latched (s := s) rfl rfl rfl rfl rfl hg hs
    · exact hs
  | jump hl n hn => exact prepared_latched (s := s) rfl rfl rfl rfl rfl hg hs
  | handOver => exact prepared_handOver hg hs
  | go hl src => exact prepared_takeGo src hs
  | hold hl => exact prepared_takeHold hs
  | stop hl src => exact prepared_takeStop src s
  | resume hl bar c hst hc =>
    unfold takeResumePoint
    exact freshRebuild_prepared (p := { cue := c.number, bar := resumeBar bar c s }) (hg.same rfl rfl rfl) hl rfl
  | channel i x o => exact prepared_drainReport (channel i _)
  | pulse => exact prepared_afterCommit (outside_takePulse s) hs
  | commit hb => exact prepared_afterCommit (outside_commitScheduled s) hs
  | recommit => exact prepared_afterCommit (outside_commitIfDue s) hs
  | timer => exact prepared_timerExpires hs
  | burstStart i => exact prepared_drainReport (channel i _)
  | burstEnd i => exact channel i _
  | rise i => exact rig (.presentRises s)
  | fall i =>
    unfold presentFalls
    split
    · exact prepared_takeDeparture hg hs
    · exact hs
  | minor i f hf => exact rig (.minor (Upheld.minor_beside hf) s)
  | flush hl i => exact rig (.flushed s)
  | recompute hl i => exact rig (.recompute false s)
  | reset hl i => exact rig (.resetStation hl)
  | exclude hl i e => exact prepared_changeExcluded e hg hs
  | hello hl i n => exact prepared_takeHello hl n hg hs
  | loaded i o ho => exact rig (.loaded ho)
  | failLoad i kind o ho => exact rig (.failLoad kind ho)
  | selected i k hk => exact rig (.selected hk)
  | failSelect i k hk => exact rig (.failSelect hk)
  | send hl i => exact rig (.sendNext s)
  | sent i => exact rig (.frameEnds s)
  | load a hl => exact prepared_endLoad hl a hg hs

/-! ### READY -/

theorem agreed_restarted (q : List Instr) (f : FlashArea) (r : LineRate) (b : Bool) : Agreed (restarted q f r b) :=
  ⟨rfl, rfl, restarted_stations q f r b, (readySound_iff.mp (restarted_ready q f r b)).1⟩

/-- The stations, their words and the rebuild's promises hold together after each step. -/
theorem step_agreed_prepared (hs : Agreed s ∧ Prepared s) (he : step s = .next u) : Agreed u ∧ Prepared u :=
  keep_step (P := fun m => Agreed m ∧ Prepared m)
    (fun q f r b => ⟨agreed_restarted q f r b, (readySound_iff.mp (restarted_ready q f r b)).2⟩)
    (fun hd hm => ⟨agreed_upheld.deed hd hm.1, prepared_deed hd hm.1 hm.2⟩) hs he

/-- In READY an entry of a station that serves is SATISFIED. -/
theorem satisfied_of_unblocked {l : List Account} {a : Account} (h : l.any Account.blocks = false) (ha : a ∈ l)
    (hc : a ≠ .notCounted) : a = .satisfied := by
  have hb : a.blocks = false := by
    rw [List.any_eq_false] at h
    exact Bool.eq_false_iff.mpr (h a ha)
  cases a with
  | satisfied => rfl
  | notCounted => exact absurd rfl hc
  | waiting => exact (nomatch hb)
  | failed => exact (nomatch hb)

theorem prepared_readyKept (hacc : s.stop.account.length = 6) (hs : Prepared s) : s.ReadyKept := by
  intro hst p hp i hl hex patch hpatch
  have hreb : s.stop.st.rebuilds = true := by rw [hst]; rfl
  obtain ⟨hstate, q, hq, hcue⟩ := hs.rebuild hreb
  obtain rfl : q = p := Option.some.inj (hq.symm.trans hp)
  have hunblocked : s.stop.account.any Account.blocks = false := by
    by_contra hblocked
    rw [if_pos (Bool.not_eq_false _ ▸ hblocked), hst] at hstate
    exact (nomatch hstate)
  have hi : i.val < s.stop.account.length := by
    rw [hacc]
    exact i.isLt
  have hget : s.stop.account[i.val]? = some s.stop.account[i.val] := List.getElem?_eq_getElem hi
  obtain ⟨hcount, -, hconfirmed⟩ := hs.ready hreb i ((serves_iff _).mpr ⟨hl, hex⟩)
  have hsat : s.stop.account[i.val] = .satisfied := satisfied_of_unblocked hunblocked (List.getElem_mem hi) fun hno =>
    hcount (hget.trans (congrArg some hno))
  have htracked : trackedAt s i = some patch := by
    unfold trackedAt
    rw [hcue]
    exact hpatch
  exact (hconfirmed (hget.trans (congrArg some hsat)) patch htracked).1

end

/-- Settles O9: each deed keeps the promises of each station, those of its word and those of a rebuild; in READY no entry
blocks, so that the entry of each station that serves is SATISFIED. -/
theorem stepKeepsStationsSound : Obligations.StepKeepsStationsSound := by
  have kept (s : State) (hz : s.Sized) (hs : s.ReadySound) : s.ReadyKept := by
    obtain ⟨-, -, -, -, hacc⟩ := hz
    exact prepared_readyKept hacc (readySound_iff.mp hs).2
  refine ⟨fun s u hs he => keep_step restarted_stations sound_upheld.deed hs he, fun s u hz hs hr he => ?_, kept⟩
  obtain ⟨hwords, hprepared⟩ := readySound_iff.mp hr
  obtain ⟨hstations, -, -, hcount, -⟩ := id hz
  obtain ⟨hg, hp⟩ := step_agreed_prepared ⟨⟨hstations, hcount, hs, hwords⟩, hprepared⟩ he
  have hu : u.ReadySound := readySound_iff.mpr ⟨hg.words, hp⟩
  exact ⟨hu, kept u (sized_stable.step hz he) hu⟩

end Sys2Proof.Proofs
